-- ==== Sys2Proof/Word.lean ====
section
/-! DEFINITION. The words of the NGV-Z6. -/

namespace Sys2Proof

/-- A 64-bit register word (R172). -/
abbrev Word := BitVec 64

/-- A byte of memory (R4). -/
abbrev Byte := BitVec 8

end Sys2Proof
end

