-- ==== Sys2Proof/Machine/Bits.lean ====
section
/-! DEFINITION. Bit fields, extensions, byte lists and the checksum that the rest of the machine uses. -/

namespace Sys2Proof

/-- Slot i of width w of a bit string: bits [w·i+w−1 : w·i]. -/
def getF {n : Nat} (w : Nat) (x : BitVec n) (i : Nat) : BitVec w := x.extractLsb' (w * i) w

/-- Replaces slot i of width w. -/
def setF {n w : Nat} (x : BitVec n) (i : Nat) (v : BitVec w) : BitVec n :=
  (x &&& ~~~((BitVec.allOnes w).setWidth n <<< (w * i))) ||| (v.setWidth n <<< (w * i))

/-- Bits [lo+w−1 : lo] of a word. -/
def fld {n : Nat} (x : BitVec n) (lo w : Nat) : BitVec w := x.extractLsb' lo w

/-- Replaces bits [lo+w−1 : lo] of a word. -/
def putFld {n w : Nat} (x : BitVec n) (lo : Nat) (v : BitVec w) : BitVec n :=
  (x &&& ~~~((BitVec.allOnes w).setWidth n <<< lo)) ||| (v.setWidth n <<< lo)

/-- Sets or clears bit i of a word. -/
def putBit {n : Nat} (x : BitVec n) (i : Nat) (b : Bool) : BitVec n := putFld x i (BitVec.ofBool b)

/-- sext to 64 bits (R11). -/
def sext {n : Nat} (x : BitVec n) : Word := x.signExtend 64

/-- zext to 64 bits (R11). -/
def zext {n : Nat} (x : BitVec n) : Word := x.setWidth 64

/-- The bytes of a value, least significant first (R4). -/
def toBytes : Nat → Nat → List Byte
  | 0, _ => []
  | n + 1, x => BitVec.ofNat 8 x :: toBytes n (x / 256)

/-- The value of bytes, least significant first (R4). -/
def ofBytes : List Byte → Nat
  | [] => 0
  | b :: r => b.toNat + 256 * ofBytes r

/-- A word of 8k bits has the size of its bytes: the low n bytes of a word as a 64-bit value. -/
def wordOfBytes (l : List Byte) : Word := BitVec.ofNat 64 (ofBytes l)

/-- One bit step of CRC-32C (R151). -/
def crcBit (c : BitVec 32) : BitVec 32 :=
  if c.getLsbD 0 then (c >>> 1) ^^^ 0x82F63B78 else c >>> 1

/-- CRC-32C over one byte, on the running state (R151). -/
def crcByte (c : BitVec 32) (b : Byte) : BitVec 32 :=
  crcBit (crcBit (crcBit (crcBit (crcBit (crcBit (crcBit (crcBit (c ^^^ b.setWidth 32))))))))

/-- CRC-32C over bytes, on the running state (R151). -/
def crcRun (c : BitVec 32) (l : List Byte) : BitVec 32 := l.foldl crcByte c

/-- The initial state of CRC-32C (R151). -/
def crcInit : BitVec 32 := 0xFFFFFFFF

/-- The checksum of bytes (R151). -/
def crc32c (l : List Byte) : BitVec 32 := crcRun crcInit l ^^^ 0xFFFFFFFF

/-- Number of one bits below position n. -/
def popBelow {w : Nat} (x : BitVec w) : Nat → Nat
  | 0 => 0
  | n + 1 => popBelow x n + (if x.getLsbD n then 1 else 0)

/-- Number of one bits. -/
def popCount {w : Nat} (x : BitVec w) : Nat := popBelow x w

/-- Leading zeros among the low n bits. -/
def leadZeros {w : Nat} (x : BitVec w) : Nat → Nat
  | 0 => 0
  | n + 1 => if x.getLsbD n then 0 else leadZeros x n + 1

/-- The number of ones from bit 0 up: a mask of the n lowest positions. -/
def lowMask (w n : Nat) : BitVec w := BitVec.ofNat w (2 ^ n - 1)

/-- n equal fields side by side. -/
def fields {w : Nat} (n m : Nat) (x : BitVec w) : BitVec m := (BitVec.replicate n x).setWidth m

end Sys2Proof
end

