-- ==== Sys2Proof/Machine/Num.lean ====
section
/-! DEFINITION. Exact values and their rounding to grids (R69, R79–R81). -/

namespace Sys2Proof.Machine

/-- An exact value (R69): m × 2^e, the signed zero −0, an infinity or nan. +0 is fin 0 e. -/
inductive XVal where
  | fin (m : Int) (e : Int)
  | negZero
  | inf (neg : Bool)
  | nan
  deriving DecidableEq, Repr

/-- Sticky flags of VSTAT in their bit places (R189): 1 SAT, 2 INV, 4 EMPTY, 8 OOR, 16 RANGE. -/
abbrev Flags := BitVec 5

def flagSat : Flags := 1
def flagInv : Flags := 2
def flagEmpty : Flags := 4
def flagOor : Flags := 8
def flagRange : Flags := 16

namespace XVal

/-- +0. -/
def zero : XVal := .fin 0 0

/-- An integer. -/
def ofInt (m : Int) : XVal := .fin m 0

/-- The value is nan. -/
def isNan : XVal → Bool
  | .nan => true
  | _ => false

/-- The value is a zero of either sign. -/
def isZero : XVal → Bool
  | .fin 0 _ => true
  | .negZero => true
  | _ => false

/-- The sign bit: set for negative values, −0 and −inf. -/
def sign : XVal → Bool
  | .fin m _ => decide (m < 0)
  | .negZero => true
  | .inf n => n
  | .nan => false

/-- A zero of a sign. -/
def zeroOf (neg : Bool) : XVal := if neg then .negZero else zero

/-- Negation (R73, R78). -/
def neg : XVal → XVal
  | .fin m e => if m = 0 then .negZero else .fin (-m) e
  | .negZero => zero
  | .inf n => .inf (!n)
  | .nan => .nan

/-- Magnitude. -/
def abs (x : XVal) : XVal := if x.sign then x.neg else x

/-- m × 2^e over a lower exponent. -/
def lower (m e lo : Int) : Int := m * 2 ^ (e - lo).toNat

/-- Sum (R78; signs of zeros as log 14). -/
def add : XVal → XVal → XVal
  | .nan, _ => .nan
  | _, .nan => .nan
  | .inf a, .inf b => if a = b then .inf a else .nan
  | .inf a, _ => .inf a
  | _, .inf b => .inf b
  | .negZero, .negZero => .negZero
  | .negZero, y => y
  | x, .negZero => x
  | .fin a e, .fin b f => if a = 0 then .fin b f else if b = 0 then .fin a e
    else if e ≤ f then .fin (a + lower b f e) e else .fin (lower a e f + b) f

/-- Difference. -/
def sub (x y : XVal) : XVal := x.add y.neg

/-- Product: signs by exclusive or, zeros included (R78). -/
def mul (x y : XVal) : XVal :=
  let n := x.sign != y.sign
  match x, y with
  | .nan, _ => .nan
  | _, .nan => .nan
  | .inf _, y => if y.isZero then .nan else .inf n
  | x, .inf _ => if x.isZero then .nan else .inf n
  | .fin a e, .fin b f => if a * b = 0 then zeroOf n else .fin (a * b) (e + f)
  | _, _ => zeroOf n

/-- Multiplication by a power of two. -/
def scale (x : XVal) (k : Int) : XVal :=
  match x with
  | .fin m e => .fin m (e + k)
  | y => y

/-- Quotient, rounded down to at least 300 significant bits with a sticky last bit: every rounding to a format of the
spec is that of the exact quotient. Signs by exclusive or (R78). -/
def div (x y : XVal) : XVal :=
  let n := x.sign != y.sign
  match x, y with
  | .nan, _ => .nan
  | _, .nan => .nan
  | .inf _, .inf _ => .nan
  | .inf _, _ => .inf n
  | _, .inf _ => zeroOf n
  | .fin a e, .fin b f =>
    if b = 0 then (if a = 0 then .nan else .inf n)
    else if a = 0 then zeroOf n
    else
      let k := b.natAbs.log2 + 300
      let q := a.natAbs * 2 ^ k / b.natAbs
      let r := a.natAbs * 2 ^ k % b.natAbs
      let m : Int := 2 * q + (if r = 0 then 0 else 1)
      .fin (if n then -m else m) (e - f - k - 1)
  | .fin a _, .negZero => if a = 0 then .nan else .inf n
  | .negZero, .fin b _ => if b = 0 then .nan else zeroOf n
  | .negZero, .negZero => .nan

/-- Integer square root by bits: fuel counts the bits still to be tried. -/
def isqrtGo (n : Nat) : Nat → Nat → Nat
  | 0, r => r
  | k + 1, r => if (r + 2 ^ k) * (r + 2 ^ k) ≤ n then isqrtGo n k (r + 2 ^ k) else isqrtGo n k r

/-- floor of the square root. -/
def isqrt (n : Nat) : Nat := isqrtGo n (n.log2 / 2 + 1) 0

/-- Square root, rounded down with a sticky last bit, as div is. −0 gives −0, a negative value nan. -/
def sqrt : XVal → XVal
  | .nan => .nan
  | .negZero => .negZero
  | .inf n => if n then .nan else .inf false
  | .fin m e =>
    if m < 0 then .nan
    else if m = 0 then zero
    else
      let k : Nat := if e % 2 = 0 then 600 else 601
      let v := m.toNat * 2 ^ k
      let r := isqrt v
      .fin (2 * (r : Int) + (if r * r = v then 0 else 1)) ((e - k) / 2 - 1)

/-- Comparison of values that are not nan: −1, 0 or 1; −0 equals 0 (R69). -/
def cmp : XVal → XVal → Int
  | .inf a, .inf b => if a = b then 0 else if a then -1 else 1
  | .inf a, _ => if a then -1 else 1
  | _, .inf b => if b then 1 else -1
  | .fin a e, .fin b f =>
    let d := if e ≤ f then a - lower b f e else lower a e f - b
    d.sign
  | .fin a _, _ => a.sign
  | _, .fin b _ => -b.sign
  | _, _ => 0

/-- The first is less. -/
def lt (x y : XVal) : Bool := decide (cmp x y < 0)

/-- The values are equal. -/
def eq (x y : XVal) : Bool := decide (cmp x y = 0)

/-- floor of log2 of the magnitude of a finite value that is not zero. -/
def log2 : XVal → Int
  | .fin m e => m.natAbs.log2 + e
  | _ => 0

end XVal

/-- The rounding modes of a conversion control (R79). -/
inductive RMode where
  | rne | rtz | rup | rdn | sr
  deriving DecidableEq, Repr

/-- The mode of bits [2:0]; none for the reserved codes (R79). -/
def RMode.ofCode (c : BitVec 3) : Option RMode :=
  match c.toNat with
  | 0 => some .rne
  | 1 => some .rtz
  | 2 => some .rup
  | 3 => some .rdn
  | 4 => some .sr
  | _ => none

/-- The magnitude rounds up: num is cut at bit d, the value's sign is neg, the draw is u (R79, R81). -/
def roundsUp (mode : RMode) (neg : Bool) (u : BitVec 32) (num d : Nat) : Bool :=
  let rem := num % 2 ^ d
  if rem = 0 then false
  else match mode with
    | .rne => decide (2 ^ d < 2 * rem) || (decide (2 * rem = 2 ^ d) && (num / 2 ^ d) % 2 == 1)
    | .rtz => false
    | .rup => !neg
    | .rdn => neg
    | .sr =>
      if neg then !decide (u.toNat < (2 ^ d - rem) * 2 ^ 32 / 2 ^ d)
      else decide (u.toNat < rem * 2 ^ 32 / 2 ^ d)

/-- The magnitude of m × 2^e on the grid of spacing 2^q: the multiple of 2^q it rounds to (R80 step 2). -/
def roundMag (mode : RMode) (u : BitVec 32) (m e q : Int) : Nat :=
  if q ≤ e then m.natAbs * 2 ^ (e - q).toNat
  else
    let d := (q - e).toNat
    m.natAbs / 2 ^ d + (if roundsUp mode (decide (m < 0)) u m.natAbs d then 1 else 0)

/-- m × 2^e rounded to an integer. -/
def roundInt (mode : RMode) (u : BitVec 32) (m e : Int) : Int :=
  let r : Int := roundMag mode u m e 0
  if m < 0 then -r else r

/-- A floating format (R76): exponent bits, fraction bits, bias; whether the top exponent carries infinities (not in
e4m3). -/
structure FloatFmt where
  ebits : Nat
  mbits : Nat
  bias : Nat
  hasInf : Bool
  deriving DecidableEq, Repr

def fmtF32 : FloatFmt := ⟨8, 23, 127, true⟩
def fmtF16 : FloatFmt := ⟨5, 10, 15, true⟩
def fmtBf16 : FloatFmt := ⟨8, 7, 127, true⟩
def fmtE4m3 : FloatFmt := ⟨4, 3, 7, false⟩
def fmtE5m2 : FloatFmt := ⟨5, 2, 15, true⟩

/-- Magnitude encoding of the canonical NaN (R76). -/
def FloatFmt.nanBits (f : FloatFmt) : Nat :=
  if f.hasInf then (2 ^ f.ebits - 1) * 2 ^ f.mbits + 2 ^ (f.mbits - 1) else 2 ^ (f.ebits + f.mbits) - 1

/-- Magnitude encoding of the infinity. -/
def FloatFmt.infBits (f : FloatFmt) : Nat := (2 ^ f.ebits - 1) * 2 ^ f.mbits

/-- Magnitude encoding of the largest finite value. -/
def FloatFmt.maxBits (f : FloatFmt) : Nat :=
  if f.hasInf then f.infBits - 1 else 2 ^ (f.ebits + f.mbits) - 2

/-- An encoding with a sign. -/
def FloatFmt.signed (f : FloatFmt) (neg : Bool) (mag : Nat) : Nat :=
  mag + (if neg then 2 ^ (f.ebits + f.mbits) else 0)

/-- The value of an encoding (R70, R76). -/
def FloatFmt.widen (f : FloatFmt) (bits : Nat) : XVal :=
  let neg := decide (2 ^ (f.ebits + f.mbits) ≤ bits)
  let mag := bits % 2 ^ (f.ebits + f.mbits)
  let e := mag / 2 ^ f.mbits
  let frac := mag % 2 ^ f.mbits
  if f.hasInf && e == 2 ^ f.ebits - 1 then (if frac = 0 then .inf neg else .nan)
  else if !f.hasInf && mag == f.nanBits then .nan
  else
    let m : Int := if e = 0 then frac else frac + 2 ^ f.mbits
    let x : Int := (if e = 0 then 1 else (e : Int)) - f.bias - f.mbits
    if m = 0 then XVal.zeroOf neg else .fin (if neg then -m else m) x

/-- What a magnitude above the largest becomes (R80 step 3). -/
def FloatFmt.overflow (f : FloatFmt) (mode : RMode) (satf neg : Bool) : Nat :=
  if satf || !f.hasInf then f.maxBits
  else match mode with
    | .rne => f.infBits
    | .sr => f.infBits
    | .rtz => f.maxBits
    | .rup => if neg then f.maxBits else f.infBits
    | .rdn => if neg then f.infBits else f.maxBits

/-- round into a floating format (R80): the encoding and the flags. -/
def FloatFmt.round (f : FloatFmt) (mode : RMode) (satf : Bool) (u : BitVec 32) : XVal → Nat × Flags
  | .nan => (f.nanBits, flagInv)
  | .negZero => (f.signed true 0, 0)
  | .inf n => if satf || !f.hasInf then (f.signed n f.maxBits, flagSat) else (f.signed n f.infBits, 0)
  | .fin m e =>
    if m = 0 then (0, 0)
    else
      let neg := decide (m < 0)
      let qmin : Int := 1 - f.bias - f.mbits
      let q := max (m.natAbs.log2 + e - f.mbits) qmin
      let r := roundMag mode u m e q
      -- r × 2^q with r ≤ 2^(mbits+1): the encoding counts the grid from the smallest subnormal
      let mag := if r < 2 ^ f.mbits then r else ((q - qmin).toNat + 1) * 2 ^ f.mbits + (r - 2 ^ f.mbits)
      if f.maxBits < mag then (f.signed neg (f.overflow mode satf neg), flagSat) else (f.signed neg mag, 0)

end Sys2Proof.Machine
end

