-- ==== Sys2Proof/Config.lean ====
section
/-! DEFINITION. The free values of the model: what the spec calls undefined (R10) or leaves unstated. Each is an opaque
function of the counter State.fresh, so nothing can be proved of its value (log 12). -/

namespace Sys2Proof.Config

/-- An undefined 64-bit word. -/
opaque freeWord : Nat → Word

/-- An undefined byte. -/
opaque freeByte : Nat → Byte

/-- Undefined elements of a vector register (R10, R174, R178, R196, R373). -/
opaque freeElems : Nat → BitVec 32768

/-- Undefined scale or extra bytes of a vector register. -/
opaque freeBlocks : Nat → BitVec 1024

/-- An undefined mask register (R373). -/
opaque freeMask : Nat → BitVec 8192

/-- An undefined grid of a small-matrix register (R373). -/
opaque freeGrid : Nat → BitVec 73728

/-- An undefined permutation field of a small-matrix register (R373). -/
opaque freePerm : Nat → BitVec 3072

/-- An undefined accumulator slice (R373). -/
opaque freeAcc : Nat → BitVec 983040

/-- The clock target at which a partition's energy rate would spend a budget exactly in a time (R432): of the energy of
the last interval in units of 0.5 pJ, the millijoules left, the µs left and the present target. The spec gives no law between target
and energy. -/
opaque quotaSteps : Nat → Nat → Nat → Nat → Nat

end Sys2Proof.Config
end

