-- ==== Sys2Proof/Syntax.lean ====
section
/-! DEFINITION. The syntax of the NGV-Z6: one constructor per row of the opcode table, with the operands of R48 to
R60 for the encoded forms and the data an outside party brings for the events. -/

namespace Sys2Proof

/-- A core of the module: bits [7:0] as SYSID.CORE, bit [8] set for the firmware core of die [7:0] (R14, R15, R418). -/
abbrev CoreRef := BitVec 9

/-- What the sensors of one cluster report for a control interval (R425, R432, R433). -/
structure ClusterSample where
  /-- junction temperature in °C -/
  temp : BitVec 8
  /-- cluster current in units of 0.25 A -/
  curr : BitVec 12
  /-- the greatest current of the whole interval, in units of 0.25 A (R426) -/
  peak : BitVec 12
  /-- the cluster's measured power, in currants of 0.5 W -/
  power : Nat
  /-- the power that the cluster needs at its target without boost, in currants (R427) -/
  need : Nat
  /-- energies of the last interval in units of 0.5 pJ: of the cores, and of the structures that they share in the
  cluster and the die (R432) -/
  energy : Nat
  shared : Nat
  /-- active cycles of each core of the cluster in the last interval (R432) -/
  active : List Nat
  deriving DecidableEq, Repr

/-- What a partition is measured to draw and to spend in a control interval (R431, R432), power in currants. -/
structure PartSample where
  part : BitVec 8
  /-- D(p): the power at min(Fth, Fcur, Fq) -/
  demand : Nat
  /-- Fl(p): the power at 32 steps -/
  floor : Nat
  /-- the power measured in the last interval -/
  power : Nat
  /-- bytes that the partition's accesses moved in device memory and in the second tier (R432) -/
  devBytes : Nat
  tierBytes : Nat
  deriving DecidableEq, Repr

/-- The measurements a control interval samples (R425): one record per cluster in cluster order, one per measured
partition, and the power of HBM, second tier, I/O die and conversion in currants (R431). -/
structure Samples where
  clusters : List ClusterSample
  parts : List PartSample
  overhead : Nat
  deriving DecidableEq, Repr

/-- One entry of a Tygen cap set (R445). -/
structure CapEntry where
  part : BitVec 8
  rank : BitVec 8
  cap : BitVec 16
  deriving DecidableEq, Repr

/-- A Tygen cap-set message (R445): its SEQ, the module cap in W and its entries. -/
structure CapSet where
  seq : BitVec 64
  moduleCap : BitVec 32
  entries : List CapEntry
  deriving DecidableEq, Repr

/-- One request of a Tygen readback (R445). -/
structure ReadReq where
  kind : BitVec 8
  core : BitVec 8
  n : BitVec 8
  i : BitVec 8
  addr : BitVec 64
  deriving DecidableEq, Repr

/-- A register of on-package register storage, for the errors of R116 and R119. -/
inductive RegName where
  | g (n : BitVec 5)
  | v (n : BitVec 5)
  | k (n : BitVec 3)
  | m (n : BitVec 3)
  | acc (n : BitVec 1)
  deriving DecidableEq, Repr

/-- Where a soft error arises (R116): a byte of memory, or a register; correctable or not. -/
inductive ErrSite where
  | mem (pa : BitVec 52) (correctable : Bool)
  | reg (c : CoreRef) (r : RegName) (correctable : Bool)
  deriving DecidableEq, Repr

/-- The data of an event of the opcode table: what an engine, the host, a peer, the management controller or a sensor
brings. Each event's docstring in Instr names the fields it reads. -/
structure EventArg where
  /-- the core -/
  c : CoreRef
  /-- a port of a core, or a Spaes port -/
  p : BitVec 4
  /-- a chunk of a pl.dec -/
  chunk : BitVec 4
  /-- the context, which is also its partition's number -/
  ctx : BitVec 8
  /-- a queue of the context -/
  q : BitVec 4
  /-- bits [55:6] of a descriptor address -/
  desc : BitVec 50
  /-- a cluster -/
  cl : BitVec 4
  /-- a die -/
  die : BitVec 2
  /-- a checkpoint slot -/
  slot : BitVec 3
  /-- a value written -/
  val : BitVec 64
  /-- a physical address -/
  pa : BitVec 52
  /-- an offset within a receive window -/
  off : BitVec 64
  /-- a length in bytes -/
  len : BitVec 9
  /-- whether the transfer, copy or release succeeded -/
  ok : Bool
  /-- a time in ns of the management controller's clock -/
  time : BitVec 64
  /-- bytes written -/
  bytes : List (BitVec 8)
  /-- the samples of a control interval -/
  smp : Samples
  /-- a Tygen cap set -/
  msg : CapSet
  /-- the requests of a Tygen readback -/
  reqs : List ReadReq
  /-- where a soft error arises -/
  site : ErrSite
  deriving DecidableEq, Repr

/-- One constructor per row of the opcode table: the 248 encoded forms (R58, R59) and the 77 events
that are steps of the device with no word of their own. Operand fields have the exact width of their class (R56).
The data of an event (which core, port, cluster, address) stand in State.ev, so an event takes no operand here. The
constructors without operands stand last. -/
inductive Instr where
  /-- add (R120). -/
  | add (d : BitVec 5) (a : BitVec 5) (b : BitVec 5)
  /-- sub (R120). -/
  | sub (d : BitVec 5) (a : BitVec 5) (b : BitVec 5)
  /-- and (R120). -/
  | and (d : BitVec 5) (a : BitVec 5) (b : BitVec 5)
  /-- or (R120). -/
  | or (d : BitVec 5) (a : BitVec 5) (b : BitVec 5)
  /-- xor (R120). -/
  | xor (d : BitVec 5) (a : BitVec 5) (b : BitVec 5)
  /-- sll (R120). -/
  | sll (d : BitVec 5) (a : BitVec 5) (b : BitVec 5)
  /-- srl (R120). -/
  | srl (d : BitVec 5) (a : BitVec 5) (b : BitVec 5)
  /-- sra (R120). -/
  | sra (d : BitVec 5) (a : BitVec 5) (b : BitVec 5)
  /-- slt (R120). -/
  | slt (d : BitVec 5) (a : BitVec 5) (b : BitVec 5)
  /-- sltu (R120). -/
  | sltu (d : BitVec 5) (a : BitVec 5) (b : BitVec 5)
  /-- min (R120). -/
  | min (d : BitVec 5) (a : BitVec 5) (b : BitVec 5)
  /-- max (R120). -/
  | max (d : BitVec 5) (a : BitVec 5) (b : BitVec 5)
  /-- minu (R120). -/
  | minu (d : BitVec 5) (a : BitVec 5) (b : BitVec 5)
  /-- maxu (R120). -/
  | maxu (d : BitVec 5) (a : BitVec 5) (b : BitVec 5)
  /-- clz (R120). -/
  | clz (d : BitVec 5) (a : BitVec 5)
  /-- popc (R120). -/
  | popc (d : BitVec 5) (a : BitVec 5)
  /-- mul (R120). -/
  | mul (d : BitVec 5) (a : BitVec 5) (b : BitVec 5)
  /-- mulh (R120). -/
  | mulh (d : BitVec 5) (a : BitVec 5) (b : BitVec 5)
  /-- mulhu (R120). -/
  | mulhu (d : BitVec 5) (a : BitVec 5) (b : BitVec 5)
  /-- div (R121). -/
  | div (d : BitVec 5) (a : BitVec 5) (b : BitVec 5)
  /-- divu (R121). -/
  | divu (d : BitVec 5) (a : BitVec 5) (b : BitVec 5)
  /-- rem (R121). -/
  | rem (d : BitVec 5) (a : BitVec 5) (b : BitVec 5)
  /-- remu (R121). -/
  | remu (d : BitVec 5) (a : BitVec 5) (b : BitVec 5)
  /-- ldx.b (R126). -/
  | ldxB (d : BitVec 5) (a : BitVec 5) (b : BitVec 5)
  /-- ldx.bu (R126). -/
  | ldxBu (d : BitVec 5) (a : BitVec 5) (b : BitVec 5)
  /-- ldx.h (R126). -/
  | ldxH (d : BitVec 5) (a : BitVec 5) (b : BitVec 5)
  /-- ldx.hu (R126). -/
  | ldxHu (d : BitVec 5) (a : BitVec 5) (b : BitVec 5)
  /-- ldx.w (R126). -/
  | ldxW (d : BitVec 5) (a : BitVec 5) (b : BitVec 5)
  /-- ldx.wu (R126). -/
  | ldxWu (d : BitVec 5) (a : BitVec 5) (b : BitVec 5)
  /-- ldx.d (R126). -/
  | ldxD (d : BitVec 5) (a : BitVec 5) (b : BitVec 5)
  /-- stx.b (R126). -/
  | stxB (d : BitVec 5) (a : BitVec 5) (b : BitVec 5)
  /-- stx.h (R126). -/
  | stxH (d : BitVec 5) (a : BitVec 5) (b : BitVec 5)
  /-- stx.w (R126). -/
  | stxW (d : BitVec 5) (a : BitVec 5) (b : BitVec 5)
  /-- stx.d (R126). -/
  | stxD (d : BitVec 5) (a : BitVec 5) (b : BitVec 5)
  /-- blk.cap (R134). -/
  | blkCap (d : BitVec 1) (a : BitVec 5) (b : BitVec 5)
  /-- blk.run (R135). -/
  | blkRun (a : BitVec 5) (b : BitVec 5)
  /-- blk.brk (R136). -/
  | blkBrk (d : BitVec 5)
  /-- addi (R123). -/
  | addi (d : BitVec 5) (a : BitVec 5) (imm : BitVec 16)
  /-- andi (R123). -/
  | andi (d : BitVec 5) (a : BitVec 5) (imm : BitVec 16)
  /-- ori (R123). -/
  | ori (d : BitVec 5) (a : BitVec 5) (imm : BitVec 16)
  /-- xori (R123). -/
  | xori (d : BitVec 5) (a : BitVec 5) (imm : BitVec 16)
  /-- slli (R124). -/
  | slli (d : BitVec 5) (a : BitVec 5) (n : BitVec 6)
  /-- srli (R124). -/
  | srli (d : BitVec 5) (a : BitVec 5) (n : BitVec 6)
  /-- srai (R124). -/
  | srai (d : BitVec 5) (a : BitVec 5) (n : BitVec 6)
  /-- lui (R125). -/
  | lui (d : BitVec 5) (imm : BitVec 21)
  /-- auipc (R125). -/
  | auipc (d : BitVec 5) (imm : BitVec 21)
  /-- jal (R131). -/
  | jal (d : BitVec 5) (imm : BitVec 21)
  /-- jalr (R131). -/
  | jalr (d : BitVec 5) (a : BitVec 5) (imm : BitVec 16)
  /-- ld.d (R127). -/
  | ldD (d : BitVec 5) (a : BitVec 5) (imm : BitVec 16)
  /-- st.d (R127). -/
  | stD (d : BitVec 5) (a : BitVec 5) (imm : BitVec 16)
  /-- beq (R130). -/
  | beq (a : BitVec 5) (b : BitVec 5) (off : BitVec 16)
  /-- bne (R130). -/
  | bne (a : BitVec 5) (b : BitVec 5) (off : BitVec 16)
  /-- vcfg (R174). -/
  | vcfg (d : BitVec 5) (tag : BitVec 5) (frac : BitVec 5) (grp : BitVec 2)
  /-- vsetvl (R177). -/
  | vsetvl (d : BitVec 5) (a : BitVec 5) (b : BitVec 5)
  /-- vprof (R178). -/
  | vprof (d : BitVec 5) (a : BitVec 5)
  /-- vmfc (R190). -/
  | vmfc (d : BitVec 5) (a : BitVec 5)
  /-- vlq (R195). -/
  | vlq (d : BitVec 5) (a : BitVec 5)
  /-- vspill (R196). -/
  | vspill (a : BitVec 5) (b : BitVec 5)
  /-- vfill (R196). -/
  | vfill (d : BitVec 5) (b : BitVec 5)
  /-- v.ld (R205). -/
  | vLd (d : BitVec 5) (a : BitVec 5) (imm : BitVec 16)
  /-- v.st (R205). -/
  | vSt (d : BitVec 5) (a : BitVec 5) (imm : BitVec 16)
  /-- v.lds (R205). -/
  | vLds (d : BitVec 5) (a : BitVec 5) (b : BitVec 5) (k : BitVec 3) (z : Bool)
  /-- v.ldx (R205). -/
  | vLdx (d : BitVec 5) (a : BitVec 5) (b : BitVec 5) (k : BitVec 3) (z : Bool) (r : BitVec 2)
  /-- v.ldb (R205). -/
  | vLdb (d : BitVec 5) (a : BitVec 5) (k : BitVec 3) (z : Bool)
  /-- v.ldk (R206). -/
  | vLdk (d : BitVec 3) (a : BitVec 5)
  /-- v.ldq (R209). -/
  | vLdq (d : BitVec 5) (a : BitVec 5) (k : BitVec 3) (z : Bool)
  /-- v.ldff (R207). -/
  | vLdff (d : BitVec 5) (a : BitVec 5) (b : BitVec 5) (k : BitVec 3) (z : Bool)
  /-- v.sts (R205). -/
  | vSts (d : BitVec 5) (a : BitVec 5) (b : BitVec 5) (k : BitVec 3)
  /-- v.stx (R205). -/
  | vStx (d : BitVec 5) (a : BitVec 5) (b : BitVec 5) (k : BitVec 3) (r : BitVec 2)
  /-- v.stk (R206). -/
  | vStk (d : BitVec 3) (a : BitVec 5)
  /-- v.sxadd (R210). -/
  | vSxadd (d : BitVec 5) (a : BitVec 5) (b : BitVec 5) (k : BitVec 3) (r : BitVec 2)
  /-- v.sxmin (R210). -/
  | vSxmin (d : BitVec 5) (a : BitVec 5) (b : BitVec 5) (k : BitVec 3) (r : BitVec 2)
  /-- v.sxmax (R210). -/
  | vSxmax (d : BitVec 5) (a : BitVec 5) (b : BitVec 5) (k : BitVec 3) (r : BitVec 2)
  /-- v.pf (R208). -/
  | vPf (a : BitVec 5) (b : BitVec 5)
  /-- v.ldc (R208). -/
  | vLdc (d : BitVec 5) (a : BitVec 5) (k : BitVec 3) (z : Bool)
  /-- v.stc (R208). -/
  | vStc (d : BitVec 5) (a : BitVec 5) (k : BitVec 3)
  /-- v.add (R211). -/
  | vAdd (d : BitVec 5) (a : BitVec 5) (b : BitVec 5) (k : BitVec 3) (z : Bool) (r : BitVec 2)
  /-- v.sub (R211). -/
  | vSub (d : BitVec 5) (a : BitVec 5) (b : BitVec 5) (k : BitVec 3) (z : Bool) (r : BitVec 2)
  /-- v.mul (R211). -/
  | vMul (d : BitVec 5) (a : BitVec 5) (b : BitVec 5) (k : BitVec 3) (z : Bool) (r : BitVec 2)
  /-- v.mulh (R211). -/
  | vMulh (d : BitVec 5) (a : BitVec 5) (b : BitVec 5) (k : BitVec 3) (z : Bool) (r : BitVec 2)
  /-- v.madd (R211). -/
  | vMadd (d : BitVec 5) (a : BitVec 5) (b : BitVec 5) (k : BitVec 3) (z : Bool) (r : BitVec 2)
  /-- v.msub (R211). -/
  | vMsub (d : BitVec 5) (a : BitVec 5) (b : BitVec 5) (k : BitVec 3) (z : Bool) (r : BitVec 2)
  /-- v.min (R211). -/
  | vMin (d : BitVec 5) (a : BitVec 5) (b : BitVec 5) (k : BitVec 3) (z : Bool) (r : BitVec 2)
  /-- v.max (R211). -/
  | vMax (d : BitVec 5) (a : BitVec 5) (b : BitVec 5) (k : BitVec 3) (z : Bool) (r : BitVec 2)
  /-- v.abs (R211). -/
  | vAbs (d : BitVec 5) (a : BitVec 5) (k : BitVec 3) (z : Bool)
  /-- v.neg (R211). -/
  | vNeg (d : BitVec 5) (a : BitVec 5) (k : BitVec 3) (z : Bool)
  /-- v.clamp (R211). -/
  | vClamp (d : BitVec 5) (a : BitVec 5) (b : BitVec 5) (k : BitVec 3) (z : Bool) (r : BitVec 2)
  /-- v.and (R212). -/
  | vAnd (d : BitVec 5) (a : BitVec 5) (b : BitVec 5) (k : BitVec 3) (z : Bool) (r : BitVec 2)
  /-- v.or (R212). -/
  | vOr (d : BitVec 5) (a : BitVec 5) (b : BitVec 5) (k : BitVec 3) (z : Bool) (r : BitVec 2)
  /-- v.xor (R212). -/
  | vXor (d : BitVec 5) (a : BitVec 5) (b : BitVec 5) (k : BitVec 3) (z : Bool) (r : BitVec 2)
  /-- v.not (R212). -/
  | vNot (d : BitVec 5) (a : BitVec 5) (k : BitVec 3) (z : Bool)
  /-- v.sll (R212). -/
  | vSll (d : BitVec 5) (a : BitVec 5) (b : BitVec 5) (k : BitVec 3) (z : Bool) (r : BitVec 2)
  /-- v.srl (R212). -/
  | vSrl (d : BitVec 5) (a : BitVec 5) (b : BitVec 5) (k : BitVec 3) (z : Bool) (r : BitVec 2)
  /-- v.sra (R212). -/
  | vSra (d : BitVec 5) (a : BitVec 5) (b : BitVec 5) (k : BitVec 3) (z : Bool) (r : BitVec 2)
  /-- v.ceq (R213). -/
  | vCeq (d : BitVec 3) (a : BitVec 5) (b : BitVec 5) (k : BitVec 3) (z : Bool) (r : BitVec 2)
  /-- v.cne (R213). -/
  | vCne (d : BitVec 3) (a : BitVec 5) (b : BitVec 5) (k : BitVec 3) (z : Bool) (r : BitVec 2)
  /-- v.clt (R213). -/
  | vClt (d : BitVec 3) (a : BitVec 5) (b : BitVec 5) (k : BitVec 3) (z : Bool) (r : BitVec 2)
  /-- v.cle (R213). -/
  | vCle (d : BitVec 3) (a : BitVec 5) (b : BitVec 5) (k : BitVec 3) (z : Bool) (r : BitVec 2)
  /-- v.cun (R213). -/
  | vCun (d : BitVec 3) (a : BitVec 5) (b : BitVec 5) (k : BitVec 3) (z : Bool) (r : BitVec 2)
  /-- v.cvt (R214). -/
  | vCvt (d : BitVec 5) (a : BitVec 5) (sat : Bool) (k : BitVec 3) (z : Bool)
  /-- v.cvtz (R214). -/
  | vCvtz (d : BitVec 5) (a : BitVec 5) (sat : Bool) (k : BitVec 3) (z : Bool)
  /-- v.cvtp (R214). -/
  | vCvtp (d : BitVec 5) (a : BitVec 5) (sat : Bool) (k : BitVec 3) (z : Bool)
  /-- v.cvtm (R214). -/
  | vCvtm (d : BitVec 5) (a : BitVec 5) (sat : Bool) (k : BitVec 3) (z : Bool)
  /-- v.cvts (R214). -/
  | vCvts (d : BitVec 5) (a : BitVec 5) (b : BitVec 5) (k : BitVec 3) (z : Bool) (r : BitVec 2)
  /-- v.wacc (R215). -/
  | vWacc (d : BitVec 5) (a : BitVec 5) (b : BitVec 5) (k : BitVec 3) (z : Bool) (r : BitVec 2)
  /-- v.perm (R216). -/
  | vPerm (d : BitVec 5) (a : BitVec 5) (b : BitVec 5) (k : BitVec 3) (z : Bool) (r : BitVec 2)
  /-- v.slup (R216). -/
  | vSlup (d : BitVec 5) (a : BitVec 5) (b : BitVec 5) (k : BitVec 3) (z : Bool)
  /-- v.sldn (R216). -/
  | vSldn (d : BitVec 5) (a : BitVec 5) (b : BitVec 5) (k : BitVec 3) (z : Bool)
  /-- v.comp (R217). -/
  | vComp (d : BitVec 5) (a : BitVec 5) (k : BitVec 3) (z : Bool)
  /-- v.expd (R216). -/
  | vExpd (d : BitVec 5) (a : BitVec 5) (k : BitVec 3) (z : Bool)
  /-- v.mrg (R216). -/
  | vMrg (d : BitVec 5) (a : BitVec 5) (b : BitVec 5) (k : BitVec 3) (r : BitVec 2)
  /-- v.cdet (R218). -/
  | vCdet (d : BitVec 5) (a : BitVec 5) (k : BitVec 3) (z : Bool)
  /-- v.iota (R218). -/
  | vIota (d : BitVec 5) (a : BitVec 5) (k : BitVec 3) (z : Bool)
  /-- v.splat (R218). -/
  | vSplat (d : BitVec 5) (a : BitVec 5) (k : BitVec 3) (z : Bool)
  /-- v.extr (R218). -/
  | vExtr (d : BitVec 5) (a : BitVec 5) (b : BitVec 5)
  /-- v.kand (R219). -/
  | vKand (d : BitVec 3) (a : BitVec 3) (b : BitVec 3)
  /-- v.kor (R219). -/
  | vKor (d : BitVec 3) (a : BitVec 3) (b : BitVec 3)
  /-- v.kxor (R219). -/
  | vKxor (d : BitVec 3) (a : BitVec 3) (b : BitVec 3)
  /-- v.kandn (R219). -/
  | vKandn (d : BitVec 3) (a : BitVec 3) (b : BitVec 3)
  /-- v.kpop (R219). -/
  | vKpop (d : BitVec 5) (a : BitVec 3)
  /-- v.kfirst (R219). -/
  | vKfirst (d : BitVec 5) (a : BitVec 3)
  /-- v.rsum (R220). -/
  | vRsum (d : BitVec 5) (a : BitVec 5) (k : BitVec 3)
  /-- v.rmax (R220). -/
  | vRmax (d : BitVec 5) (a : BitVec 5) (k : BitVec 3)
  /-- v.rmin (R220). -/
  | vRmin (d : BitVec 5) (a : BitVec 5) (k : BitVec 3)
  /-- v.rall (R220). -/
  | vRall (d : BitVec 5) (a : BitVec 5) (k : BitVec 3)
  /-- v.rany (R220). -/
  | vRany (d : BitVec 5) (a : BitVec 5) (k : BitVec 3)
  /-- v.rxor (R220). -/
  | vRxor (d : BitVec 5) (a : BitVec 5) (k : BitVec 3)
  /-- v.psum (R220). -/
  | vPsum (d : BitVec 5) (a : BitVec 5) (k : BitVec 3) (z : Bool)
  /-- v.pmax (R220). -/
  | vPmax (d : BitVec 5) (a : BitVec 5) (k : BitVec 3) (z : Bool)
  /-- v.pmin (R220). -/
  | vPmin (d : BitVec 5) (a : BitVec 5) (k : BitVec 3) (z : Bool)
  /-- v.rng (R222). -/
  | vRng (d : BitVec 5) (a : BitVec 5) (b : BitVec 5) (k : BitVec 3) (z : Bool)
  /-- v.rngf (R222). -/
  | vRngf (d : BitVec 5) (a : BitVec 5) (b : BitVec 5) (k : BitVec 3) (z : Bool)
  /-- rot.c (R229). -/
  | rotC (d : BitVec 5) (a : BitVec 5) (b : BitVec 5) (k : BitVec 3) (z : Bool)
  /-- rot.cg (R229). -/
  | rotCg (d : BitVec 5) (a : BitVec 5) (b : BitVec 5) (k : BitVec 3) (z : Bool)
  /-- axis.c (R229). -/
  | axisC (d : BitVec 5) (a : BitVec 5) (b : BitVec 5) (k : BitVec 3) (z : Bool)
  /-- axis.cg (R229). -/
  | axisCg (d : BitVec 5) (a : BitVec 5) (b : BitVec 5) (k : BitVec 3) (z : Bool)
  /-- gain.c (R231). -/
  | gainC (d : BitVec 5) (b : BitVec 5) (k : BitVec 3) (z : Bool)
  /-- rot.h (R229). -/
  | rotH (d : BitVec 5) (a : BitVec 5) (b : BitVec 5) (k : BitVec 3) (z : Bool)
  /-- rot.hg (R229). -/
  | rotHg (d : BitVec 5) (a : BitVec 5) (b : BitVec 5) (k : BitVec 3) (z : Bool)
  /-- axis.h (R229). -/
  | axisH (d : BitVec 5) (a : BitVec 5) (b : BitVec 5) (k : BitVec 3) (z : Bool)
  /-- axis.hg (R229). -/
  | axisHg (d : BitVec 5) (a : BitVec 5) (b : BitVec 5) (k : BitVec 3) (z : Bool)
  /-- gain.h (R231). -/
  | gainH (d : BitVec 5) (b : BitVec 5) (k : BitVec 3) (z : Bool)
  /-- rot.l (R229). -/
  | rotL (d : BitVec 5) (a : BitVec 5) (b : BitVec 5) (k : BitVec 3) (z : Bool)
  /-- axis.l (R229). -/
  | axisL (d : BitVec 5) (a : BitVec 5) (b : BitVec 5) (k : BitVec 3) (z : Bool)
  /-- rot.fold (R232). -/
  | rotFold (d : BitVec 5) (a : BitVec 5) (k : BitVec 3) (z : Bool)
  /-- rot.unfold (R232). -/
  | rotUnfold (d : BitVec 5) (a : BitVec 5) (k : BitVec 3) (z : Bool)
  /-- mm.shape (R251). -/
  | mmShape (d : BitVec 3) (a : BitVec 3) (b : BitVec 3)
  /-- mm.mov (R251). -/
  | mmMov (d : BitVec 3) (a : BitVec 3) (k : BitVec 3)
  /-- mm.ext (R251). -/
  | mmExt (d : BitVec 5) (a : BitVec 3) (b : BitVec 5) (k : BitVec 3)
  /-- mm.ins (R251). -/
  | mmIns (d : BitVec 3) (a : BitVec 5) (b : BitVec 5) (k : BitVec 3)
  /-- mm.ld (R252). -/
  | mmLd (d : BitVec 3) (a : BitVec 5) (b : BitVec 5) (k : BitVec 3)
  /-- mm.st (R252). -/
  | mmSt (d : BitVec 3) (a : BitVec 5) (b : BitVec 5) (k : BitVec 3)
  /-- mm.mul (R254). -/
  | mmMul (d : BitVec 3) (a : BitVec 3) (b : BitVec 3) (k : BitVec 3)
  /-- mm.madd (R254). -/
  | mmMadd (d : BitVec 3) (a : BitVec 3) (b : BitVec 3) (k : BitVec 3)
  /-- mm.msub (R254). -/
  | mmMsub (d : BitVec 3) (a : BitVec 3) (b : BitVec 3) (k : BitVec 3)
  /-- mm.trn (R254). -/
  | mmTrn (d : BitVec 3) (a : BitVec 3) (k : BitVec 3)
  /-- mm.chol (R256). -/
  | mmChol (d : BitVec 3) (a : BitVec 3) (k : BitVec 3)
  /-- mm.lu (R257). -/
  | mmLu (d : BitVec 3) (a : BitVec 3) (k : BitVec 3)
  /-- mm.trsl (R258). -/
  | mmTrsl (d : BitVec 3) (a : BitVec 3) (b : BitVec 3) (k : BitVec 3)
  /-- mm.trsu (R258). -/
  | mmTrsu (d : BitVec 3) (a : BitVec 3) (b : BitVec 3) (k : BitVec 3)
  /-- mm.solve (R259). -/
  | mmSolve (d : BitVec 3) (a : BitVec 3) (b : BitVec 3) (k : BitVec 3)
  /-- mm.det (R260). -/
  | mmDet (d : BitVec 5) (a : BitVec 3) (k : BitVec 3)
  /-- tl.shape (R264). -/
  | tlShape (d : BitVec 5) (a : BitVec 5)
  /-- tl.desc (R268). -/
  | tlDesc (d : BitVec 4) (a : BitVec 5) (b : BitVec 5)
  /-- tl.prec (R269). -/
  | tlPrec (a : BitVec 5) (b : BitVec 5)
  /-- tl.zero (R269). -/
  | tlZero (d : BitVec 1)
  /-- tl.acc (R269). -/
  | tlAcc (d : BitVec 5) (a : BitVec 1) (b : BitVec 5)
  /-- tl.ldp (R271). -/
  | tlLdp (d : BitVec 4) (a : BitVec 5) (b : BitVec 5) (op : BitVec 4)
  /-- tl.stp (R271). -/
  | tlStp (d : BitVec 4) (a : BitVec 5) (b : BitVec 5)
  /-- tl.bcast (R273). -/
  | tlBcast (d : BitVec 4) (a : BitVec 5) (p : BitVec 4)
  /-- tl.ldsc (R272). -/
  | tlLdsc (d : BitVec 4) (a : BitVec 5) (b : BitVec 5) (op : BitVec 4) (p : BitVec 4)
  /-- tl.mma (R274). -/
  | tlMma (d : BitVec 1) (a : BitVec 4) (b : BitVec 4)
  /-- tl.mmz (R274). -/
  | tlMmz (d : BitVec 1) (a : BitVec 4) (b : BitVec 4)
  /-- tl.mms (R274). -/
  | tlMms (d : BitVec 1) (a : BitVec 4) (b : BitVec 4)
  /-- tl.ext (R276). -/
  | tlExt (d : BitVec 5) (a : BitVec 1) (b : BitVec 5) (k : BitVec 3) (z : Bool)
  /-- tl.extr (R276). -/
  | tlExtr (d : BitVec 5) (a : BitVec 1) (b : BitVec 5) (k : BitVec 3) (z : Bool)
  /-- xs.ld (R143). -/
  | xsLd (d : BitVec 5) (a : BitVec 5) (b : BitVec 5) (op : BitVec 4) (p : BitVec 4)
  /-- xs.st (R143). -/
  | xsSt (d : BitVec 5) (a : BitVec 5) (b : BitVec 5) (op : BitVec 4) (p : BitVec 4)
  /-- xs.gth (R147). -/
  | xsGth (d : BitVec 5) (a : BitVec 5) (b : BitVec 5) (op : BitVec 4) (p : BitVec 4)
  /-- xs.sct (R147). -/
  | xsSct (d : BitVec 5) (a : BitVec 5) (b : BitVec 5) (op : BitVec 4) (p : BitVec 4)
  /-- xs.cp (R143). -/
  | xsCp (d : BitVec 5) (a : BitVec 3) (b : BitVec 5) (op : BitVec 4) (p : BitVec 4)
  /-- xs.wait (R157). -/
  | xsWait (a : BitVec 4) (b : BitVec 5)
  /-- xs.cnt (R157). -/
  | xsCnt (d : BitVec 5) (a : BitVec 4)
  /-- xs.wm (R157). -/
  | xsWm (d : BitVec 5) (a : BitVec 3)
  /-- xs.rst (R157). -/
  | xsRst (a : BitVec 4) (b : BitVec 5)
  /-- xs.csum (R157). -/
  | xsCsum (d : BitVec 5) (a : BitVec 4)
  /-- cb.cfg (R165). -/
  | cbCfg (d : BitVec 3) (a : BitVec 5) (b : BitVec 5)
  /-- cb.acq (R165). -/
  | cbAcq (d : BitVec 5) (a : BitVec 3) (b : BitVec 5)
  /-- cb.rel (R165). -/
  | cbRel (a : BitVec 3) (b : BitVec 5)
  /-- cb.stat (R165). -/
  | cbStat (d : BitVec 5) (a : BitVec 3)
  /-- pl.dec (R291). -/
  | plDec (d : BitVec 5) (a : BitVec 5) (b : BitVec 5) (op : BitVec 4) (p : BitVec 4)
  /-- pl.isect (R292). -/
  | plIsect (d : BitVec 5) (a : BitVec 5) (b : BitVec 5) (op : BitVec 4) (p : BitVec 4)
  /-- pl.unite (R292). -/
  | plUnite (d : BitVec 5) (a : BitVec 5) (b : BitVec 5) (op : BitVec 4) (p : BitVec 4)
  /-- pl.bm25 (R293). -/
  | plBm25 (d : BitVec 5) (a : BitVec 5) (b : BitVec 5) (p : BitVec 4)
  /-- pl.fuse (R294). -/
  | plFuse (d : BitVec 5) (a : BitVec 5) (b : BitVec 5) (p : BitVec 4)
  /-- pl.topk (R295). -/
  | plTopk (d : BitVec 5) (a : BitVec 5) (b : BitVec 5) (p : BitVec 4)
  /-- pl.prm (R296). -/
  | plPrm (a : BitVec 5) (b : BitVec 2)
  /-- pl.qry (R296). -/
  | plQry (a : BitVec 5) (b : BitVec 5)
  /-- pl.stat (R296). -/
  | plStat (d : BitVec 5)
  /-- pl.clr (R296). -/
  | plClr (a : BitVec 5)
  /-- rsv.open (R313). -/
  | rsvOpen (a : BitVec 5) (b : BitVec 5) (k : BitVec 3)
  /-- rsv.claim (R314). -/
  | rsvClaim (d : BitVec 3) (a : BitVec 5) (b : BitVec 5) (k : BitVec 3)
  /-- rsv.wave (R315). -/
  | rsvWave (d : BitVec 3)
  /-- rsv.retire (R315). -/
  | rsvRetire (k : BitVec 3)
  /-- rsv.stat (R316). -/
  | rsvStat (d : BitVec 5)
  /-- amo.add (R329). -/
  | amoAdd (d : BitVec 5) (a : BitVec 5) (b : BitVec 5)
  /-- amo.min (R329). -/
  | amoMin (d : BitVec 5) (a : BitVec 5) (b : BitVec 5)
  /-- amo.max (R329). -/
  | amoMax (d : BitVec 5) (a : BitVec 5) (b : BitVec 5)
  /-- amo.and (R329). -/
  | amoAnd (d : BitVec 5) (a : BitVec 5) (b : BitVec 5)
  /-- amo.or (R329). -/
  | amoOr (d : BitVec 5) (a : BitVec 5) (b : BitVec 5)
  /-- amo.xor (R329). -/
  | amoXor (d : BitVec 5) (a : BitVec 5) (b : BitVec 5)
  /-- amo.swap (R329). -/
  | amoSwap (d : BitVec 5) (a : BitVec 5) (b : BitVec 5)
  /-- amo.cas (R329). -/
  | amoCas (d : BitVec 5) (a : BitVec 5) (b : BitVec 5)
  /-- amo.fadd (R329). -/
  | amoFadd (d : BitVec 5) (a : BitVec 5) (b : BitVec 5)
  /-- gb.init (R335). -/
  | gbInit (d : BitVec 4) (a : BitVec 5)
  /-- gb.arr (R335). -/
  | gbArr (d : BitVec 5) (a : BitVec 4)
  /-- gb.wait (R335). -/
  | gbWait (a : BitVec 4) (b : BitVec 5)
  /-- fence.rel (R327). -/
  | fenceRel (b : BitVec 3)
  /-- fence.acq (R327). -/
  | fenceAcq (b : BitVec 3)
  /-- fence.ar (R327). -/
  | fenceAr (b : BitVec 3)
  /-- det.step (R342). -/
  | detStep (d : BitVec 5)
  /-- det.log (R344). -/
  | detLog (d : BitVec 5)
  /-- claim.el (R336). -/
  | claimEl (d : BitVec 5) (a : BitVec 5) (b : BitVec 5)
  /-- task.spawn (R375). -/
  | taskSpawn (a : BitVec 5) (b : BitVec 5)
  /-- task.join (R378). -/
  | taskJoin (d : BitVec 5) (a : BitVec 5)
  /-- task.notify (R379). -/
  | taskNotify (a : BitVec 5) (b : BitVec 5)
  /-- vp.run (R388). -/
  | vpRun (a : BitVec 5) (k : BitVec 3)
  /-- vp.br (R388). -/
  | vpBr (a : BitVec 5) (k : BitVec 3)
  /-- vp.stop (R388). -/
  | vpStop (k : BitVec 3)
  /-- vp.id (R390). -/
  | vpId (d : BitVec 5) (k : BitVec 3)
  /-- vp.any (R390). -/
  | vpAny (d : BitVec 5) (k : BitVec 3)
  /-- sys.rd (R413). -/
  | sysRd (d : BitVec 5) (a : BitVec 5) (n : BitVec 7)
  /-- sys.wr (R413). -/
  | sysWr (d : BitVec 5) (a : BitVec 5) (n : BitVec 7)
  /-- sys.set (R413). -/
  | sysSet (d : BitVec 5) (a : BitVec 5) (n : BitVec 7)
  /-- sys.clr (R413). -/
  | sysClr (d : BitVec 5) (a : BitVec 5) (n : BitVec 7)
  /-- sys.call (R414). -/
  | sysCall (a : BitVec 5) (b : BitVec 4)
  /-- sys.brk (R414). -/
  | sysBrk (a : BitVec 5) (b : BitVec 4)
  /-- sys.tinval (R417). -/
  | sysTinval (a : BitVec 5) (b : BitVec 5)
  /-- sys.id (R417). -/
  | sysId (d : BitVec 5)
  /-- event ILLEGAL_INSTRUCTION (R62). -/
  | illegalInstruction (w : BitVec 32)
  /-- pl.wait (R297). -/
  | plWait
  /-- pl.abort (R298). -/
  | plAbort
  /-- rsv.close (R315). -/
  | rsvClose
  /-- task.exit (R376). -/
  | taskExit
  /-- vp.join (R388). -/
  | vpJoin
  /-- sys.ret (R415). -/
  | sysRet
  /-- sys.wfi (R416). -/
  | sysWfi
  /-- sys.ifence (R417). -/
  | sysIfence
  /-- sys.halt (R417). -/
  | sysHalt
  /-- event XU_GROUP_COMPLETE (R184): ev c. -/
  | xuGroupComplete
  /-- event WATERMARK_RELEASE (R153): ev c. -/
  | watermarkRelease
  /-- event DAU_STALL_RELEASE (R137): ev c. -/
  | dauStallRelease
  /-- event XS_WAIT_COMPLETE (R157): ev c. -/
  | xsWaitComplete
  /-- event STREAM_START (R141): ev c, p. -/
  | streamStart
  /-- event STREAM_ELEMENT_COMPLETE (R152): ev c, p; chunk: which of the elements of the group of 16 still to be performed. -/
  | streamElementComplete
  /-- event REMOTE_ARRIVAL (R155): ev c, p. -/
  | remoteArrival
  /-- event CB_ACQ_GRANT (R165): ev c. -/
  | cbAcqGrant
  /-- event SLOE_COMMAND_START (R288): ev c, p. -/
  | sloeCommandStart
  /-- event SLOE_CHUNK_COMPLETE (R291): ev c, p, chunk. -/
  | sloeChunkComplete
  /-- event SLOE_BATCH_COMPLETE (R290): ev c, p. -/
  | sloeBatchComplete
  /-- event PL_WAIT_COMPLETE (R297): ev c. -/
  | plWaitComplete
  /-- event TILE_FORM_EXECUTE (R277): ev c. -/
  | tileFormExecute
  /-- event TILE_K_STEP_COMPLETE (R274): ev c. -/
  | tileKStepComplete
  /-- event TILE_LINE_COMPLETE (R275): ev c. -/
  | tileLineComplete
  /-- event TL_BCAST_MEET (R273): ev c. -/
  | tlBcastMeet
  /-- event RSV_RENDEZVOUS (R312): ev c. -/
  | rsvRendezvous
  /-- event GB_WAIT_RELEASE (R335): ev c. -/
  | gbWaitRelease
  /-- event FENCE_COMPLETE (R327): ev c. -/
  | fenceComplete
  /-- event DET_STEP_RESOLVE (R342): ev ctx. -/
  | detStepResolve
  /-- event TASK_SPAWN_PUSH (R375): ev c. -/
  | taskSpawnPush
  /-- event WFI_WAKE (R416): ev c. -/
  | wfiWake
  /-- event DISPATCH (R371): ev ctx. -/
  | dispatch
  /-- event GANG_PREEMPT (R405): ev c. -/
  | gangPreempt
  /-- event EVENT_TAKE (R404): ev c. -/
  | eventTake
  /-- event QCTL_MAP (R370): ev ctx, q, desc. -/
  | qctlMap
  /-- event QCTL_DRAIN (R381): ev ctx, q. -/
  | qctlDrain
  /-- event QCTL_ABORT (R382): ev ctx, q. -/
  | qctlAbort
  /-- event QUEUE_DRAIN_COMPLETE (R381): ev ctx, q. -/
  | queueDrainComplete
  /-- event QUEUE_ABORT_COMPLETE (R382): ev ctx, q. -/
  | queueAbortComplete
  /-- event HOST_DOORBELL (R438): ev ctx, val. -/
  | hostDoorbell
  /-- event HOST_EVTPOST (R438): ev ctx, val. -/
  | hostEvtpost
  /-- event HOST_MEM_READ (R437): ev pa, len. -/
  | hostMemRead
  /-- event HOST_MEM_WRITE (R333): ev pa, bytes. -/
  | hostMemWrite
  /-- event PEER_WRITE_IN (R440): ev p, off, bytes. -/
  | peerWriteIn
  /-- event SPAES_SEND_ENTRY (R442): ev p. -/
  | spaesSendEntry
  /-- event SPAES_ENTRY_COMPLETE (R442): ev p, ok. -/
  | spaesEntryComplete
  /-- event SPOWN_WRITE (R441): ev p, val. -/
  | spownWrite
  /-- event CONTROL_INTERVAL (R425): ev smp. -/
  | controlInterval
  /-- event CURRENT_LIMIT_TRIP (R426): ev cl, val (the current in units of 0.25 A). -/
  | currentLimitTrip
  /-- event CURRENT_LIMIT_REPEAT (R426): ev cl, val. -/
  | currentLimitRepeat
  /-- event CURRANT_TOKEN_VISIT (R427): ev die. -/
  | currantTokenVisit
  /-- event EQUOTA_EXHAUST (R385): ev ctx. -/
  | equotaExhaust
  /-- event QUOTA_REFILL (R384): ev ctx. -/
  | quotaRefill
  /-- event TYGEN_CAP_SET (R430, R445): ev bytes, the datagram; where it is empty, ev msg, what a datagram says. -/
  | tygenCapSet
  /-- event TYGEN_READBACK (R445): ev bytes, the datagram; where it is empty, ev val (its SEQ) and reqs. -/
  | tygenReadback
  /-- event CLP_QUIESCE (R434): ev cl. -/
  | clpQuiesce
  /-- event CLP_GATE (R434): ev cl. -/
  | clpGate
  /-- event CLP_WAKE (R434): ev cl. -/
  | clpWake
  /-- event CLP_OPEN (R434): ev cl. -/
  | clpOpen
  /-- event CLP_QUIESCED (R434): ev cl. -/
  | clpQuiesced
  /-- event CLP_GATED (R434): ev cl. -/
  | clpGated
  /-- event CLP_AWAKE (R434): ev cl. -/
  | clpAwake
  /-- event SVC_ISOLATE (R446): ev cl. -/
  | svcIsolate
  /-- event SVC_RECALIBRATE (R446): ev cl. -/
  | svcRecalibrate
  /-- event SVC_LOAD_MICROCODE (R446): ev cl. -/
  | svcLoadMicrocode
  /-- event SVC_RETURN (R446): ev cl. -/
  | svcReturn
  /-- event SVC_DONE (R446): ev cl. -/
  | svcDone
  /-- event QREL_RELEASE (R446): ev val. -/
  | qrelRelease
  /-- event QREL_COMPLETE (R446): ev ok. -/
  | qrelComplete
  /-- event CKPT_TAKE (R444): ev slot. -/
  | ckptTake
  /-- event CKPT_TAKE_COMPLETE (R444): ev ok, time. -/
  | ckptTakeComplete
  /-- event CKPT_RESTORE (R444): ev slot. -/
  | ckptRestore
  /-- event CKPT_RESTORE_COMPLETE (R444). -/
  | ckptRestoreComplete
  /-- event CKPT_INVALIDATE (R444): ev slot. -/
  | ckptInvalidate
  /-- event DIE_RESET (R450). -/
  | dieReset
  /-- event DIE_RELEASE (R450). -/
  | dieRelease
  /-- event FIRMWARE_INIT_COMPLETE (R450). -/
  | firmwareInitComplete
  /-- event MAIN_POWER_LOSS (R98). -/
  | mainPowerLoss
  /-- event AUX_POWER_LOSS (R98). -/
  | auxPowerLoss
  /-- event COLD_START (R98). -/
  | coldStart
  /-- event PATROL_SCRUB (R116): ev pa. -/
  | patrolScrub
  /-- event CONTROL_REGISTER_WRITE (R6): ev pa, val. -/
  | controlRegisterWrite
  /-- event MAIN_POWER_RETURN (R98). -/
  | mainPowerReturn
  /-- event FIRMWARE_CORE_RESTART (R417): ev die. -/
  | firmwareCoreRestart
  /-- event SOFT_ERROR (R116): ev site. -/
  | softError
  deriving DecidableEq, Repr

end Sys2Proof
end

