-- ==== Sys2Proof/Machine/State.lean ====
section
/-! DEFINITION. The state of the module as plain data: 256 numbered cores and four firmware cores, memory, clusters,
contexts, gangs and the units of the I/O die, as the register maps of the spec give them; and the state after reset. -/

namespace Sys2Proof.Machine

/-! ## Registers of a core -/

/-- The type tags of vector registers (R57, R173). bfp is a matrix operand only and never stands in a register. -/
inductive Tag where
  | i8 | i16 | i32 | i64 | n8 | n16 | n32 | n64 | fx16 | fx32 | ang16 | ang32 | f32 | f16 | bf16 | e4m3 | e5m2 | e2m1x
  deriving DecidableEq, Repr

/-- A vector register (R172, R173): up to 4 KiB of elements, the scale and extra bytes of e2m1x blocks of 64 elements,
and the tag, F and group code of R57. Element e of width w stands at bits [w·e+w−1 : w·e]. -/
structure VReg where
  data : BitVec 32768
  scales : BitVec 1024
  extras : BitVec 1024
  tag : Tag
  frac : BitVec 5
  grp : BitVec 2
  deriving DecidableEq, Repr

/-- A small-matrix register (R244): slot e holds grid position p at word 36·e + p of grid, and perm[i] at byte 6·e + i. -/
structure MReg where
  grid : BitVec 73728
  perm : BitVec 3072
  deriving DecidableEq, Repr

/-- An entry of the XU queue (R137, R187): a form that the control thread has passed on, with the VL, MFC, VPROF and
MSHAPE and the scalar operands captured at its issue, and the address of its word. The g registers as they stood at its
issue hold the operands; a trap of the form is precise, and puts them back (R63). -/
structure XuEntry where
  word : BitVec 32
  pc : Word
  vl : Word
  mfc : Word
  vprof : Word
  mshape : Word
  g : Vector Word 32
  deriving DecidableEq, Repr

/-- The vector registers and their control (R172, R178–R181, R188–R193, R209). -/
structure VecState where
  v : Vector VReg 32
  k : Vector (BitVec 8192) 8
  vl : Word
  vprof : Word
  alc : Word
  mfc : Word
  vstat : Word
  pix : Word
  lrot : Word
  vqrd : Word
  /-- MSHAPE as the small-matrix form at which PIX stands captured it (R246, R262) -/
  mcap : Option Word
  /-- the replicated index elements that the load at which PIX stands read at its issue, where it overwrites them (R50, R185) -/
  rep : List Nat
  /-- the elements, with their bits in memory, that a load into an e2m1x register has read of the block at which it stands
  (R86, R112; log 96) -/
  part : List (Nat × Nat)
  /-- the XU queue, oldest first (R137, R187); PIX carries the progress of its head -/
  xuq : List XuEntry
  /-- deterministic mode is in effect (R178, R337) -/
  det : Bool
  deriving DecidableEq, Repr

/-- The block buffer (R133, R134). -/
structure BlkState where
  words : Vector (BitVec 32) 32
  blk : Word
  blkcnt : Word
  /-- the run in progress is being issued (the model's own: cleared by a trap or a pre-emption, R136) -/
  live : Bool
  /-- the exit register of the iteration just ended holds an error that is still to be met, once a multiply form before it
  has completed (the model's own; R119, R135, R138; log 84) -/
  unread : Bool
  deriving DecidableEq, Repr

/-- Small-matrix registers and their control (R244, R247, R248). -/
structure MatState where
  m : Vector MReg 8
  mshape : Word
  mmctl : Word
  mmflg : Word
  deriving DecidableEq, Repr

/-- What undoes the scalar effects of the words issued behind a form that may still trap (R398; log 8): the registers of
the control thread as they stood at its issue. -/
structure Journal where
  pc : Word
  g : Vector Word 32
  blk : BlkState
  lrot : Word
  k : Vector (BitVec 8192) 8
  deriving DecidableEq, Repr

/-- A tile form in the matrix engine's queue (R277): its word and captured g operands. -/
structure TileCmd where
  word : BitVec 32
  ga : Word
  gb : Vector Word 4
  /-- its place among the DT-writing instructions of the step (R339) -/
  seq : Nat
  journal : Journal
  deriving DecidableEq, Repr

/-- Tile state (R91, R266, R268, R275, R277). Accumulator i of a slice is bits [64·i+63 : 64·i]. -/
structure TileState where
  acc : Vector (BitVec 983040) 2
  tda : Vector Word 16
  tdb : Vector Word 16
  tshape : Word
  tprog : Word
  queue : List TileCmd
  /-- the oldest form of the queue is being executed (the model's own: cleared by a pre-emption, R278) -/
  running : Bool
  deriving DecidableEq, Repr

/-- Ports, channels and rings (R158, R166), and what the port machinery keeps: the elements delivered to the load-data
queues 8 to 11 of the current stream (R159) and the indices arrived at an armed channel (R155). -/
structure PortState where
  xstat : Vector Word 16
  xcsum : Vector Word 16
  xfault : Vector Word 16
  /-- XLINFO of the failure recorded in the port (R114, R157) -/
  xinfo : Vector Word 16
  chwin : Vector Word 8
  cbcfg : Vector Word 8
  cbstat : Vector Word 8
  ldq : Vector (List Word) 4
  arrived : Vector (List Nat) 8
  deriving DecidableEq, Repr

/-- Sloe registers of a core (R299). -/
structure SloeRegs where
  plprm : Vector Word 3
  pldoc : Vector Word 2
  plstat : Word
  /-- issue number of the next Sloe command, and that of the failure which PLSTAT records (R299) -/
  seq : Nat
  rseq : Nat
  /-- failed commands whose port still holds the failure: issue number and port (R297) -/
  failed : List (Nat × BitVec 4)
  deriving DecidableEq, Repr

/-- VP blocks (R391): VPSTAT, the PC of each live VP in ascending VP number, and the model's own latches: the block is
being issued, and the group that executes the present word (R388). -/
structure VpState where
  vpstat : Word
  pcs : List (BitVec 13 × Word)
  live : Bool
  grp : BitVec 8192
  deriving DecidableEq, Repr

/-- Trap and system registers of a core (R394, R395, R114, R404, R409). -/
structure SysRegs where
  status : Word
  cause : Word
  epc : Word
  tval : Word
  tvec : Word
  sscr : Word
  mcause : Word
  mepc : Word
  mtval : Word
  mtvec : Word
  mscr : Word
  xlinfo : Word
  evt : Word
  evten : Word
  dsig : Word
  deriving DecidableEq, Repr

/-! ## Engines -/

/-- The five stream forms (R143). -/
inductive StreamKind where
  | ld | st | gth | sct | cp
  deriving DecidableEq, Repr

/-- The near side of a stream (R140, R148, R152). -/
inductive Near where
  /-- a window of the core's scratchpad -/
  | window (base : BitVec 22)
  /-- a circular buffer -/
  | ring (n : BitVec 3)
  /-- a load-data queue -/
  | queue
  /-- MODE 0: a channel of another core, from element index off -/
  | remote (core : BitVec 8) (ch : BitVec 3) (off : BitVec 16)
  /-- MODE 0 to a member of a gang that has been saved: the sender holds it (R148, R409) -/
  | away (gang rank : Nat) (ch : BitVec 3) (off : BitVec 16)
  /-- MODE 1: a contiguous memory region -/
  | region (va : Word)
  deriving DecidableEq, Repr

/-- A stream command in Rowan (R141, R142): its captured parameters, its progress and checksum states (R162). -/
structure StreamCmd where
  kind : StreamKind
  port : BitVec 4
  op : BitVec 4
  base : Word
  /-- the channel whose window xs.cp reads, with its base at issue -/
  src : BitVec 3
  near : Near
  c0 : BitVec 16
  c1 : BitVec 16
  c2 : BitVec 16
  s1 : Word
  s2 : Word
  b0 : BitVec 16
  b1 : BitVec 16
  sc : BitVec 8
  ctl : BitVec 4
  ffmt : BitVec 5
  nfmt : BitVec 5
  exp : BitVec 16
  /-- level of the issuing instruction -/
  pl : BitVec 2
  seq : Nat
  active : Bool
  /-- next pattern element -/
  next : Nat
  srcCrc : BitVec 32
  dstCrc : BitVec 32
  /-- near elements moved, ascending in near index (R151, R152) -/
  moved : List (Nat × Word)
  /-- MODE 0 elements sent and not yet arrived, in sending order (R155); of a transposing stream of a ring, elements read
  that wait for their turn on the other side (R164) -/
  sends : List (Nat × Word)
  /-- decompression: address of the next byte of the row, and mask of the block (R150) -/
  dcAddr : Word
  dcMask : BitVec 64
  /-- places of the ring slots taken by this stream, oldest first, and how many it has passed on (R164) -/
  slots : List Nat
  filled : Nat
  /-- elements of the present group of 16 that have been performed before element next, with the flags and the far bytes
  that the port takes when it comes to them (R149, R151, R162, R171) -/
  ahead : List (Nat × BitVec 5 × List Byte)
  /-- near elements of a transposing stream of a ring whose scratchpad access failed: near index, cause, physical address
  and bad byte (R154, R164) -/
  skip : List (Nat × BitVec 8 × Nat × Option Nat)
  deriving DecidableEq, Repr

/-- The six Sloe forms (R286). -/
inductive SloeKind where
  | dec | isect | unite | bm25 | fuse | topk
  deriving DecidableEq, Repr

/-- What a decoder lane made of a chunk (R291): decoded, or failed with cause, check code and address. -/
structure ChunkDone where
  chunk : Nat
  cause : BitVec 8
  fwhy : BitVec 4
  fva : Word
  level : BitVec 4
  /-- the entries of the slot -/
  words : List Word
  deriving DecidableEq, Repr

/-- A Sloe command (R287, R288, R300): captured operands and progress. -/
structure SloeCmd where
  kind : SloeKind
  port : BitVec 4
  op : BitVec 4
  base : BitVec 22
  ga : Word
  gb : Word
  chA : BitVec 3
  baseA : BitVec 22
  lenA : BitVec 16
  chB : BitVec 3
  baseB : BitVec 22
  lenB : BitVec 16
  prm0 : Word
  prm1 : Word
  prm2 : Word
  doc0 : Word
  doc1 : Word
  /-- the pair of pl.fuse: identifier and value (R287) -/
  pair : List (BitVec 32 × BitVec 32)
  exp : BitVec 16
  pl : BitVec 2
  active : Bool
  /-- its place in the core's order of issue (R297) -/
  seq : Nat
  /-- taken out by pl.abort before it started; it fails in its place (R298) -/
  removed : Bool
  /-- to be stopped at its next boundary (R298) -/
  stop : Bool
  chunks : List ChunkDone
  posA : Nat
  posB : Nat
  lastA : Option (BitVec 32)
  lastB : Option (BitVec 32)
  out : Nat
  /-- inputs are used up: the rest is empty entries (R290) -/
  ended : Bool
  /-- the best k entries read so far, in rank order (R295) -/
  pool : List Word
  /-- entries written, ascending, for the checksum (R290) -/
  entries : List Word
  deriving DecidableEq, Repr

/-- A command of Rowan's order (R141, R288). -/
inductive Cmd where
  | stream (c : StreamCmd)
  | sloe (c : SloeCmd)
  deriving DecidableEq, Repr

/-- A page in a translation cache (R109): virtual base and size, ASID, partition, and the leaf with its level. -/
structure TlbEntry where
  part : BitVec 8
  asid : BitVec 12
  level : Nat
  vbase : Nat
  leaf : Word
  deriving DecidableEq, Repr

/-! ## Gangs and sessions -/

/-- The three rendezvous forms (R312). -/
inductive RsvForm where
  | openS | wave | close
  deriving DecidableEq, Repr

/-- A member's arrival at a rendezvous (R312, R313): rank, form, and rsv.open's operands. -/
structure RsvArrival where
  rank : Nat
  form : RsvForm
  ni : Nat
  first : Nat
  nloc : Nat
  live : BitVec 8192
  deriving DecidableEq, Repr

/-- A member's arrival at a broadcast (R273): its rank, the word and g[a]. -/
structure BcastArrival where
  rank : Nat
  word : BitVec 32
  ga : Word
  deriving DecidableEq, Repr

/-- The broadcasts of a member since its latest tl.shape, or since the latest meeting of all members (log 48): how many
such starts there were, the group selections p, oldest first, one that it stands at included, each with the number of times
that it has taken a cause there, and whether the last of them has and is still to be executed. -/
structure BcastPlace where
  epoch : Nat
  ps : List (BitVec 4 × Nat)
  refused : Bool
  deriving DecidableEq, Repr

/-- The member counts its broadcasts anew. -/
def BcastPlace.anew (x : BcastPlace) : BcastPlace := ⟨x.epoch + 1, [], false⟩

/-- How often the member has taken a cause at the last of them. -/
def BcastPlace.tries (x : BcastPlace) : Nat := (x.ps.getLast?.map (fun y => y.2)).getD 0

/-- The member arrives at its next broadcast, or again at one that took a cause. -/
def BcastPlace.arrive (x : BcastPlace) (p : BitVec 4) : BcastPlace :=
  if x.refused then ⟨x.epoch, x.ps.dropLast ++ [(p, x.tries)], false⟩ else ⟨x.epoch, x.ps ++ [(p, 0)], false⟩

/-- Its broadcast takes a cause. -/
def BcastPlace.refuse (x : BcastPlace) : BcastPlace :=
  { x with ps := x.ps.dropLast ++ x.ps.getLast?.toList.map (fun y => (y.1, y.2 + 1)), refused := true }

/-- The access behind a memory cause that a meeting gives its members: address, KIND and element (R114, R397). -/
structure BadAccess where
  va : Word
  kind : BitVec 4
  elem : Nat
  deriving DecidableEq, Repr

/-- How a rendezvous or a broadcast ended for a member that has not yet resumed: completed, or the cause that it takes. -/
structure Verdict where
  rank : Nat
  cause : Option (BitVec 8)
  /-- of a memory cause -/
  at' : Option BadAccess
  deriving DecidableEq, Repr

/-- What the members of a gang share (R273, R312, R334); a core outside a task is a gang of one. -/
structure GangShare where
  gb : Vector Word 16
  rendez : List RsvArrival
  rdone : List Verdict
  bcast : List BcastArrival
  /-- the broadcasts of the member of each rank (log 48) -/
  bhist : Vector BcastPlace 16
  bdone : List Verdict
  deriving DecidableEq, Repr

/-- Why a gang is to be pre-empted (R403): saved and restored later, discarded by an abort (R382), or double-trapped
with the second cause (R399). -/
inductive PreemptWhy where
  | save
  | discard
  | double (second : BitVec 8)
  deriving DecidableEq, Repr

/-- A resident gang (R22, R373): its context, cluster, cores by rank, the record it runs, and the members that have
executed task.exit (R376). -/
structure Gang where
  id : Nat
  ctx : BitVec 8
  cluster : BitVec 4
  cores : List (BitVec 8)
  queue : BitVec 4
  join : Word
  exited : List Nat
  due : Option PreemptWhy
  share : GangShare
  deriving DecidableEq, Repr

/-- Who owns a reserving session: a gang, or a core outside a task. -/
inductive Owner where
  | gang (id : Nat)
  | core (c : BitVec 8)
  deriving DecidableEq, Repr

/-- An item of a session (R306). -/
structure RsvItem where
  idx : Nat
  sig : BitVec 512
  granules : List (BitVec 51)
  count : Nat
  live : Bool
  admitted : Bool
  deriving DecidableEq, Repr

/-- A session of a Quince (R306, R317): items, whether a wave has been formed, the covered bytes of earlier waves and
of the present one (item index, physical byte, value). -/
structure Session where
  owner : Owner
  ni : Nat
  items : List RsvItem
  waved : Bool
  /-- LIVE at the last formation or at rsv.open, and WAVE (R315, R316) -/
  liveAt : Nat
  waves : Nat
  earlier : List Host.Cell
  present : List (Nat × Host.Cell)
  deriving DecidableEq, Repr

/-! ## A core -/

/-- What a core does (R365, R376, R399, R417). -/
inductive RunState where
  | idle | running | exited | halted | stopped
  deriving DecidableEq, Repr

/-- The wait point at which the control thread stands (R137, R401); each has the event that ends it. -/
inductive Wait where
  | xuGroup | watermark | dauStall | xsWait | cbAcq | plWait | bcast | rendezvous | gbWait | fence | detStep | spawn | wfi | tileLine
  deriving DecidableEq, Repr

/-- A core (R14, R15, R172). -/
structure Core where
  id : BitVec 8
  /-- the firmware core of die id -/
  fw : Bool
  run : RunState
  pc : Word
  g : Vector Word 32
  wait : Option Wait
  sys : SysRegs
  vec : VecState
  blk : BlkState
  mat : MatState
  tile : TileState
  port : PortState
  sloe : SloeRegs
  vp : VpState
  rsvstat : Word
  detid : Word
  dstat : Word
  /-- instructions of the step that wrote to DT pages (R339) -/
  seq : Nat
  /-- where that number goes on, while a form is under way that had its own number before a trap (R339; log 105) -/
  seqNext : Option Nat
  /-- the numbers of forms that a trap has stopped after some of their writes, by address and place in a run (log 105) -/
  seqHeld : List ((Word × Nat) × Nat)
  /-- the words of the records that a waiting task.spawn has copied (R375) -/
  spawned : List Word
  /-- a queue that one of them is bound for has left MAPPED in the wait (R375) -/
  spawnLost : Bool
  cmds : List Cmd
  tlb : List TlbEntry
  /-- the translations that the element group under way keeps to: those cached when it began, and those it has made (R111;
  the model's own, empty between steps) -/
  pins : List TlbEntry
  /-- the resident gang and the core's rank in it -/
  gang : Option Nat
  rank : Nat
  /-- context and queue that dispatched the core's last task (R409) -/
  lastTask : Option (BitVec 8 × BitVec 4)
  /-- barriers and meetings of a core outside a task -/
  solo : GangShare
  /-- how the det.step forms that the core waits in have ended, by their addresses (R342) -/
  detDone : List (Word × Option (BitVec 8) × Option BadAccess)
  /-- a management-controller request waits for the core at machine level (R416) -/
  mgmtReq : Bool
  /-- registers that hold an uncorrectable error (R119) -/
  regErr : List RegName
  /-- bytes of instruction words that the core has fetched ahead and keeps until sys.ifence (R68), by physical address -/
  ibuf : List Host.Cell
  deriving DecidableEq, Repr

/-! ## Clusters, contexts and the module -/

/-- A remote access held at a gated cluster's ingress (R434): the sending core and port. -/
structure HeldAccess where
  core : BitVec 8
  port : BitVec 4
  deriving DecidableEq, Repr

/-- A cluster (R108, R306, R426–R434, R446). -/
structure Cluster where
  tlb : List TlbEntry
  quince : List Session
  clpstat : Word
  svc : Word
  svcAddr : Word
  isolated : Bool
  /-- the command of SVC that runs: 2 recalibrate, 3 load, 0 none -/
  svcBusy : BitVec 3
  held : List HeldAccess
  fth : Nat
  fcur : Nat
  /-- Fcur of the next interval, after a trip in this one (R426) -/
  fcurNext : Option Nat
  target : Nat
  power : Nat
  /-- its power at its target without boost (R427) -/
  need : Nat
  /-- currants held beyond need, and whether a boost grant holds for this interval -/
  currants : Nat
  boost : Bool
  /-- physical address that the sequencer microcode was last loaded from -/
  microcode : Word
  deriving DecidableEq, Repr

/-- States of a task queue (R369). -/
inductive QState where
  | unmapped | mapped | draining | aborting
  deriving DecidableEq, Repr

/-- A task queue as the queue unit holds it (R369, R448): the descriptor while mapped, the address of the last map, what
is held for a queue never mapped, and the age of its head (R371). -/
structure Queue where
  state : QState
  desc : Option Word
  ring : Word
  cap : BitVec 16
  head : BitVec 32
  tail : BitVec 32
  chainH : Word
  chainT : Word
  cpl : Word
  err : Bool
  pnotify : Bool
  heldH : Word
  heldT : Word
  heldCount : Nat
  heldCpl : List Word
  wait : Nat
  deriving DecidableEq, Repr

/-- A plain write to a DT page held in the step image (R338–R340): key, physical byte, virtual byte, value. -/
structure StepByte where
  lcore : BitVec 16
  seq : Nat
  elem : Nat
  pa : Nat
  va : Nat
  val : Byte
  /-- a covered write of a session (R317) -/
  covered : Bool
  /-- KIND of the access (R114) -/
  kind : BitVec 4
  deriving DecidableEq, Repr

/-- The updates of R339. -/
inductive UpdOp where
  | add | min | max | and | or | xor | fadd
  deriving DecidableEq, Repr

/-- An update to a DT page held until the step ends (R339): its operand and what it acts on. -/
structure StepUpd where
  lcore : BitVec 16
  seq : Nat
  elem : Nat
  pa : Nat
  va : Nat
  size : Nat
  /-- the operation, and for a scatter update the tag of its elements -/
  op : UpdOp
  tag : Tag
  frac : BitVec 5
  /-- an atomic of R329, not a scatter update of R210 -/
  atomic : Bool
  /-- the operand: the exact q of an integer, fx or ang sum, else the bits -/
  val : Int
  deriving DecidableEq, Repr

/-- An arrival at det.step (R342): the member that arrived (gang and rank, or a core outside a task), the address of the
form, at which a reissue is no new arrival, and LCORE. -/
structure DetArrival where
  gang : Option Nat
  rank : Nat
  core : BitVec 8
  pc : Word
  lcore : BitVec 16
  deriving DecidableEq, Repr

/-- A gang saved by pre-emption (R405, R406): the number of the save, which its engine records carry in the image, and
what they hold. -/
structure SavedGang where
  id : Nat
  gang : Gang
  cores : List Core
  session : Option Session
  /-- the slot of the save -/
  slot : Nat
  /-- a step of the partition has ended since the save, so that DSTAT of the members is not the image's (R342, R343) -/
  stepped : Bool
  deriving DecidableEq, Repr

/-- A context and its partition, which share a number (R364). -/
structure Context where
  atroot : Word
  savea : Word
  equota : Word
  eqcfg : Word
  detcfg : Word
  dlog : Word
  thcause : Word
  qres : Word
  queues : Vector Queue 16
  rr : Vector (BitVec 2) 4
  /-- RES: the queue of the reserved head, and whether it is a record of the ring, not of the chain (R371) -/
  res : Option (BitVec 4 × Bool)
  saved : List SavedGang
  /-- gangs that have been restored: what a copy of such an image restores from (R407) -/
  copies : List SavedGang
  stepBytes : List StepByte
  stepUpds : List StepUpd
  arrivals : List DetArrival
  /-- limits of R428 and R431, the fraction of a millijoule carried, in units of 0.5 pJ (R432) and the µs of the period gone (R384) -/
  fpc : Nat
  frk : Nat
  fq : Nat
  energy : Nat
  elapsed : Nat
  /-- dispatch held by the division of the allowance (R431) -/
  heldBack : Bool
  deriving DecidableEq, Repr

/-- What a checkpoint image holds beside memory, in the device's own layout (R443): the registers of contexts and their
saved gangs, QUADMAP, the frames quarantined at the take, register storage and the cluster structures (R444; log 28). -/
structure CkRecord where
  slot : BitVec 3
  ctxs : Vector Context 256
  quadmap : Vector Word 64
  quarantine : List Nat
  /-- register storage of the cores, and the cluster structures -/
  cores : List Core
  clusters : Vector Cluster 16
  deriving DecidableEq, Repr

/-- A write from outside that the I/O die holds during a take (R444): of the host, or of the peer at a port. -/
structure HeldWrite where
  peer : Option (BitVec 4)
  pa : Nat
  bytes : List Byte
  deriving DecidableEq, Repr

/-- What the module sends out: MSI-X messages, completions of host reads, Tygen replies, Spaes data. -/
inductive OutMsg where
  | msix (vector : Nat)
  | readData (pa : BitVec 52) (bytes : List Byte)
  | readError (pa : BitVec 52)
  | writeDone (pa : BitVec 52)
  | writeError (pa : BitVec 52)
  | capAck (seq : Word) (result : BitVec 32)
  | readback (seq : Word) (replies : List (Word × Word))
  | peerData (p : BitVec 4) (off : Word) (bytes : List Byte)
  | peerRefused (p : BitVec 4)
  deriving DecidableEq, Repr

/-- A Spaes port (R440–R442): ownership, ring and window registers, the engine's place in the ring, and the entry in
flight (offset at the peer, completion word). -/
structure SpaesPort where
  spown : Word
  spring : Word
  sprx : Word
  head : Word
  busy : Option Word
  /-- the entry in flight belongs to a ring that SPRING names no more (log 19) -/
  past : Bool
  /-- the read or translation of the entry in flight failed -/
  bad : Bool
  deriving DecidableEq, Repr

/-- The I/O die and the management controller (R98, R106, R116–R119, R441–R450). -/
structure Device where
  quadmap : Vector Word 64
  qrelAddr : Word
  qrel : BitVec 2
  ckctl : Word
  /-- the command of CKCTL that runs, and its slot -/
  ckRun : Option (BitVec 3 × BitVec 3)
  ckpts : List CkRecord
  /-- slots whose images hold bytes in the device's own layout, with the number of the first of these free bytes, and the
  bytes there that a store has written since (R443; log 28) -/
  ckOwn : List (BitVec 3 × Nat)
  ckKept : List (Nat × Nat)
  dierst : Word
  spaes : Vector SpaesPort 16
  ecccnt : Word
  /-- quarantined 64 KiB frames (R118) -/
  quarantine : List Nat
  /-- bytes with an uncorrectable error, and with one that ECC corrects (R116) -/
  badBytes : List Nat
  softBytes : List Nat
  hostLinkDown : Bool
  mainPower : Bool
  auxPower : Bool
  /-- auxiliary power was lost since the last cold start (R98) -/
  auxLost : Bool
  /-- host and peer writes held during a take (R444), oldest first -/
  heldWrites : List HeldWrite
  /-- the number of the control interval, and the visits of the currant token in it (R425, R427) -/
  interval : Nat
  visits : Nat
  pool : Nat
  overhead : Nat
  moduleCap : BitVec 32
  capSeq : Word
  pendingCap : Option CapSet
  /-- the cap set in force, of partitions that there were when it was applied (R430) -/
  caps : Option CapSet
  out : List OutMsg
  deriving DecidableEq, Repr

/-- What moves next: a core's control thread, or an event with its data; or what may happen beside the events of the
opcode table: the control thread passes a form to the XU queue and goes on (R137), an instruction byte is fetched ahead
(R68), the host link fails or comes back (R106). -/
inductive Turn where
  | core (c : CoreRef)
  | runAhead (c : CoreRef)
  | prefetch (c : CoreRef) (pa : BitVec 52)
  | hostLink (down : Bool)
  | event (i : Instr) (x : EventArg)
  deriving DecidableEq, Repr

/-- The module. core is the core in focus, on which exec acts; rest holds the others; ev is the data of the event in
hand; sched says what moves next; fresh counts the free values taken. -/
structure State where
  core : Core
  rest : List Core
  mem : List Host.Cell
  gangs : List Gang
  nextGang : Nat
  clusters : Vector Cluster 16
  ctxs : Vector Context 256
  dev : Device
  ev : EventArg
  sched : List Turn
  fresh : Nat
  deriving DecidableEq, Repr

/-- Why the machine stops for good. No meaning and no step raises one: every fault of the spec is a trap that the
machine takes, or a record in a port. The one name stands for a state that no run reaches: a safe stop. -/
inductive Fault where
  /-- raised by no meaning; safe -/
  | unreachable
  deriving DecidableEq, Repr

/-- Why a step is refused. -/
inductive Refusal where
  /-- an instruction that has no meaning yet (raised by Dispatch only); safe: nothing is proved of it -/
  | notModelled (mnemonic : String)
  /-- an event whose condition does not hold in this state (raised by the meanings of the events): the device takes no
  such step there, so refusing it is safe -/
  | notDue (event : String)
  deriving DecidableEq, Repr

/-! ## Reset -/

/-- The width-independent reset content of a vector register (R172): tag f32, single; elements: log 2. -/
def VReg.reset : VReg := ⟨0, 0, 0, .f32, 0, 0⟩

/-- A small-matrix register at reset: log 2. -/
def MReg.reset : MReg := ⟨0, 0⟩

/-- Meetings and barriers at reset: none (R334). -/
def GangShare.reset : GangShare := ⟨Vector.replicate 16 0, [], [], [], Vector.replicate 16 ⟨0, [], false⟩, []⟩

/-- Vector state at reset (R172, R179–R181, R188–R193, R209); k0 all ones, k1 to k7: log 2. -/
def VecState.reset : VecState :=
  { v := Vector.replicate 32 VReg.reset
    k := (Vector.replicate 8 0).set 0 (BitVec.allOnes 8192)
    vl := 0x30000, vprof := 0, alc := 64, mfc := 0, vstat := 0, pix := 0, lrot := 0, vqrd := 0, mcap := none, rep := [], part := [], xuq := [], det := false }

/-- Trap registers at reset (R394, R395): PL as firmware loads it; EPC, TVAL, XLINFO: log 2; TVEC: log 3. -/
def SysRegs.reset (fw : Bool) : SysRegs :=
  { status := if fw then 3 else 1
    cause := 0, epc := 0, tval := 0, tvec := 0, sscr := 0, mcause := 0, mepc := 0, mtval := 0, mtvec := 0, mscr := 0
    xlinfo := 0, evt := 0, evten := 0, dsig := 0 }

/-- A core after reset, at level and pc of logs 3 and 4. -/
def Core.reset (id : BitVec 8) (fw : Bool) (run : RunState) : Core :=
  { id := id, fw := fw, run := run, pc := 0, g := Vector.replicate 32 0, wait := none
    sys := SysRegs.reset fw
    vec := VecState.reset
    blk := ⟨Vector.replicate 32 0, 0, 0, false, false⟩
    mat := ⟨Vector.replicate 8 MReg.reset, 0x0909090909090909, 0, 0⟩
    tile := ⟨Vector.replicate 2 0, Vector.replicate 16 0, Vector.replicate 16 0, 0, 0, [], false⟩
    port := ⟨Vector.replicate 16 0, Vector.replicate 16 0, Vector.replicate 16 0, Vector.replicate 16 0, Vector.replicate 8 0,
      Vector.replicate 8 0, Vector.replicate 8 0, Vector.replicate 4 [], Vector.replicate 8 []⟩
    sloe := ⟨Vector.replicate 3 0, Vector.replicate 2 0, 0, 0, 0, []⟩
    vp := ⟨0, [], false, 0⟩
    rsvstat := 0, detid := 0, dstat := 0, seq := 0, seqNext := none, seqHeld := [], spawned := [], spawnLost := false, cmds := [], tlb := [], pins := [], gang := none, rank := 0, lastTask := none
    solo := GangShare.reset, detDone := [], mgmtReq := false, regErr := [], ibuf := [] }

/-- A cluster after reset: CLPSTAT.FREQ 132 (R433), limits of log 18. -/
def Cluster.reset : Cluster :=
  { tlb := [], quince := [], clpstat := 0x84000000, svc := 0, svcAddr := 0, isolated := false, svcBusy := 0, held := []
    fth := 148, fcur := 148, fcurNext := none, target := 132, power := 0, need := 0, currants := 0, boost := false, microcode := 0 }

/-- A queue that has never been mapped (R448). -/
def Queue.reset : Queue :=
  { state := .unmapped, desc := none, ring := 0, cap := 0, head := 0, tail := 0, chainH := 0, chainT := 0, cpl := 0
    err := false, pnotify := false, heldH := 0, heldT := 0, heldCount := 0, heldCpl := [], wait := 0 }

/-- A context after reset: THCAUSE.FTGT 132 (R429), the rest 0; limits of log 18. -/
def Context.reset : Context :=
  { atroot := 0, savea := 0, equota := 0, eqcfg := 0, detcfg := 0, dlog := 0, thcause := 0x8400000000, qres := 0
    queues := Vector.replicate 16 Queue.reset, rr := Vector.replicate 4 0, res := none, saved := [], copies := []
    stepBytes := [], stepUpds := [], arrivals := []
    fpc := 148, frk := 148, fq := 148, energy := 0, elapsed := 0, heldBack := false }

/-- A Spaes port that serves no context (R440, R441). -/
def SpaesPort.reset : SpaesPort := ⟨0, 0, 0, 0, none, false, false⟩

/-- The I/O die after reset: DIERST holds the dies in reset (R450). -/
def Device.reset : Device :=
  { quadmap := Vector.replicate 64 0, qrelAddr := 0, qrel := 0, ckctl := 0, ckRun := none, ckpts := [], ckOwn := [], ckKept := [], dierst := 3
    spaes := Vector.replicate 16 SpaesPort.reset, ecccnt := 0, quarantine := [], badBytes := [], softBytes := []
    hostLinkDown := false, mainPower := true, auxPower := true, auxLost := false, heldWrites := [], interval := 0, visits := 0
    pool := 0, overhead := 0, moduleCap := 0, capSeq := 0, pendingCap := none, caps := none, out := [] }

/-- An event's data when no event is in hand. -/
def EventArg.none : EventArg :=
  { c := 0, p := 0, chunk := 0, ctx := 0, q := 0, desc := 0, cl := 0, die := 0, slot := 0, val := 0, pa := 0, off := 0
    len := 0, ok := false, time := 0, bytes := [], smp := ⟨[], [], 0⟩, msg := ⟨0, 0, []⟩, reqs := []
    site := .mem 0 true }

/-- The cores that reset does not put in focus: numbered cores 1 to 255, then the firmware cores of dies 0 to 3. -/
def restReset : List Core :=
  (List.range 255).map (fun i => Core.reset (BitVec.ofNat 8 (i + 1)) false .idle) ++
    (List.range 4).map (fun d => Core.reset (BitVec.ofNat 8 d) true .running)

/-- The module right after reset (R9, R450): the dies are held in reset, memory lists nothing (log 1), the focus is
core 0 (log 6). -/
def State.reset : State :=
  { core := Core.reset 0 false .idle
    rest := restReset
    mem := []
    gangs := []
    nextGang := 0
    clusters := Vector.replicate 16 Cluster.reset
    ctxs := Vector.replicate 256 Context.reset
    dev := Device.reset
    ev := EventArg.none
    sched := []
    fresh := 0 }

end Sys2Proof.Machine
end

