-- ==== Sys2Proof/Machine/Regs.lean ====
section
/-! DEFINITION. Access to registers, cores, gangs and contexts: the one home of each, and the fields of the status
words. -/

namespace Sys2Proof.Machine

/-- Entry of a register file named by an exact-width number. -/
def rget {α : Type} {k n : Nat} (v : Vector α n) (i : BitVec k) (h : 2 ^ k ≤ n := by decide) : α :=
  v[i.toNat]'(Nat.lt_of_lt_of_le i.isLt h)

/-- Replaces an entry of a register file. -/
def rset {α : Type} {k n : Nat} (v : Vector α n) (i : BitVec k) (x : α) (h : 2 ^ k ≤ n := by decide) : Vector α n :=
  v.set i.toNat x (Nat.lt_of_lt_of_le i.isLt h)

/-! ## g registers (R122, R172) -/

/-- g[r]; g0 reads 0. -/
def State.g (s : State) (r : BitVec 5) : Word := if r = 0 then 0 else rget s.core.g r

/-- Writes g[r]; g0 discards. -/
def State.setG (s : State) (r : BitVec 5) (v : Word) : State :=
  if r = 0 then s else { s with core := { s.core with g := rset s.core.g r v } }

/-! ## Parts of the core in focus -/

/-- Replaces the core in focus. -/
def State.onCore (s : State) (f : Core → Core) : State := { s with core := f s.core }

/-- Changes the vector state. -/
def State.onVec (s : State) (f : VecState → VecState) : State := { s with core := { s.core with vec := f s.core.vec } }

/-- Changes the system registers. -/
def State.onSys (s : State) (f : SysRegs → SysRegs) : State := { s with core := { s.core with sys := f s.core.sys } }

/-- Changes the port state. -/
def State.onPort (s : State) (f : PortState → PortState) : State := { s with core := { s.core with port := f s.core.port } }

/-- Changes the tile state. -/
def State.onTile (s : State) (f : TileState → TileState) : State := { s with core := { s.core with tile := f s.core.tile } }

/-- Changes the small-matrix state. -/
def State.onMat (s : State) (f : MatState → MatState) : State := { s with core := { s.core with mat := f s.core.mat } }

/-- Changes the block buffer. -/
def State.onBlk (s : State) (f : BlkState → BlkState) : State := { s with core := { s.core with blk := f s.core.blk } }

/-- Changes the VP state. -/
def State.onVp (s : State) (f : VpState → VpState) : State := { s with core := { s.core with vp := f s.core.vp } }

/-- Changes the device. -/
def State.onDev (s : State) (f : Device → Device) : State := { s with dev := f s.dev }

/-! ## Levels and STATUS (R393, R394) -/

/-- STATUS.PL. -/
def SysRegs.pl (r : SysRegs) : BitVec 2 := fld r.status 0 2

/-- The level of the core in focus. -/
def State.pl (s : State) : BitVec 2 := s.core.sys.pl

/-- STATUS.PPL. -/
def SysRegs.ppl (r : SysRegs) : BitVec 2 := fld r.status 2 2

/-- STATUS.AIE. -/
def SysRegs.aie (r : SysRegs) : Bool := r.status.getLsbD 4

/-- STATUS.PAIE. -/
def SysRegs.paie (r : SysRegs) : Bool := r.status.getLsbD 5

/-- STATUS.NEST. -/
def SysRegs.nest (r : SysRegs) : Bool := r.status.getLsbD 6

/-- A STATUS word of its fields. -/
def statusWord (nest paie aie : Bool) (ppl pl : BitVec 2) : Word :=
  (BitVec.ofBool nest ++ BitVec.ofBool paie ++ BitVec.ofBool aie ++ ppl ++ pl).setWidth 64

/-- Level codes (R393). -/
def plUser : BitVec 2 := 0
def plSup : BitVec 2 := 1
def plMach : BitVec 2 := 3

/-! ## Cores, contexts, gangs -/

/-- The reference of a core. -/
def Core.ref (c : Core) : CoreRef := BitVec.ofBool c.fw ++ c.id

/-- The core with a reference. -/
def State.coreAt (s : State) (r : CoreRef) : Option Core :=
  if s.core.ref = r then some s.core else s.rest.find? (fun c => c.ref == r)

/-- Changes the core with a reference. -/
def State.mapCore (s : State) (r : CoreRef) (f : Core → Core) : State :=
  if s.core.ref = r then { s with core := f s.core }
  else { s with rest := s.rest.map (fun c => if c.ref = r then f c else c) }

/-- Changes every core that meets a condition. -/
def State.mapCores (s : State) (p : Core → Bool) (f : Core → Core) : State :=
  { s with core := if p s.core then f s.core else s.core, rest := s.rest.map (fun c => if p c then f c else c) }

/-- All cores, the one in focus first. -/
def State.cores (s : State) : List Core := s.core :: s.rest

/-- Puts the core with a reference into focus. -/
def State.focus (s : State) (r : CoreRef) : State :=
  if s.core.ref = r then s
  else match s.rest.find? (fun c => c.ref == r) with
    | some c => { s with core := c, rest := s.rest.map (fun x => if x.ref = r then s.core else x) }
    | none => s

/-- The reference of a numbered core. -/
def numbered (id : BitVec 8) : CoreRef := 0#1 ++ id

/-- QUADMAP of a numbered core's quad (R14, R446). -/
def State.quadOf (s : State) (id : BitVec 8) : Word := rget s.dev.quadmap (id.extractLsb' 2 6)

/-- The partition, which is the context, of a numbered core (R21, R446; log 11). -/
def State.partOf (s : State) (id : BitVec 8) : BitVec 8 := fld (s.quadOf id) 0 8

/-- The core belongs to a partition: V = 1 and RET = 0 (R446). -/
def State.inPart (s : State) (id ctx : BitVec 8) : Bool :=
  (s.quadOf id).getLsbD 62 && !(s.quadOf id).getLsbD 63 && s.partOf id == ctx

/-- The context of the core in focus. -/
def State.ctxIx (s : State) : BitVec 8 := s.partOf s.core.id

/-- The context record. -/
def State.ctxAt (s : State) (i : BitVec 8) : Context := rget s.ctxs i

/-- Changes a context record. -/
def State.onCtx (s : State) (i : BitVec 8) (f : Context → Context) : State :=
  { s with ctxs := rset s.ctxs i (f (rget s.ctxs i)) }

/-- The cluster of a core (R14). -/
def clusterOf (id : BitVec 8) : BitVec 4 := id.extractLsb' 4 4

/-- A cluster record. -/
def State.clAt (s : State) (i : BitVec 4) : Cluster := rget s.clusters i

/-- Changes a cluster record. -/
def State.onCl (s : State) (i : BitVec 4) (f : Cluster → Cluster) : State :=
  { s with clusters := rset s.clusters i (f (rget s.clusters i)) }

/-- A resident gang. -/
def State.gangAt (s : State) (id : Nat) : Option Gang := s.gangs.find? (fun x => x.id == id)

/-- Changes a resident gang. -/
def State.onGang (s : State) (id : Nat) (f : Gang → Gang) : State :=
  { s with gangs := s.gangs.map (fun x => if x.id = id then f x else x) }

/-- The gang of the core in focus. -/
def State.myGang (s : State) : Option Gang := s.core.gang.bind s.gangAt

/-- The size of the executing gang; a core outside a task is a gang of one. -/
def State.gangSize (s : State) : Nat := match s.myGang with
  | some x => x.cores.length
  | none => 1

/-- What the executing gang shares. -/
def State.share (s : State) : GangShare := match s.myGang with
  | some x => x.share
  | none => s.core.solo

/-- Changes what the executing gang shares. -/
def State.onShare (s : State) (f : GangShare → GangShare) : State :=
  match s.myGang with
  | some x => s.onGang x.id (fun y => { y with share := f y.share })
  | none => s.onCore (fun c => { c with solo := f c.solo })

/-- Who owns a session that the core in focus opens. -/
def State.owner (s : State) : Owner := match s.myGang with
  | some x => .gang x.id
  | none => .core s.core.id

/-- The session of the executing gang, if open (R306). -/
def State.session (s : State) : Option Session :=
  (s.clAt (clusterOf s.core.id)).quince.find? (fun x => x.owner == s.owner)

/-- Changes the session of the executing gang. -/
def State.onSession (s : State) (f : Session → Session) : State :=
  s.onCl (clusterOf s.core.id) (fun cl =>
    { cl with quince := cl.quince.map (fun x => if x.owner = s.owner then f x else x) })

/-- Takes the next free value: its number, and the state that has moved on (log 12). -/
def State.freshen (s : State) : State := { s with fresh := s.fresh + 1 }

/-- Posts bits of EVT to every core of a partition (R404). -/
def State.postEvt (s : State) (ctx : BitVec 8) (bits : Word) : State :=
  s.mapCores (fun c => !c.fw && s.inPart c.id ctx) (fun c => { c with sys := { c.sys with evt := c.sys.evt ||| bits } })

/-- EVT bits (R404). -/
def evtDoor : Word := 1
def evtQuota : Word := 2
def evtThrot : Word := 4
def evtQerr : Word := 8
def evtEcc : Word := 16

/-! ## Vector control (R179, R180, R190) -/

/-- VL.N. -/
def VecState.n (v : VecState) : Nat := (fld v.vl 0 16).toNat

/-- VL.W. -/
def VecState.w (v : VecState) : BitVec 3 := fld v.vl 16 3

/-- A VL word. -/
def vlWord (w : BitVec 3) (n : Nat) : Word := (w ++ BitVec.ofNat 16 n).setWidth 64

/-- MVL32 of a VPROF value (R179). -/
def mvl32Of (vprof : Word) : Nat :=
  match (fld vprof 0 2).toNat with
  | 0 => 1024
  | 1 => 512
  | _ => 256

/-- Reduction fold width P of a VPROF value (R179). -/
def foldOf (vprof : Word) : Nat :=
  match (fld vprof 2 2).toNat with
  | 0 => 64
  | 1 => 32
  | _ => 16

/-- Width of a width code (R177, R180). -/
def widthOfCode (w : BitVec 3) : Nat :=
  match w.toNat with
  | 0 => 4
  | 1 => 8
  | 2 => 16
  | 3 => 32
  | _ => 64

/-- Width code of a width (R177). -/
def codeOfWidth (w : Nat) : BitVec 3 :=
  if w = 4 then 0 else if w = 8 then 1 else if w = 16 then 2 else if w = 32 then 3 else 4

/-- The greatest vector length for a width under the current VPROF (R177). -/
def VecState.mvl (v : VecState) (width : Nat) : Nat := mvl32Of v.vprof * 32 / width

/-- Loop mode is in effect: a run of a body captured with mode 1 (R192). -/
def BlkState.loopMode (b : BlkState) : Bool := b.live && b.blk.getLsbD 1

/-- The physical register that a vector name designates (R192). -/
def State.physV (s : State) (r : BitVec 5) : BitVec 5 :=
  if s.core.blk.loopMode && 16 ≤ r.toNat then
    BitVec.ofNat 5 (16 + (r.toNat - 16 + 16 - (fld s.core.vec.lrot 0 4).toNat) % 16)
  else r

/-- The vector register that a name designates. -/
def State.vreg (s : State) (r : BitVec 5) : VReg := rget s.core.vec.v (s.physV r)

/-- Replaces the vector register that a name designates. -/
def State.setV (s : State) (r : BitVec 5) (x : VReg) : State :=
  s.onVec (fun v => { v with v := rset v.v (s.physV r) x })

/-- k[r]. k0 reads all ones (R172). -/
def State.kreg (s : State) (r : BitVec 3) : BitVec 8192 :=
  if r = 0 then BitVec.allOnes 8192 else rget s.core.vec.k r

/-- Writes k[r]; k0 is never a destination (R56). -/
def State.setK (s : State) (r : BitVec 3) (x : BitVec 8192) : State :=
  if r = 0 then s else s.onVec (fun v => { v with k := rset v.k r x })

/-- The m register of a number. -/
def State.mreg (s : State) (r : BitVec 3) : MReg := rget s.core.mat.m r

/-- Replaces an m register. -/
def State.setM (s : State) (r : BitVec 3) (x : MReg) : State :=
  s.onMat (fun m => { m with m := rset m.m r x })

/-! ## Ports (R158) -/

/-- XSTAT.STATE. -/
def xState (x : Word) : BitVec 3 := fld x 61 3
/-- XSTAT.DIR. -/
def xDir (x : Word) : Bool := x.getLsbD 60
/-- XSTAT.NSZ. -/
def xNsz (x : Word) : BitVec 2 := fld x 54 2
/-- XSTAT.ARM. -/
def xArm (x : Word) : Bool := x.getLsbD 51
/-- XSTAT.EXP. -/
def xExp (x : Word) : Nat := (fld x 32 16).toNat
/-- XSTAT.CNT. -/
def xCnt (x : Word) : Nat := (fld x 16 16).toNat
/-- XSTAT.FELEM. -/
def xFelem (x : Word) : Nat := (fld x 0 16).toNat

/-- Port states (R158). -/
def stIdle : BitVec 3 := 0
def stActive : BitVec 3 := 1
def stDone : BitVec 3 := 2
def stRecv : BitVec 3 := 3
def stOverfill : BitVec 3 := 4
def stError : BitVec 3 := 5

/-- XSTAT of a port. -/
def State.xstat (s : State) (p : BitVec 4) : Word := rget s.core.port.xstat p

/-- XFAULT of a port. -/
def State.xfault (s : State) (p : BitVec 4) : Word := rget s.core.port.xfault p

/-- CHWIN of a channel. -/
def State.chwin (s : State) (c : BitVec 3) : Word := rget s.core.port.chwin c

/-- CHWIN.BASE. -/
def chBase (x : Word) : Nat := (fld x 0 22).toNat

/-- CHWIN.WM. -/
def chWm (x : Word) : Nat := (fld x 22 22).toNat

/-- A CHWIN word (R158). -/
def chWord (wm base : Nat) : Word := (BitVec.ofNat 22 wm ++ BitVec.ofNat 22 base).setWidth 64

/-! ## Undefined content that a format can represent (R10; log 12) -/

/-- Scale bytes of e2m1x blocks: none is 0xFF (R83, R85). -/
def freeScales (k : Nat) : BitVec 1024 :=
  BitVec.ofNat 1024 ((List.range 128).foldr (fun i a => 256 * a + (getF 8 (Config.freeBlocks k) i).toNat % 255) 0)

/-- Extra bytes of e2m1x blocks: bits [7:5] are 0 (R83, R85). -/
def freeX8 (k : Nat) : BitVec 1024 := Config.freeBlocks k &&& fields 128 1024 (0x1F#8)

/-- Accumulators: bits [63:58] are 0 (R91). -/
def freeAccs (k : Nat) : BitVec 983040 := Config.freeAcc k &&& fields 15360 983040 (0x3FFFFFFFFFFFFFF#64)

/-- Permutation fields: entries from 0 to 5 (R244). -/
def freePerms (k : Nat) : BitVec 3072 :=
  BitVec.ofNat 3072 ((List.range 384).foldr (fun i a => 256 * a + (getF 8 (Config.freePerm k) i).toNat % 6) 0)

end Sys2Proof.Machine
end

