-- ==== Sys2Proof/Machine/Format.lean ====
section
/-! DEFINITION. The number formats by tag: widen, sat and round, binary angles, e2m1x blocks, bfp runs and the matrix
accumulator (R71–R95). -/

namespace Sys2Proof.Machine

/-- Width of a tag (R173). -/
def Tag.width : Tag → Nat
  | .i8 | .n8 | .e4m3 | .e5m2 => 8
  | .i16 | .n16 | .fx16 | .ang16 | .f16 | .bf16 => 16
  | .i32 | .n32 | .fx32 | .ang32 | .f32 => 32
  | .i64 | .n64 => 64
  | .e2m1x => 4

/-- The tag of a code (R57); none for bfp and the reserved codes. -/
def Tag.ofCode (c : BitVec 5) : Option Tag :=
  match c.toNat with
  | 0x00 => some .i8 | 0x01 => some .i16 | 0x02 => some .i32 | 0x03 => some .i64
  | 0x04 => some .n8 | 0x05 => some .n16 | 0x06 => some .n32 | 0x07 => some .n64
  | 0x08 => some .fx16 | 0x09 => some .fx32 | 0x0A => some .ang16 | 0x0B => some .ang32
  | 0x0C => some .f32 | 0x0D => some .f16 | 0x0E => some .bf16 | 0x0F => some .e4m3
  | 0x10 => some .e5m2 | 0x11 => some .e2m1x
  | _ => none

/-- The code of a tag (R57). -/
def Tag.code : Tag → BitVec 5
  | .i8 => 0x00 | .i16 => 0x01 | .i32 => 0x02 | .i64 => 0x03
  | .n8 => 0x04 | .n16 => 0x05 | .n32 => 0x06 | .n64 => 0x07
  | .fx16 => 0x08 | .fx32 => 0x09 | .ang16 => 0x0A | .ang32 => 0x0B
  | .f32 => 0x0C | .f16 => 0x0D | .bf16 => 0x0E | .e4m3 => 0x0F
  | .e5m2 => 0x10 | .e2m1x => 0x11

/-- Classes of tags. -/
def Tag.isSInt : Tag → Bool
  | .i8 | .i16 | .i32 | .i64 => true
  | _ => false

def Tag.isNInt : Tag → Bool
  | .n8 | .n16 | .n32 | .n64 => true
  | _ => false

def Tag.isInt (t : Tag) : Bool := t.isSInt || t.isNInt

def Tag.isFx : Tag → Bool
  | .fx16 | .fx32 => true
  | _ => false

def Tag.isAng : Tag → Bool
  | .ang16 | .ang32 => true
  | _ => false

/-- The floating format of a tag (R76). -/
def Tag.float : Tag → Option FloatFmt
  | .f32 => some fmtF32
  | .f16 => some fmtF16
  | .bf16 => some fmtBf16
  | .e4m3 => some fmtE4m3
  | .e5m2 => some fmtE5m2
  | _ => none

def Tag.isFloat (t : Tag) : Bool := t.float.isSome

/-- Values are two's complement (R71). -/
def Tag.signed (t : Tag) : Bool := t.isSInt || t.isFx

/-- A bit pattern of width w as a two's-complement integer. -/
def sInt (w x : Nat) : Int := if 2 * (x % 2 ^ w) < 2 ^ w then (x % 2 ^ w : Nat) else (x % 2 ^ w : Nat) - (2 ^ w : Nat)

/-- The low w bits of an integer, wrapping (R72). -/
def wrapBits (w : Nat) (t : Int) : Nat := (t % (2 ^ w : Nat)).toNat

/-- widen for the tags whose elements stand alone (R70, R71, R74, R76); e2m1x widens by block. -/
def Tag.widen (t : Tag) (frac : Nat) (x : Nat) : XVal :=
  match t.float with
  | some f => f.widen x
  | none =>
    if t.isFx then .fin (sInt t.width x) (-(frac : Int))
    else if t.isAng then .fin (sInt t.width x) (-(t.width : Int))
    else if t.isSInt then .fin (sInt t.width x) 0
    else .fin (x % 2 ^ t.width : Nat) 0

/-- Least and greatest q of a tag (R71). -/
def Tag.qMin (t : Tag) : Int := if t.signed then -(2 ^ (t.width - 1) : Nat) else 0
def Tag.qMax (t : Tag) : Int := if t.signed then (2 ^ (t.width - 1) : Nat) - 1 else (2 ^ t.width : Nat) - 1

/-- sat (R72): the encoding of the nearest value, and SAT if it differs. -/
def Tag.sat (t : Tag) (x : Int) : Nat × Flags :=
  if x < t.qMin then (wrapBits t.width t.qMin, flagSat)
  else if t.qMax < x then (wrapBits t.width t.qMax, flagSat)
  else (wrapBits t.width x, 0)

/-- A conversion control split (R79). -/
structure Ctl where
  mode : RMode
  satf : Bool
  deriving DecidableEq, Repr

/-- RNE with SATF 0, for instructions that name no control (R79). -/
def ctlRne : Ctl := ⟨.rne, false⟩

/-- A 4-bit conversion control; none for the reserved modes (R79). -/
def Ctl.ofCode (c : BitVec 4) : Option Ctl := (RMode.ofCode (c.extractLsb' 0 3)).map (fun m => ⟨m, c.getLsbD 3⟩)

/-- round (R80) for the tags whose elements stand alone: encoding and flags. -/
def Tag.round (t : Tag) (frac : Nat) (c : Ctl) (u : BitVec 32) (x : XVal) : Nat × Flags :=
  match t.float with
  | some f => f.round c.mode c.satf u x
  | none =>
    match x with
    | .nan => (0, flagInv)
    | .negZero => (0, 0)
    | .inf n =>
      if t.isAng then (0, flagInv) else (wrapBits t.width (if n then t.qMin else t.qMax), flagSat)
    | .fin m e =>
      if t.isAng then (wrapBits t.width (roundInt c.mode u m (e + t.width)), 0)
      else t.sat (roundInt c.mode u m (e + frac))

/-- round_rne into a tag. -/
def Tag.roundRne (t : Tag) (frac : Nat) (x : XVal) : Nat × Flags := t.round frac ctlRne 0 x

/-! ## f32 arithmetic, one rounding an operation (R77–R80) -/

/-- An f32 encoding as its value. -/
def wF32 (x : Nat) : XVal := fmtF32.widen x

/-- round_rne to f32, with INV also for an operand that is nan (R77). -/
def rF32 (x : XVal) : Nat × Flags := fmtF32.round .rne false 0 x

/-! ## Binary angles (R75) -/

/-- ang_fold: quadrant and residual. -/
def angFold (n w : Nat) : Nat × Int :=
  ((n + 2 ^ (w - 3)) / 2 ^ (w - 2) % 4, ((n + 2 ^ (w - 3)) % 2 ^ (w - 2) : Nat) - (2 ^ (w - 3) : Nat))

/-- quad_rot on integers. -/
def quadRot (q : Nat) (x y : Int) : Int × Int :=
  match q % 4 with
  | 0 => (x, y)
  | 1 => (-y, x)
  | 2 => (-x, -y)
  | _ => (y, -x)

/-! ## e2m1x blocks (R83–R86) -/

/-- The value of a code in halves, code 0b1000 apart (R83). -/
def e2m1Halves (c : Nat) : Int :=
  let m : Int := match c % 8 with
    | 0 => 0 | 1 => 1 | 2 => 2 | 3 => 3 | 4 => 4 | 5 => 6 | 6 => 8 | _ => 12
  if 8 ≤ c then -m else m

/-- The extra value X in halves (R83). -/
def extraHalves (x8 : Byte) : Int := (x8.extractLsb' 0 5).toInt

/-- widen of an e2m1x code in a block of scale b and extra byte x8 (R83). With b of 253 or 254 a large code lies above the
largest f32, though R82 and R83 call every value exact there: that the exact value is what converts on is the model's
choice (log 109). -/
def widenE2m1 (c : BitVec 4) (b x8 : Byte) : XVal :=
  let h := if c = 8 then extraHalves x8 else e2m1Halves c.toNat
  .fin h ((b.toNat : Int) - 128)

/-- The cause of a malformed block on a load (R85). -/
def blockCause (b x8 : Byte) : Option (BitVec 8) :=
  if x8.extractLsb' 5 3 != 0 then some 0x40 else if b == 0xFF then some 0x41 else none

/-- The plain codes in ascending value, each with its value in halves (R86 step 5). -/
def plainCodes : List (Nat × Int) :=
  [(15, -12), (14, -8), (13, -6), (12, -4), (11, -3), (10, -2), (9, -1), (0, 0), (1, 1), (2, 2), (3, 3), (4, 4), (5, 6),
    (6, 8), (7, 12)]

/-- Candidates in ascending value, with X from code 8 where no plain code has its value (R86 steps 5, 6). -/
def candidates (xh : Int) : List (Nat × Int) :=
  if plainCodes.any (fun c => c.2 == xh) then plainCodes
  else plainCodes.filter (fun c => decide (c.2 < xh)) ++ (8, xh) :: plainCodes.filter (fun c => decide (xh < c.2))

/-- Compares a value with a count of halves. -/
def cmpHalves (y : XVal) (h : Int) : Int := XVal.cmp y (.fin h (-1))

/-- A scaled member on the candidate set: code and flags (R86 steps 5 to 7; log 16). -/
def pickCode (c : Ctl) (u : BitVec 32) (xh : Int) (y : XVal) : BitVec 4 × Flags :=
  let cs := candidates xh
  let below := cs.filter (fun p => decide (0 ≤ cmpHalves y p.2))
  let above := cs.filter (fun p => decide (cmpHalves y p.2 ≤ 0))
  match below.getLast?, above.head? with
  | some lo, none => (BitVec.ofNat 4 lo.1, if c.mode == .rtz || c.mode == .rdn then 0 else flagSat)
  | none, some hi => (BitVec.ofNat 4 hi.1, if c.mode == .rtz || c.mode == .rup then 0 else flagSat)
  | some lo, some hi =>
    if lo.2 = hi.2 then (BitVec.ofNat 4 lo.1, 0)
    else
      let hiWins : Bool := match c.mode with
        | .rdn => false
        | .rup => true
        | .rtz => decide (cmpHalves y 0 < 0)
        | .rne =>
          let d := XVal.cmp (.fin (lo.2 + hi.2) (-2)) y
          if d < 0 then true
          else if 0 < d then false
          else if lo.1 = 8 then true
          else if hi.1 = 8 then false
          else hi.1 % 2 == 0
        | .sr =>
          match y with
          | .fin m e =>
            -- frac = (y − lo) / (hi − lo) with y = m·2^e: floor(frac·2^32) as an integer quotient
            let num := if e ≤ -1 then m - XVal.lower lo.2 (-1) e else XVal.lower m e (-1) - lo.2
            let den := if e ≤ -1 then XVal.lower (hi.2 - lo.2) (-1) e else hi.2 - lo.2
            decide ((u.toNat : Int) < num * 2 ^ 32 / den)
          | _ => false
      (BitVec.ofNat 4 (if hiWins then hi.1 else lo.1), 0)
  | none, none => (0, 0)

/-- An e2m1x block: codes by member index, scale byte, extra byte, flags. -/
structure E2Block where
  codes : List (Nat × BitVec 4)
  b : Byte
  x8 : Byte
  flags : Flags
  deriving DecidableEq, Repr

/-- The member of greatest magnitude, the lowest index on a tie; NaN and infinities take no part (R86 steps 1, 8). -/
def greatestMember : List (Nat × XVal × BitVec 32) → Option XVal
  | [] => none
  | (_, x, _) :: r =>
    match x, greatestMember r with
    | .nan, m => m
    | .inf _, m => m
    | x, none => some x
    | x, some m => if XVal.lt x.abs m.abs then some m else some x

/-- A finite value in halves already scaled, rounded to an integer under RNE. -/
def roundHalves (x : XVal) : Int :=
  match x with
  | .fin m e => roundInt .rne 0 m e
  | _ => 0

/-- to_e2m1x (R86) of the members of a block, each with its draw. Where every member is NaN or infinite, none takes part in
the choice of a: that b and x8 are then 0, as in a block that holds no member, is the model's choice (log 106). -/
def toE2m1x (c : Ctl) (ms : List (Nat × XVal × BitVec 32)) : E2Block :=
  let special (x : XVal) : Bool := match x with
    | .nan => true
    | .inf _ => true
    | _ => false
  let inv : Flags := if ms.any (fun m => special m.2.1) then flagInv else 0
  match greatestMember ms with
  | none => ⟨ms.map (fun m => (m.1, 0)), 0, 0, inv⟩
  | some a =>
    if a.isZero then ⟨ms.map (fun m => (m.1, 0)), 0, 0, inv⟩
    else
      let s : Int := max (-127) (min 127 (a.log2 - 2))
      let xr : Int := roundHalves (a.scale (1 - s))
      let xh : Int := max (-16) (min 15 xr)
      let picks := ms.map (fun m =>
        if special m.2.1 then (m.1, (0 : BitVec 4), (0 : Flags))
        else let p := pickCode c m.2.2 xh (m.2.1.scale (-s)); (m.1, p.1, p.2))
      ⟨picks.map (fun p => (p.1, p.2.1)), BitVec.ofInt 8 (s + 127), (BitVec.ofInt 5 xh).setWidth 8,
        picks.foldl (fun f p => f ||| p.2.2) (inv ||| (if xh = xr then (0 : Flags) else flagSat))⟩

/-! ## The matrix accumulator (R91–R94) -/

/-- Significand S of an accumulator word. -/
def accS (x : Word) : Int := (fld x 0 48).toInt

/-- Exponent E of an accumulator word. -/
def accE (x : Word) : Nat := (fld x 48 10).toNat

/-- An accumulator word. -/
def accWord (s : Int) (e : Nat) : Word := (BitVec.ofNat 10 e ++ BitVec.ofInt 48 s).setWidth 64

/-- The value of an accumulator. -/
def accVal (x : Word) : XVal := .fin (accS x) ((accE x : Int) - 512)

/-- round_acc (R92) of m × 2^e: accumulator word and SAT. -/
def roundAcc (m e : Int) : Word × Flags :=
  if m = 0 then (0, 0)
  else
    let ex : Int := max 0 (m.natAbs.log2 + e - 46 + 512)
    let s := roundInt .rne 0 m (e - (ex - 512))
    let s' := if s.natAbs = 2 ^ 47 then s / 2 else s
    let e' := if s.natAbs = 2 ^ 47 then ex + 1 else ex
    if 1023 < e' then (accWord (if m < 0 then -(2 ^ 47 - 1) else 2 ^ 47 - 1) 1023, flagSat)
    else (accWord s' e'.toNat, 0)

/-- narrow (R94): an accumulator into a tag. -/
def narrow (x : Word) (t : Tag) (frac : Nat) (c : Ctl) (u : BitVec 32) : Nat × Flags := t.round frac c u (accVal x)

end Sys2Proof.Machine
end

