-- ==== Sys2Proof/Machine/Sreg.lean ====
section
/-! DEFINITION. The numbers of the state registers (R410) and the literal limits of vcfg (R57), which the static
checks of R62 use. -/

namespace Sys2Proof

/-- The privilege a register form asks for (R410): a level, or never. -/
inductive Lvl where
  | user
  | supervisor
  | machine
  | never
  deriving DecidableEq, Repr

/-- The table of state register numbers (R410): the greatest instance, the level of sys.rd and the level of sys.wr;
none for an unassigned number. -/
def sregRow (n : BitVec 7) : Option (Nat × Lvl × Lvl) :=
  match n.toNat with
  | 0x00 | 0x01 | 0x03 | 0x05 => some (0, .user, .supervisor)
  | 0x02 => some (0, .user, .never)
  | 0x04 => some (0, .user, .user)
  | 0x06 | 0x07 | 0x08 | 0x09 => some (0, .user, .supervisor)
  | 0x0A | 0x0B | 0x0C => some (0, .user, .supervisor)
  | 0x0D | 0x0E => some (0, .user, .user)
  | 0x0F => some (0, .user, .supervisor)
  | 0x10 => some (2, .user, .supervisor)
  | 0x11 => some (1, .user, .supervisor)
  | 0x12 | 0x13 | 0x14 | 0x15 | 0x16 => some (0, .user, .supervisor)
  | 0x17 => some (0, .supervisor, .supervisor)
  | 0x18 => some (0, .user, .never)
  | 0x19 | 0x1A | 0x1B | 0x1C => some (0, .user, .supervisor)
  | 0x20 | 0x21 | 0x22 => some (15, .user, .supervisor)
  | 0x23 | 0x24 | 0x25 => some (7, .user, .supervisor)
  | 0x26 => some (15, .user, .supervisor)
  | 0x27 | 0x28 => some (15, .supervisor, .supervisor)
  | 0x40 => some (0, .user, .supervisor)
  | 0x41 | 0x42 | 0x43 | 0x44 | 0x45 => some (0, .supervisor, .supervisor)
  | 0x46 => some (0, .supervisor, .never)
  | 0x47 | 0x48 | 0x49 | 0x4A | 0x4B | 0x4C => some (0, .supervisor, .supervisor)
  | 0x60 | 0x61 | 0x62 | 0x63 | 0x64 => some (0, .machine, .machine)
  | _ => none

/-- R410: the number is assigned and the instance is in its range. -/
def sregAssigned (n : BitVec 7) (i : BitVec 5) : Bool :=
  match sregRow n with
  | some (m, _, _) => i.toNat ≤ m
  | none => false

/-- The literal limits of vcfg (R57, R174): a tag of a vector register, F within the tag, a group only of f32. -/
def vcfgLitOk (tag frac : BitVec 5) (grp : BitVec 2) : Bool :=
  tag.ule 0x11 && (frac == 0 || (tag == 0x08 && frac.ule 15) || tag == 0x09) && grp != 3 && (grp == 0 || tag == 0x0C)

/-- The base of a group of 4 or 8 is divisible by its size (R56, R174). -/
def vcfgAligned (d : BitVec 5) (grp : BitVec 2) : Bool :=
  match grp.toNat with
  | 1 => d.extractLsb' 0 2 == 0
  | 2 => d.extractLsb' 0 3 == 0
  | _ => true

end Sys2Proof
end

