-- ==== Sys2Proof/WellFormed.lean ====
section
/-! DEFINITION. Which terms of Instr are words of the machine: the operand limits of R49 to R60, form by form. -/

namespace Sys2Proof

/-- Operand limits that the static checks of R62 enforce on each form (steps 5 to 8). An event has no word and no limit. -/
def Instr.wellFormed : Instr → Bool
  | .add _ _ _ => true
  | .sub _ _ _ => true
  | .and _ _ _ => true
  | .or _ _ _ => true
  | .xor _ _ _ => true
  | .sll _ _ _ => true
  | .srl _ _ _ => true
  | .sra _ _ _ => true
  | .slt _ _ _ => true
  | .sltu _ _ _ => true
  | .min _ _ _ => true
  | .max _ _ _ => true
  | .minu _ _ _ => true
  | .maxu _ _ _ => true
  | .clz _ _ => true
  | .popc _ _ => true
  | .mul _ _ _ => true
  | .mulh _ _ _ => true
  | .mulhu _ _ _ => true
  | .div _ _ _ => true
  | .divu _ _ _ => true
  | .rem _ _ _ => true
  | .remu _ _ _ => true
  | .ldxB _ _ _ => true
  | .ldxBu _ _ _ => true
  | .ldxH _ _ _ => true
  | .ldxHu _ _ _ => true
  | .ldxW _ _ _ => true
  | .ldxWu _ _ _ => true
  | .ldxD _ _ _ => true
  | .stxB _ _ _ => true
  | .stxH _ _ _ => true
  | .stxW _ _ _ => true
  | .stxD _ _ _ => true
  | .blkCap _ _ _ => true
  | .blkRun _ _ => true
  | .blkBrk _ => true
  | .addi _ _ _ => true
  | .andi _ _ _ => true
  | .ori _ _ _ => true
  | .xori _ _ _ => true
  | .slli _ _ _ => true
  | .srli _ _ _ => true
  | .srai _ _ _ => true
  | .lui _ _ => true
  | .auipc _ _ => true
  | .jal _ _ => true
  | .jalr _ _ _ => true
  | .ldD _ _ _ => true
  | .stD _ _ _ => true
  | .beq _ _ _ => true
  | .bne _ _ _ => true
  | .vcfg d tag frac grp => vcfgLitOk tag frac grp && vcfgAligned d grp
  | .vsetvl _ _ b => b.ule 17
  | .vprof _ _ => true
  | .vmfc _ _ => true
  | .vlq _ _ => true
  | .vspill _ _ => true
  | .vfill _ _ => true
  | .vLd _ _ _ => true
  | .vSt _ _ _ => true
  | .vLds _ _ _ k z => (!z || k != 0)
  | .vLdx _ _ _ k z _ => (!z || k != 0)
  | .vLdb _ _ k z => (!z || k != 0)
  | .vLdk d _ => d != 0
  | .vLdq _ a k z => a.ule 11 && decide (8 <= a.toNat) && (!z || k != 0)
  | .vLdff _ _ _ k z => (!z || k != 0)
  | .vSts _ _ _ _ => true
  | .vStx _ _ _ _ _ => true
  | .vStk _ _ => true
  | .vSxadd _ _ _ _ _ => true
  | .vSxmin _ _ _ _ _ => true
  | .vSxmax _ _ _ _ _ => true
  | .vPf _ _ => true
  | .vLdc _ _ k z => (!z || k != 0)
  | .vStc _ _ _ => true
  | .vAdd _ _ _ k z _ => (!z || k != 0)
  | .vSub _ _ _ k z _ => (!z || k != 0)
  | .vMul _ _ _ k z _ => (!z || k != 0)
  | .vMulh _ _ _ k z _ => (!z || k != 0)
  | .vMadd _ _ _ k z _ => (!z || k != 0)
  | .vMsub _ _ _ k z _ => (!z || k != 0)
  | .vMin _ _ _ k z _ => (!z || k != 0)
  | .vMax _ _ _ k z _ => (!z || k != 0)
  | .vAbs _ _ k z => (!z || k != 0)
  | .vNeg _ _ k z => (!z || k != 0)
  | .vClamp _ _ _ k z _ => (!z || k != 0)
  | .vAnd _ _ _ k z _ => (!z || k != 0)
  | .vOr _ _ _ k z _ => (!z || k != 0)
  | .vXor _ _ _ k z _ => (!z || k != 0)
  | .vNot _ _ k z => (!z || k != 0)
  | .vSll _ _ _ k z _ => (!z || k != 0)
  | .vSrl _ _ _ k z _ => (!z || k != 0)
  | .vSra _ _ _ k z _ => (!z || k != 0)
  | .vCeq d _ _ k z _ => d != 0 && (!z || k != 0)
  | .vCne d _ _ k z _ => d != 0 && (!z || k != 0)
  | .vClt d _ _ k z _ => d != 0 && (!z || k != 0)
  | .vCle d _ _ k z _ => d != 0 && (!z || k != 0)
  | .vCun d _ _ k z _ => d != 0 && (!z || k != 0)
  | .vCvt _ _ _ k z => (!z || k != 0)
  | .vCvtz _ _ _ k z => (!z || k != 0)
  | .vCvtp _ _ _ k z => (!z || k != 0)
  | .vCvtm _ _ _ k z => (!z || k != 0)
  | .vCvts _ _ _ k z _ => (!z || k != 0)
  | .vWacc _ _ _ k z _ => (!z || k != 0)
  | .vPerm _ _ _ k z _ => (!z || k != 0)
  | .vSlup _ _ _ k z => (!z || k != 0)
  | .vSldn _ _ _ k z => (!z || k != 0)
  | .vComp _ _ k z => (!z || k != 0)
  | .vExpd _ _ k z => (!z || k != 0)
  | .vMrg _ _ _ _ _ => true
  | .vCdet _ _ k z => (!z || k != 0)
  | .vIota _ _ k z => (!z || k != 0)
  | .vSplat _ _ k z => (!z || k != 0)
  | .vExtr _ _ _ => true
  | .vKand d _ _ => d != 0
  | .vKor d _ _ => d != 0
  | .vKxor d _ _ => d != 0
  | .vKandn d _ _ => d != 0
  | .vKpop _ _ => true
  | .vKfirst _ _ => true
  | .vRsum _ _ _ => true
  | .vRmax _ _ _ => true
  | .vRmin _ _ _ => true
  | .vRall _ _ _ => true
  | .vRany _ _ _ => true
  | .vRxor _ _ _ => true
  | .vPsum _ _ k z => (!z || k != 0)
  | .vPmax _ _ k z => (!z || k != 0)
  | .vPmin _ _ k z => (!z || k != 0)
  | .vRng _ _ b k z => !b.getLsbD 0 && (!z || k != 0)
  | .vRngf _ _ b k z => !b.getLsbD 0 && (!z || k != 0)
  | .rotC d _ _ k z => !d.getLsbD 0 && (!z || k != 0)
  | .rotCg d _ _ k z => !d.getLsbD 0 && (!z || k != 0)
  | .axisC d _ _ k z => !d.getLsbD 0 && (!z || k != 0)
  | .axisCg d _ _ k z => !d.getLsbD 0 && (!z || k != 0)
  | .gainC d _ k z => !d.getLsbD 0 && (!z || k != 0)
  | .rotH d _ _ k z => !d.getLsbD 0 && (!z || k != 0)
  | .rotHg d _ _ k z => !d.getLsbD 0 && (!z || k != 0)
  | .axisH d _ _ k z => !d.getLsbD 0 && (!z || k != 0)
  | .axisHg d _ _ k z => !d.getLsbD 0 && (!z || k != 0)
  | .gainH d _ k z => !d.getLsbD 0 && (!z || k != 0)
  | .rotL d _ _ k z => !d.getLsbD 0 && (!z || k != 0)
  | .axisL d _ _ k z => !d.getLsbD 0 && (!z || k != 0)
  | .rotFold d _ k z => !d.getLsbD 0 && (!z || k != 0)
  | .rotUnfold d _ k z => !d.getLsbD 0 && (!z || k != 0)
  | .mmShape _ a b => a.ule 6 && decide (1 <= a.toNat) && b.ule 6 && decide (1 <= b.toNat)
  | .mmMov _ _ _ => true
  | .mmExt _ _ _ _ => true
  | .mmIns _ _ _ _ => true
  | .mmLd _ _ _ _ => true
  | .mmSt _ _ _ _ => true
  | .mmMul _ _ _ _ => true
  | .mmMadd _ _ _ _ => true
  | .mmMsub _ _ _ _ => true
  | .mmTrn _ _ _ => true
  | .mmChol _ _ _ => true
  | .mmLu _ _ _ => true
  | .mmTrsl _ _ _ _ => true
  | .mmTrsu _ _ _ _ => true
  | .mmSolve _ _ _ _ => true
  | .mmDet d _ _ => !d.getLsbD 0
  | .tlShape _ _ => true
  | .tlDesc _ _ _ => true
  | .tlPrec _ _ => true
  | .tlZero _ => true
  | .tlAcc _ _ _ => true
  | .tlLdp _ _ b op => b.extractLsb' 0 2 == 0 && ((op &&& 14) == 0)
  | .tlStp _ _ b => b.extractLsb' 0 2 == 0
  | .tlBcast _ _ p => p.ule 2
  | .tlLdsc _ _ _ op p => ((op &&& 4) == 0) && p.ule 7
  | .tlMma _ _ _ => true
  | .tlMmz _ _ _ => true
  | .tlMms _ _ _ => true
  | .tlExt _ _ _ k z => (!z || k != 0)
  | .tlExtr _ _ _ k z => (!z || k != 0)
  | .xsLd d _ b _ p => b.extractLsb' 0 2 == 0 && (p.ule 7 || !p.ule 11 || d == 0)
  | .xsSt d _ b op p => b.extractLsb' 0 2 == 0 && ((op &&& 1) == 0) && (p.ule 7 || !p.ule 11) && (p.ule 7 || !p.ule 11 || d == 0)
  | .xsGth d _ b op p => b.extractLsb' 0 2 == 0 && ((op &&& 5) == 0) && (p.ule 7 || !p.ule 11 || d == 0)
  | .xsSct d _ b op p => b.extractLsb' 0 2 == 0 && ((op &&& 5) == 0) && (p.ule 7 || !p.ule 11) && (p.ule 7 || !p.ule 11 || d == 0)
  | .xsCp d a b op p => b.extractLsb' 0 2 == 0 && ((op &&& 1) == 0) && p != a.setWidth 4 && (p.ule 7 || !p.ule 11 || d == 0)
  | .xsWait _ _ => true
  | .xsCnt _ _ => true
  | .xsWm _ _ => true
  | .xsRst _ _ => true
  | .xsCsum _ _ => true
  | .cbCfg _ _ _ => true
  | .cbAcq _ _ _ => true
  | .cbRel _ _ => true
  | .cbStat _ _ => true
  | .plDec _ _ _ op p => ((op &&& 14) == 0) && p.ule 7
  | .plIsect _ _ _ op p => ((op &&& 14) == 0) && p.ule 7
  | .plUnite _ _ _ op p => ((op &&& 14) == 0) && p.ule 7
  | .plBm25 _ _ _ p => p.ule 7
  | .plFuse _ _ b p => !b.getLsbD 0 && p.ule 7
  | .plTopk _ _ _ p => p.ule 7
  | .plPrm _ b => b.ule 2
  | .plQry _ _ => true
  | .plStat _ => true
  | .plClr _ => true
  | .rsvOpen _ _ _ => true
  | .rsvClaim d _ _ _ => d.ule 6
  | .rsvWave d => d != 0
  | .rsvRetire _ => true
  | .rsvStat _ => true
  | .amoAdd _ _ _ => true
  | .amoMin _ _ _ => true
  | .amoMax _ _ _ => true
  | .amoAnd _ _ _ => true
  | .amoOr _ _ _ => true
  | .amoXor _ _ _ => true
  | .amoSwap _ _ _ => true
  | .amoCas _ _ _ => true
  | .amoFadd _ _ _ => true
  | .gbInit _ _ => true
  | .gbArr _ _ => true
  | .gbWait _ _ => true
  | .fenceRel b => b.ule 5
  | .fenceAcq b => b.ule 5
  | .fenceAr b => b.ule 5
  | .detStep _ => true
  | .detLog _ => true
  | .claimEl _ _ _ => true
  | .taskSpawn _ _ => true
  | .taskJoin _ _ => true
  | .taskNotify _ _ => true
  | .vpRun _ _ => true
  | .vpBr _ _ => true
  | .vpStop _ => true
  | .vpId _ _ => true
  | .vpAny _ _ => true
  | .sysRd _ a n => sregAssigned n a
  | .sysWr d _ n => sregAssigned n d
  | .sysSet d _ n => sregAssigned n d
  | .sysClr d _ n => sregAssigned n d
  | .sysCall _ _ => true
  | .sysBrk _ _ => true
  | .sysTinval _ _ => true
  | .sysId _ => true
  | .illegalInstruction _ => true
  | .plWait => true
  | .plAbort => true
  | .rsvClose => true
  | .taskExit => true
  | .vpJoin => true
  | .sysRet => true
  | .sysWfi => true
  | .sysIfence => true
  | .sysHalt => true
  | .xuGroupComplete => true
  | .watermarkRelease => true
  | .dauStallRelease => true
  | .xsWaitComplete => true
  | .streamStart => true
  | .streamElementComplete => true
  | .remoteArrival => true
  | .cbAcqGrant => true
  | .sloeCommandStart => true
  | .sloeChunkComplete => true
  | .sloeBatchComplete => true
  | .plWaitComplete => true
  | .tileFormExecute => true
  | .tileKStepComplete => true
  | .tileLineComplete => true
  | .tlBcastMeet => true
  | .rsvRendezvous => true
  | .gbWaitRelease => true
  | .fenceComplete => true
  | .detStepResolve => true
  | .taskSpawnPush => true
  | .wfiWake => true
  | .dispatch => true
  | .gangPreempt => true
  | .eventTake => true
  | .qctlMap => true
  | .qctlDrain => true
  | .qctlAbort => true
  | .queueDrainComplete => true
  | .queueAbortComplete => true
  | .hostDoorbell => true
  | .hostEvtpost => true
  | .hostMemRead => true
  | .hostMemWrite => true
  | .peerWriteIn => true
  | .spaesSendEntry => true
  | .spaesEntryComplete => true
  | .spownWrite => true
  | .controlInterval => true
  | .currentLimitTrip => true
  | .currentLimitRepeat => true
  | .currantTokenVisit => true
  | .equotaExhaust => true
  | .quotaRefill => true
  | .tygenCapSet => true
  | .tygenReadback => true
  | .clpQuiesce => true
  | .clpGate => true
  | .clpWake => true
  | .clpOpen => true
  | .clpQuiesced => true
  | .clpGated => true
  | .clpAwake => true
  | .svcIsolate => true
  | .svcRecalibrate => true
  | .svcLoadMicrocode => true
  | .svcReturn => true
  | .svcDone => true
  | .qrelRelease => true
  | .qrelComplete => true
  | .ckptTake => true
  | .ckptTakeComplete => true
  | .ckptRestore => true
  | .ckptRestoreComplete => true
  | .ckptInvalidate => true
  | .dieReset => true
  | .dieRelease => true
  | .firmwareInitComplete => true
  | .mainPowerLoss => true
  | .auxPowerLoss => true
  | .coldStart => true
  | .patrolScrub => true
  | .controlRegisterWrite => true
  | .mainPowerReturn => true
  | .firmwareCoreRestart => true
  | .softError => true

end Sys2Proof
end

