-- ==== Sys2Proof/Decode.lean ====
section
/-! DEFINITION. From words to instructions and back: the formats of R48, the index of R59, the checks of R62 in their
order, total on every word and rejecting by cause; then the encoder, written from the same tables. -/

namespace Sys2Proof

/-- The fields of a word in format N (R48): the other formats are views of them. -/
structure Fields where
  fn : BitVec 6
  rep : BitVec 2
  k : BitVec 3
  b : BitVec 5
  a : BitVec 5
  d : BitVec 5
  major : BitVec 6
  deriving DecidableEq, Repr

/-- The all-zero word. -/
def Fields.zero : Fields := ⟨0, 0, 0, 0, 0, 0, 0⟩

/-- R48: the fields of a word. -/
def fieldsOf (w : BitVec 32) : Fields :=
  ⟨w.extractLsb' 26 6, w.extractLsb' 24 2, w.extractLsb' 21 3, w.extractLsb' 16 5, w.extractLsb' 11 5,
    w.extractLsb' 6 5, w.extractLsb' 0 6⟩

/-- R48: the word of its fields. -/
def Fields.word (f : Fields) : BitVec 32 :=
  f.fn ++ f.rep ++ f.k ++ f.b ++ f.a ++ f.d ++ f.major

/-- imm16 of an I word: bits [31:16] (R48). -/
def Fields.imm16 (f : Fields) : BitVec 16 := f.fn ++ f.rep ++ f.k ++ f.b

/-- The offset of a B word: [31:21] over [10:6] (R48). -/
def Fields.off16 (f : Fields) : BitVec 16 := f.fn ++ f.rep ++ f.k ++ f.d

/-- off21 or imm21 of a J or U word: bits [31:11] (R48). -/
def Fields.imm21 (f : Fields) : BitVec 21 := f.fn ++ f.rep ++ f.k ++ f.b ++ f.a

/-- function [31:29] of a W word (R54). -/
def Fields.wfn (f : Fields) : BitVec 3 := f.fn.extractLsb' 3 3

/-- port [28:25] of a W word (R54). -/
def Fields.port (f : Fields) : BitVec 4 := f.fn.extractLsb' 0 3 ++ f.rep.extractLsb' 1 1

/-- op [24:21] of a W word (R54). -/
def Fields.op (f : Fields) : BitVec 4 := f.rep.extractLsb' 0 1 ++ f.k

/-- imm16[7:6] of the shift-immediate major (R51). -/
def Fields.shiftFn (f : Fields) : BitVec 2 := f.k.extractLsb' 1 2

/-- imm16[5:0] of the shift-immediate major (R51). -/
def Fields.shiftCount (f : Fields) : BitVec 6 := f.k.extractLsb' 0 1 ++ f.b

/-- A cause code (R61, R400). -/
abbrev Cause := BitVec 8

/-- What a form asks of the level (R62 step 4): a level, or the level that R410 gives a state register. -/
inductive Need where
  | user
  | supervisor
  | machine
  | rd (n : BitVec 7) (i : BitVec 5)
  | wr (n : BitVec 7) (i : BitVec 5)
  deriving DecidableEq, Repr

/-- A word whose major, function and opcode name a form (R62 steps 1, 2): whether the firmware core has the unit (step
3, R64), the level it needs (step 4), whether its must-be-zero fields, register numbers, literals and alignment hold
(steps 5 to 8), and the instruction. -/
structure Form where
  fw : Bool
  need : Need
  mbz : Bool
  reg : Bool
  lit : Bool
  ali : Bool
  instr : Instr
  deriving DecidableEq, Repr

/-- R62 steps 5 to 8: the first check that fails. -/
def Form.staticCause (m : Form) : Option Cause :=
  if !m.mbz then some 0x05 else if !m.reg then some 0x06 else if !m.lit then some 0x07
  else if !m.ali then some 0x08 else none

/-- Major 0x01 of the index of forms (R59). -/
def decodeMajor01 (f : Fields) : Except Cause Form :=
  match f.fn.toNat with
  | 0 => .ok ⟨true, .user, f.k == 0 && f.rep == 0, true, true, true, .add f.d f.a f.b⟩
  | 1 => .ok ⟨true, .user, f.k == 0 && f.rep == 0, true, true, true, .sub f.d f.a f.b⟩
  | 2 => .ok ⟨true, .user, f.k == 0 && f.rep == 0, true, true, true, .and f.d f.a f.b⟩
  | 3 => .ok ⟨true, .user, f.k == 0 && f.rep == 0, true, true, true, .or f.d f.a f.b⟩
  | 4 => .ok ⟨true, .user, f.k == 0 && f.rep == 0, true, true, true, .xor f.d f.a f.b⟩
  | 5 => .ok ⟨true, .user, f.k == 0 && f.rep == 0, true, true, true, .sll f.d f.a f.b⟩
  | 6 => .ok ⟨true, .user, f.k == 0 && f.rep == 0, true, true, true, .srl f.d f.a f.b⟩
  | 7 => .ok ⟨true, .user, f.k == 0 && f.rep == 0, true, true, true, .sra f.d f.a f.b⟩
  | 8 => .ok ⟨true, .user, f.k == 0 && f.rep == 0, true, true, true, .slt f.d f.a f.b⟩
  | 9 => .ok ⟨true, .user, f.k == 0 && f.rep == 0, true, true, true, .sltu f.d f.a f.b⟩
  | 10 => .ok ⟨true, .user, f.k == 0 && f.rep == 0, true, true, true, .min f.d f.a f.b⟩
  | 11 => .ok ⟨true, .user, f.k == 0 && f.rep == 0, true, true, true, .max f.d f.a f.b⟩
  | 12 => .ok ⟨true, .user, f.k == 0 && f.rep == 0, true, true, true, .minu f.d f.a f.b⟩
  | 13 => .ok ⟨true, .user, f.k == 0 && f.rep == 0, true, true, true, .maxu f.d f.a f.b⟩
  | 14 => .ok ⟨true, .user, f.b == 0 && f.k == 0 && f.rep == 0, true, true, true, .clz f.d f.a⟩
  | 15 => .ok ⟨true, .user, f.b == 0 && f.k == 0 && f.rep == 0, true, true, true, .popc f.d f.a⟩
  | 16 => .ok ⟨true, .user, f.k == 0 && f.rep == 0, true, true, true, .mul f.d f.a f.b⟩
  | 17 => .ok ⟨true, .user, f.k == 0 && f.rep == 0, true, true, true, .mulh f.d f.a f.b⟩
  | 18 => .ok ⟨true, .user, f.k == 0 && f.rep == 0, true, true, true, .mulhu f.d f.a f.b⟩
  | 19 => .ok ⟨true, .user, f.k == 0 && f.rep == 0, true, true, true, .div f.d f.a f.b⟩
  | 20 => .ok ⟨true, .user, f.k == 0 && f.rep == 0, true, true, true, .divu f.d f.a f.b⟩
  | 21 => .ok ⟨true, .user, f.k == 0 && f.rep == 0, true, true, true, .rem f.d f.a f.b⟩
  | 22 => .ok ⟨true, .user, f.k == 0 && f.rep == 0, true, true, true, .remu f.d f.a f.b⟩
  | _ => .error 0x04

/-- Major 0x02 of the index of forms (R59). -/
def decodeMajor02 (f : Fields) : Except Cause Form :=
  match f.fn.toNat with
  | 0 => .ok ⟨true, .user, f.k == 0 && f.rep == 0, true, true, true, .ldxB f.d f.a f.b⟩
  | 1 => .ok ⟨true, .user, f.k == 0 && f.rep == 0, true, true, true, .ldxBu f.d f.a f.b⟩
  | 2 => .ok ⟨true, .user, f.k == 0 && f.rep == 0, true, true, true, .ldxH f.d f.a f.b⟩
  | 3 => .ok ⟨true, .user, f.k == 0 && f.rep == 0, true, true, true, .ldxHu f.d f.a f.b⟩
  | 4 => .ok ⟨true, .user, f.k == 0 && f.rep == 0, true, true, true, .ldxW f.d f.a f.b⟩
  | 5 => .ok ⟨true, .user, f.k == 0 && f.rep == 0, true, true, true, .ldxWu f.d f.a f.b⟩
  | 6 => .ok ⟨true, .user, f.k == 0 && f.rep == 0, true, true, true, .ldxD f.d f.a f.b⟩
  | 8 => .ok ⟨true, .user, f.k == 0 && f.rep == 0, true, true, true, .stxB f.d f.a f.b⟩
  | 9 => .ok ⟨true, .user, f.k == 0 && f.rep == 0, true, true, true, .stxH f.d f.a f.b⟩
  | 10 => .ok ⟨true, .user, f.k == 0 && f.rep == 0, true, true, true, .stxW f.d f.a f.b⟩
  | 11 => .ok ⟨true, .user, f.k == 0 && f.rep == 0, true, true, true, .stxD f.d f.a f.b⟩
  | 16 => .ok ⟨false, .user, f.k == 0 && f.rep == 0, true, f.d.ule 1, true, .blkCap (f.d.setWidth 1) f.a f.b⟩
  | 17 => .ok ⟨false, .user, f.d == 0 && f.k == 0 && f.rep == 0, true, true, true, .blkRun f.a f.b⟩
  | 18 => .ok ⟨false, .user, f.a == 0 && f.b == 0 && f.k == 0 && f.rep == 0, true, true, true, .blkBrk f.d⟩
  | _ => .error 0x04

/-- Major 0x03 of the index of forms (R59). -/
def decodeMajor03 (f : Fields) : Except Cause Form :=
  .ok ⟨true, .user, true, true, true, true, .addi f.d f.a f.imm16⟩

/-- Major 0x04 of the index of forms (R59). -/
def decodeMajor04 (f : Fields) : Except Cause Form :=
  .ok ⟨true, .user, true, true, true, true, .andi f.d f.a f.imm16⟩

/-- Major 0x05 of the index of forms (R59). -/
def decodeMajor05 (f : Fields) : Except Cause Form :=
  .ok ⟨true, .user, true, true, true, true, .ori f.d f.a f.imm16⟩

/-- Major 0x06 of the index of forms (R59). -/
def decodeMajor06 (f : Fields) : Except Cause Form :=
  .ok ⟨true, .user, true, true, true, true, .xori f.d f.a f.imm16⟩

/-- Major 0x07 of the index of forms (R59). -/
def decodeMajor07 (f : Fields) : Except Cause Form :=
  match f.shiftFn.toNat with
  | 0 => .ok ⟨true, .user, f.fn == 0 && f.rep == 0, true, true, true, .slli f.d f.a f.shiftCount⟩
  | 1 => .ok ⟨true, .user, f.fn == 0 && f.rep == 0, true, true, true, .srli f.d f.a f.shiftCount⟩
  | 2 => .ok ⟨true, .user, f.fn == 0 && f.rep == 0, true, true, true, .srai f.d f.a f.shiftCount⟩
  | _ => .error 0x04

/-- Major 0x08 of the index of forms (R59). -/
def decodeMajor08 (f : Fields) : Except Cause Form :=
  .ok ⟨true, .user, true, true, true, true, .lui f.d f.imm21⟩

/-- Major 0x09 of the index of forms (R59). -/
def decodeMajor09 (f : Fields) : Except Cause Form :=
  .ok ⟨true, .user, true, true, true, true, .auipc f.d f.imm21⟩

/-- Major 0x0A of the index of forms (R59). -/
def decodeMajor0A (f : Fields) : Except Cause Form :=
  .ok ⟨true, .user, true, true, true, true, .jal f.d f.imm21⟩

/-- Major 0x0B of the index of forms (R59). -/
def decodeMajor0B (f : Fields) : Except Cause Form :=
  .ok ⟨true, .user, true, true, true, true, .jalr f.d f.a f.imm16⟩

/-- Major 0x0C of the index of forms (R59). -/
def decodeMajor0C (f : Fields) : Except Cause Form :=
  .ok ⟨true, .user, true, true, true, true, .ldD f.d f.a f.imm16⟩

/-- Major 0x0D of the index of forms (R59). -/
def decodeMajor0D (f : Fields) : Except Cause Form :=
  .ok ⟨true, .user, true, true, true, true, .stD f.d f.a f.imm16⟩

/-- Major 0x0E of the index of forms (R59). -/
def decodeMajor0E (f : Fields) : Except Cause Form :=
  .ok ⟨true, .user, true, true, true, true, .beq f.a f.b f.off16⟩

/-- Major 0x0F of the index of forms (R59). -/
def decodeMajor0F (f : Fields) : Except Cause Form :=
  .ok ⟨true, .user, true, true, true, true, .bne f.a f.b f.off16⟩

/-- Major 0x10 of the index of forms (R59). -/
def decodeMajor10 (f : Fields) : Except Cause Form :=
  .ok ⟨false, .user, f.a == 0 && f.fn.extractLsb' 2 4 == 0, true, vcfgLitOk f.b (f.rep ++ f.k) (f.fn.extractLsb' 0 2), vcfgAligned f.d (f.fn.extractLsb' 0 2), .vcfg f.d f.b (f.rep ++ f.k) (f.fn.extractLsb' 0 2)⟩

/-- Major 0x11 of the index of forms (R59). -/
def decodeMajor11 (f : Fields) : Except Cause Form :=
  match f.fn.toNat with
  | 0 => .ok ⟨false, .user, f.k == 0 && f.rep == 0, true, f.b.ule 17, true, .vsetvl f.d f.a f.b⟩
  | 1 => .ok ⟨false, .user, f.b == 0 && f.k == 0 && f.rep == 0, true, true, true, .vprof f.d f.a⟩
  | 2 => .ok ⟨false, .user, f.b == 0 && f.k == 0 && f.rep == 0, true, true, true, .vmfc f.d f.a⟩
  | 3 => .ok ⟨false, .user, f.b == 0 && f.k == 0 && f.rep == 0, true, true, true, .vlq f.d f.a⟩
  | 4 => .ok ⟨false, .user, f.d == 0 && f.k == 0 && f.rep == 0, true, true, true, .vspill f.a f.b⟩
  | 5 => .ok ⟨false, .user, f.a == 0 && f.k == 0 && f.rep == 0, true, true, true, .vfill f.d f.b⟩
  | _ => .error 0x04

/-- Major 0x12 of the index of forms (R59). -/
def decodeMajor12 (f : Fields) : Except Cause Form :=
  .ok ⟨false, .user, true, true, true, true, .vLd f.d f.a f.imm16⟩

/-- Major 0x13 of the index of forms (R59). -/
def decodeMajor13 (f : Fields) : Except Cause Form :=
  .ok ⟨false, .user, true, true, true, true, .vSt f.d f.a f.imm16⟩

/-- Major 0x14 of the index of forms (R59). -/
def decodeMajor14 (f : Fields) : Except Cause Form :=
  match (f.fn.extractLsb' 0 5).toNat with
  | 0 => .ok ⟨false, .user, (!f.fn.getLsbD 5 || f.k != 0) && f.rep == 0, true, true, true, .vLds f.d f.a f.b f.k (f.fn.getLsbD 5)⟩
  | 1 => .ok ⟨false, .user, (!f.fn.getLsbD 5 || f.k != 0), true, true, true, .vLdx f.d f.a f.b f.k (f.fn.getLsbD 5) f.rep⟩
  | 2 => .ok ⟨false, .user, f.b == 0 && (!f.fn.getLsbD 5 || f.k != 0) && f.rep == 0, true, true, true, .vLdb f.d f.a f.k (f.fn.getLsbD 5)⟩
  | 3 => .ok ⟨false, .user, f.b == 0 && !f.fn.getLsbD 5 && f.k == 0 && f.rep == 0, f.d.ule 7 && f.d != 0, true, true, .vLdk (f.d.setWidth 3) f.a⟩
  | 4 => .ok ⟨false, .user, f.b == 0 && (!f.fn.getLsbD 5 || f.k != 0) && f.rep == 0, true, f.a.ule 11 && 8 <= f.a.toNat, true, .vLdq f.d f.a f.k (f.fn.getLsbD 5)⟩
  | 5 => .ok ⟨false, .user, (!f.fn.getLsbD 5 || f.k != 0) && f.rep == 0, true, true, true, .vLdff f.d f.a f.b f.k (f.fn.getLsbD 5)⟩
  | _ => .error 0x04

/-- Major 0x15 of the index of forms (R59). -/
def decodeMajor15 (f : Fields) : Except Cause Form :=
  match (f.fn.extractLsb' 0 5).toNat with
  | 0 => .ok ⟨false, .user, !f.fn.getLsbD 5 && f.rep == 0, true, true, true, .vSts f.d f.a f.b f.k⟩
  | 1 => .ok ⟨false, .user, !f.fn.getLsbD 5, true, true, true, .vStx f.d f.a f.b f.k f.rep⟩
  | 2 => .ok ⟨false, .user, f.b == 0 && !f.fn.getLsbD 5 && f.k == 0 && f.rep == 0, f.d.ule 7, true, true, .vStk (f.d.setWidth 3) f.a⟩
  | 3 => .ok ⟨false, .user, !f.fn.getLsbD 5, true, true, true, .vSxadd f.d f.a f.b f.k f.rep⟩
  | 4 => .ok ⟨false, .user, !f.fn.getLsbD 5, true, true, true, .vSxmin f.d f.a f.b f.k f.rep⟩
  | 5 => .ok ⟨false, .user, !f.fn.getLsbD 5, true, true, true, .vSxmax f.d f.a f.b f.k f.rep⟩
  | _ => .error 0x04

/-- Major 0x16 of the index of forms (R59). -/
def decodeMajor16 (f : Fields) : Except Cause Form :=
  match (f.fn.extractLsb' 0 5).toNat with
  | 0 => .ok ⟨false, .user, f.d == 0 && !f.fn.getLsbD 5 && f.k == 0 && f.rep == 0, true, true, true, .vPf f.a f.b⟩
  | 1 => .ok ⟨false, .user, f.b == 0 && (!f.fn.getLsbD 5 || f.k != 0) && f.rep == 0, true, true, true, .vLdc f.d f.a f.k (f.fn.getLsbD 5)⟩
  | 2 => .ok ⟨false, .user, f.b == 0 && !f.fn.getLsbD 5 && f.rep == 0, true, true, true, .vStc f.d f.a f.k⟩
  | _ => .error 0x04

/-- Major 0x18 of the index of forms (R59). -/
def decodeMajor18 (f : Fields) : Except Cause Form :=
  match (f.fn.extractLsb' 0 5).toNat with
  | 0 => .ok ⟨false, .user, (!f.fn.getLsbD 5 || f.k != 0), true, true, true, .vAdd f.d f.a f.b f.k (f.fn.getLsbD 5) f.rep⟩
  | 1 => .ok ⟨false, .user, (!f.fn.getLsbD 5 || f.k != 0), true, true, true, .vSub f.d f.a f.b f.k (f.fn.getLsbD 5) f.rep⟩
  | 2 => .ok ⟨false, .user, (!f.fn.getLsbD 5 || f.k != 0), true, true, true, .vMul f.d f.a f.b f.k (f.fn.getLsbD 5) f.rep⟩
  | 3 => .ok ⟨false, .user, (!f.fn.getLsbD 5 || f.k != 0), true, true, true, .vMulh f.d f.a f.b f.k (f.fn.getLsbD 5) f.rep⟩
  | 4 => .ok ⟨false, .user, (!f.fn.getLsbD 5 || f.k != 0), true, true, true, .vMadd f.d f.a f.b f.k (f.fn.getLsbD 5) f.rep⟩
  | 5 => .ok ⟨false, .user, (!f.fn.getLsbD 5 || f.k != 0), true, true, true, .vMsub f.d f.a f.b f.k (f.fn.getLsbD 5) f.rep⟩
  | 6 => .ok ⟨false, .user, (!f.fn.getLsbD 5 || f.k != 0), true, true, true, .vMin f.d f.a f.b f.k (f.fn.getLsbD 5) f.rep⟩
  | 7 => .ok ⟨false, .user, (!f.fn.getLsbD 5 || f.k != 0), true, true, true, .vMax f.d f.a f.b f.k (f.fn.getLsbD 5) f.rep⟩
  | 8 => .ok ⟨false, .user, f.b == 0 && (!f.fn.getLsbD 5 || f.k != 0) && f.rep == 0, true, true, true, .vAbs f.d f.a f.k (f.fn.getLsbD 5)⟩
  | 9 => .ok ⟨false, .user, f.b == 0 && (!f.fn.getLsbD 5 || f.k != 0) && f.rep == 0, true, true, true, .vNeg f.d f.a f.k (f.fn.getLsbD 5)⟩
  | 10 => .ok ⟨false, .user, (!f.fn.getLsbD 5 || f.k != 0), true, true, true, .vClamp f.d f.a f.b f.k (f.fn.getLsbD 5) f.rep⟩
  | _ => .error 0x04

/-- Major 0x19 of the index of forms (R59). -/
def decodeMajor19 (f : Fields) : Except Cause Form :=
  match (f.fn.extractLsb' 0 5).toNat with
  | 0 => .ok ⟨false, .user, (!f.fn.getLsbD 5 || f.k != 0), true, true, true, .vAnd f.d f.a f.b f.k (f.fn.getLsbD 5) f.rep⟩
  | 1 => .ok ⟨false, .user, (!f.fn.getLsbD 5 || f.k != 0), true, true, true, .vOr f.d f.a f.b f.k (f.fn.getLsbD 5) f.rep⟩
  | 2 => .ok ⟨false, .user, (!f.fn.getLsbD 5 || f.k != 0), true, true, true, .vXor f.d f.a f.b f.k (f.fn.getLsbD 5) f.rep⟩
  | 3 => .ok ⟨false, .user, f.b == 0 && (!f.fn.getLsbD 5 || f.k != 0) && f.rep == 0, true, true, true, .vNot f.d f.a f.k (f.fn.getLsbD 5)⟩
  | 4 => .ok ⟨false, .user, (!f.fn.getLsbD 5 || f.k != 0), true, true, true, .vSll f.d f.a f.b f.k (f.fn.getLsbD 5) f.rep⟩
  | 5 => .ok ⟨false, .user, (!f.fn.getLsbD 5 || f.k != 0), true, true, true, .vSrl f.d f.a f.b f.k (f.fn.getLsbD 5) f.rep⟩
  | 6 => .ok ⟨false, .user, (!f.fn.getLsbD 5 || f.k != 0), true, true, true, .vSra f.d f.a f.b f.k (f.fn.getLsbD 5) f.rep⟩
  | _ => .error 0x04

/-- Major 0x1A of the index of forms (R59). -/
def decodeMajor1A (f : Fields) : Except Cause Form :=
  match (f.fn.extractLsb' 0 5).toNat with
  | 0 => .ok ⟨false, .user, (!f.fn.getLsbD 5 || f.k != 0), f.d.ule 7 && f.d != 0, true, true, .vCeq (f.d.setWidth 3) f.a f.b f.k (f.fn.getLsbD 5) f.rep⟩
  | 1 => .ok ⟨false, .user, (!f.fn.getLsbD 5 || f.k != 0), f.d.ule 7 && f.d != 0, true, true, .vCne (f.d.setWidth 3) f.a f.b f.k (f.fn.getLsbD 5) f.rep⟩
  | 2 => .ok ⟨false, .user, (!f.fn.getLsbD 5 || f.k != 0), f.d.ule 7 && f.d != 0, true, true, .vClt (f.d.setWidth 3) f.a f.b f.k (f.fn.getLsbD 5) f.rep⟩
  | 3 => .ok ⟨false, .user, (!f.fn.getLsbD 5 || f.k != 0), f.d.ule 7 && f.d != 0, true, true, .vCle (f.d.setWidth 3) f.a f.b f.k (f.fn.getLsbD 5) f.rep⟩
  | 4 => .ok ⟨false, .user, (!f.fn.getLsbD 5 || f.k != 0), f.d.ule 7 && f.d != 0, true, true, .vCun (f.d.setWidth 3) f.a f.b f.k (f.fn.getLsbD 5) f.rep⟩
  | _ => .error 0x04

/-- Major 0x1B of the index of forms (R59). -/
def decodeMajor1B (f : Fields) : Except Cause Form :=
  match (f.fn.extractLsb' 0 5).toNat with
  | 0 => .ok ⟨false, .user, f.b.ule 1 && (!f.fn.getLsbD 5 || f.k != 0) && f.rep == 0, true, true, true, .vCvt f.d f.a (f.b.getLsbD 0) f.k (f.fn.getLsbD 5)⟩
  | 1 => .ok ⟨false, .user, f.b.ule 1 && (!f.fn.getLsbD 5 || f.k != 0) && f.rep == 0, true, true, true, .vCvtz f.d f.a (f.b.getLsbD 0) f.k (f.fn.getLsbD 5)⟩
  | 2 => .ok ⟨false, .user, f.b.ule 1 && (!f.fn.getLsbD 5 || f.k != 0) && f.rep == 0, true, true, true, .vCvtp f.d f.a (f.b.getLsbD 0) f.k (f.fn.getLsbD 5)⟩
  | 3 => .ok ⟨false, .user, f.b.ule 1 && (!f.fn.getLsbD 5 || f.k != 0) && f.rep == 0, true, true, true, .vCvtm f.d f.a (f.b.getLsbD 0) f.k (f.fn.getLsbD 5)⟩
  | 4 => .ok ⟨false, .user, (!f.fn.getLsbD 5 || f.k != 0), true, true, true, .vCvts f.d f.a f.b f.k (f.fn.getLsbD 5) f.rep⟩
  | 5 => .ok ⟨false, .user, (!f.fn.getLsbD 5 || f.k != 0), true, true, true, .vWacc f.d f.a f.b f.k (f.fn.getLsbD 5) f.rep⟩
  | _ => .error 0x04

/-- Major 0x1C of the index of forms (R59). -/
def decodeMajor1C (f : Fields) : Except Cause Form :=
  match (f.fn.extractLsb' 0 5).toNat with
  | 0 => .ok ⟨false, .user, (!f.fn.getLsbD 5 || f.k != 0), true, true, true, .vPerm f.d f.a f.b f.k (f.fn.getLsbD 5) f.rep⟩
  | 1 => .ok ⟨false, .user, (!f.fn.getLsbD 5 || f.k != 0) && f.rep == 0, true, true, true, .vSlup f.d f.a f.b f.k (f.fn.getLsbD 5)⟩
  | 2 => .ok ⟨false, .user, (!f.fn.getLsbD 5 || f.k != 0) && f.rep == 0, true, true, true, .vSldn f.d f.a f.b f.k (f.fn.getLsbD 5)⟩
  | 3 => .ok ⟨false, .user, f.b == 0 && (!f.fn.getLsbD 5 || f.k != 0) && f.rep == 0, true, true, true, .vComp f.d f.a f.k (f.fn.getLsbD 5)⟩
  | 4 => .ok ⟨false, .user, f.b == 0 && (!f.fn.getLsbD 5 || f.k != 0) && f.rep == 0, true, true, true, .vExpd f.d f.a f.k (f.fn.getLsbD 5)⟩
  | 5 => .ok ⟨false, .user, !f.fn.getLsbD 5, true, true, true, .vMrg f.d f.a f.b f.k f.rep⟩
  | _ => .error 0x04

/-- Major 0x1D of the index of forms (R59). -/
def decodeMajor1D (f : Fields) : Except Cause Form :=
  match (f.fn.extractLsb' 0 5).toNat with
  | 0 => .ok ⟨false, .user, f.b == 0 && (!f.fn.getLsbD 5 || f.k != 0) && f.rep == 0, true, true, true, .vCdet f.d f.a f.k (f.fn.getLsbD 5)⟩
  | 1 => .ok ⟨false, .user, f.b == 0 && (!f.fn.getLsbD 5 || f.k != 0) && f.rep == 0, true, true, true, .vIota f.d f.a f.k (f.fn.getLsbD 5)⟩
  | 2 => .ok ⟨false, .user, f.b == 0 && (!f.fn.getLsbD 5 || f.k != 0) && f.rep == 0, true, true, true, .vSplat f.d f.a f.k (f.fn.getLsbD 5)⟩
  | 3 => .ok ⟨false, .user, !f.fn.getLsbD 5 && f.k == 0 && f.rep == 0, true, true, true, .vExtr f.d f.a f.b⟩
  | _ => .error 0x04

/-- Major 0x1E of the index of forms (R59). -/
def decodeMajor1E (f : Fields) : Except Cause Form :=
  match f.fn.toNat with
  | 0 => .ok ⟨false, .user, f.k == 0 && f.rep == 0, f.d.ule 7 && f.d != 0 && f.a.ule 7 && f.b.ule 7, true, true, .vKand (f.d.setWidth 3) (f.a.setWidth 3) (f.b.setWidth 3)⟩
  | 1 => .ok ⟨false, .user, f.k == 0 && f.rep == 0, f.d.ule 7 && f.d != 0 && f.a.ule 7 && f.b.ule 7, true, true, .vKor (f.d.setWidth 3) (f.a.setWidth 3) (f.b.setWidth 3)⟩
  | 2 => .ok ⟨false, .user, f.k == 0 && f.rep == 0, f.d.ule 7 && f.d != 0 && f.a.ule 7 && f.b.ule 7, true, true, .vKxor (f.d.setWidth 3) (f.a.setWidth 3) (f.b.setWidth 3)⟩
  | 3 => .ok ⟨false, .user, f.k == 0 && f.rep == 0, f.d.ule 7 && f.d != 0 && f.a.ule 7 && f.b.ule 7, true, true, .vKandn (f.d.setWidth 3) (f.a.setWidth 3) (f.b.setWidth 3)⟩
  | 4 => .ok ⟨false, .user, f.b == 0 && f.k == 0 && f.rep == 0, f.a.ule 7, true, true, .vKpop f.d (f.a.setWidth 3)⟩
  | 5 => .ok ⟨false, .user, f.b == 0 && f.k == 0 && f.rep == 0, f.a.ule 7, true, true, .vKfirst f.d (f.a.setWidth 3)⟩
  | _ => .error 0x04

/-- Major 0x1F of the index of forms (R59). -/
def decodeMajor1F (f : Fields) : Except Cause Form :=
  match (f.fn.extractLsb' 0 5).toNat with
  | 0 => .ok ⟨false, .user, f.b == 0 && !f.fn.getLsbD 5 && f.rep == 0, true, true, true, .vRsum f.d f.a f.k⟩
  | 1 => .ok ⟨false, .user, f.b == 0 && !f.fn.getLsbD 5 && f.rep == 0, true, true, true, .vRmax f.d f.a f.k⟩
  | 2 => .ok ⟨false, .user, f.b == 0 && !f.fn.getLsbD 5 && f.rep == 0, true, true, true, .vRmin f.d f.a f.k⟩
  | 3 => .ok ⟨false, .user, f.b == 0 && !f.fn.getLsbD 5 && f.rep == 0, true, true, true, .vRall f.d f.a f.k⟩
  | 4 => .ok ⟨false, .user, f.b == 0 && !f.fn.getLsbD 5 && f.rep == 0, true, true, true, .vRany f.d f.a f.k⟩
  | 5 => .ok ⟨false, .user, f.b == 0 && !f.fn.getLsbD 5 && f.rep == 0, true, true, true, .vRxor f.d f.a f.k⟩
  | _ => .error 0x04

/-- Major 0x20 of the index of forms (R59). -/
def decodeMajor20 (f : Fields) : Except Cause Form :=
  match (f.fn.extractLsb' 0 5).toNat with
  | 0 => .ok ⟨false, .user, f.b == 0 && (!f.fn.getLsbD 5 || f.k != 0) && f.rep == 0, true, true, true, .vPsum f.d f.a f.k (f.fn.getLsbD 5)⟩
  | 1 => .ok ⟨false, .user, f.b == 0 && (!f.fn.getLsbD 5 || f.k != 0) && f.rep == 0, true, true, true, .vPmax f.d f.a f.k (f.fn.getLsbD 5)⟩
  | 2 => .ok ⟨false, .user, f.b == 0 && (!f.fn.getLsbD 5 || f.k != 0) && f.rep == 0, true, true, true, .vPmin f.d f.a f.k (f.fn.getLsbD 5)⟩
  | _ => .error 0x04

/-- Major 0x21 of the index of forms (R59). -/
def decodeMajor21 (f : Fields) : Except Cause Form :=
  match (f.fn.extractLsb' 0 5).toNat with
  | 0 => .ok ⟨false, .user, (!f.fn.getLsbD 5 || f.k != 0) && f.rep == 0, true, true, !f.b.getLsbD 0, .vRng f.d f.a f.b f.k (f.fn.getLsbD 5)⟩
  | 1 => .ok ⟨false, .user, (!f.fn.getLsbD 5 || f.k != 0) && f.rep == 0, true, true, !f.b.getLsbD 0, .vRngf f.d f.a f.b f.k (f.fn.getLsbD 5)⟩
  | _ => .error 0x04

/-- Major 0x24 of the index of forms (R59). -/
def decodeMajor24 (f : Fields) : Except Cause Form :=
  match (f.fn.extractLsb' 0 5).toNat with
  | 0 => .ok ⟨false, .user, (!f.fn.getLsbD 5 || f.k != 0) && f.rep == 0, true, true, !f.d.getLsbD 0, .rotC f.d f.a f.b f.k (f.fn.getLsbD 5)⟩
  | 1 => .ok ⟨false, .user, (!f.fn.getLsbD 5 || f.k != 0) && f.rep == 0, true, true, !f.d.getLsbD 0, .rotCg f.d f.a f.b f.k (f.fn.getLsbD 5)⟩
  | 2 => .ok ⟨false, .user, (!f.fn.getLsbD 5 || f.k != 0) && f.rep == 0, true, true, !f.d.getLsbD 0, .axisC f.d f.a f.b f.k (f.fn.getLsbD 5)⟩
  | 3 => .ok ⟨false, .user, (!f.fn.getLsbD 5 || f.k != 0) && f.rep == 0, true, true, !f.d.getLsbD 0, .axisCg f.d f.a f.b f.k (f.fn.getLsbD 5)⟩
  | 4 => .ok ⟨false, .user, f.a == 0 && (!f.fn.getLsbD 5 || f.k != 0) && f.rep == 0, true, true, !f.d.getLsbD 0, .gainC f.d f.b f.k (f.fn.getLsbD 5)⟩
  | _ => .error 0x04

/-- Major 0x25 of the index of forms (R59). -/
def decodeMajor25 (f : Fields) : Except Cause Form :=
  match (f.fn.extractLsb' 0 5).toNat with
  | 0 => .ok ⟨false, .user, (!f.fn.getLsbD 5 || f.k != 0) && f.rep == 0, true, true, !f.d.getLsbD 0, .rotH f.d f.a f.b f.k (f.fn.getLsbD 5)⟩
  | 1 => .ok ⟨false, .user, (!f.fn.getLsbD 5 || f.k != 0) && f.rep == 0, true, true, !f.d.getLsbD 0, .rotHg f.d f.a f.b f.k (f.fn.getLsbD 5)⟩
  | 2 => .ok ⟨false, .user, (!f.fn.getLsbD 5 || f.k != 0) && f.rep == 0, true, true, !f.d.getLsbD 0, .axisH f.d f.a f.b f.k (f.fn.getLsbD 5)⟩
  | 3 => .ok ⟨false, .user, (!f.fn.getLsbD 5 || f.k != 0) && f.rep == 0, true, true, !f.d.getLsbD 0, .axisHg f.d f.a f.b f.k (f.fn.getLsbD 5)⟩
  | 4 => .ok ⟨false, .user, f.a == 0 && (!f.fn.getLsbD 5 || f.k != 0) && f.rep == 0, true, true, !f.d.getLsbD 0, .gainH f.d f.b f.k (f.fn.getLsbD 5)⟩
  | _ => .error 0x04

/-- Major 0x26 of the index of forms (R59). -/
def decodeMajor26 (f : Fields) : Except Cause Form :=
  match (f.fn.extractLsb' 0 5).toNat with
  | 0 => .ok ⟨false, .user, (!f.fn.getLsbD 5 || f.k != 0) && f.rep == 0, true, true, !f.d.getLsbD 0, .rotL f.d f.a f.b f.k (f.fn.getLsbD 5)⟩
  | 1 => .ok ⟨false, .user, (!f.fn.getLsbD 5 || f.k != 0) && f.rep == 0, true, true, !f.d.getLsbD 0, .axisL f.d f.a f.b f.k (f.fn.getLsbD 5)⟩
  | _ => .error 0x04

/-- Major 0x27 of the index of forms (R59). -/
def decodeMajor27 (f : Fields) : Except Cause Form :=
  match (f.fn.extractLsb' 0 5).toNat with
  | 0 => .ok ⟨false, .user, f.b == 0 && (!f.fn.getLsbD 5 || f.k != 0) && f.rep == 0, true, true, !f.d.getLsbD 0, .rotFold f.d f.a f.k (f.fn.getLsbD 5)⟩
  | 1 => .ok ⟨false, .user, f.b == 0 && (!f.fn.getLsbD 5 || f.k != 0) && f.rep == 0, true, true, !f.d.getLsbD 0, .rotUnfold f.d f.a f.k (f.fn.getLsbD 5)⟩
  | _ => .error 0x04

/-- Major 0x28 of the index of forms (R59). -/
def decodeMajor28 (f : Fields) : Except Cause Form :=
  match f.fn.toNat with
  | 0 => .ok ⟨false, .user, f.k == 0 && f.rep == 0, f.d.ule 7, f.a.ule 6 && 1 <= f.a.toNat && f.b.ule 6 && 1 <= f.b.toNat, true, .mmShape (f.d.setWidth 3) (f.a.setWidth 3) (f.b.setWidth 3)⟩
  | 1 => .ok ⟨false, .user, f.b == 0 && f.rep == 0, f.d.ule 7 && f.a.ule 7, true, true, .mmMov (f.d.setWidth 3) (f.a.setWidth 3) f.k⟩
  | 2 => .ok ⟨false, .user, f.rep == 0, f.a.ule 7, true, true, .mmExt f.d (f.a.setWidth 3) f.b f.k⟩
  | 3 => .ok ⟨false, .user, f.rep == 0, f.d.ule 7, true, true, .mmIns (f.d.setWidth 3) f.a f.b f.k⟩
  | _ => .error 0x04

/-- Major 0x29 of the index of forms (R59). -/
def decodeMajor29 (f : Fields) : Except Cause Form :=
  match f.fn.toNat with
  | 0 => .ok ⟨false, .user, f.rep == 0, f.d.ule 7, true, true, .mmLd (f.d.setWidth 3) f.a f.b f.k⟩
  | 1 => .ok ⟨false, .user, f.rep == 0, f.d.ule 7, true, true, .mmSt (f.d.setWidth 3) f.a f.b f.k⟩
  | _ => .error 0x04

/-- Major 0x2A of the index of forms (R59). -/
def decodeMajor2A (f : Fields) : Except Cause Form :=
  match f.fn.toNat with
  | 0 => .ok ⟨false, .user, f.rep == 0, f.d.ule 7 && f.a.ule 7 && f.b.ule 7, true, true, .mmMul (f.d.setWidth 3) (f.a.setWidth 3) (f.b.setWidth 3) f.k⟩
  | 1 => .ok ⟨false, .user, f.rep == 0, f.d.ule 7 && f.a.ule 7 && f.b.ule 7, true, true, .mmMadd (f.d.setWidth 3) (f.a.setWidth 3) (f.b.setWidth 3) f.k⟩
  | 2 => .ok ⟨false, .user, f.rep == 0, f.d.ule 7 && f.a.ule 7 && f.b.ule 7, true, true, .mmMsub (f.d.setWidth 3) (f.a.setWidth 3) (f.b.setWidth 3) f.k⟩
  | 3 => .ok ⟨false, .user, f.b == 0 && f.rep == 0, f.d.ule 7 && f.a.ule 7, true, true, .mmTrn (f.d.setWidth 3) (f.a.setWidth 3) f.k⟩
  | _ => .error 0x04

/-- Major 0x2B of the index of forms (R59). -/
def decodeMajor2B (f : Fields) : Except Cause Form :=
  match f.fn.toNat with
  | 0 => .ok ⟨false, .user, f.b == 0 && f.rep == 0, f.d.ule 7 && f.a.ule 7, true, true, .mmChol (f.d.setWidth 3) (f.a.setWidth 3) f.k⟩
  | 1 => .ok ⟨false, .user, f.b == 0 && f.rep == 0, f.d.ule 7 && f.a.ule 7, true, true, .mmLu (f.d.setWidth 3) (f.a.setWidth 3) f.k⟩
  | 2 => .ok ⟨false, .user, f.rep == 0, f.d.ule 7 && f.a.ule 7 && f.b.ule 7, true, true, .mmTrsl (f.d.setWidth 3) (f.a.setWidth 3) (f.b.setWidth 3) f.k⟩
  | 3 => .ok ⟨false, .user, f.rep == 0, f.d.ule 7 && f.a.ule 7 && f.b.ule 7, true, true, .mmTrsu (f.d.setWidth 3) (f.a.setWidth 3) (f.b.setWidth 3) f.k⟩
  | 4 => .ok ⟨false, .user, f.rep == 0, f.d.ule 7 && f.a.ule 7 && f.b.ule 7, true, true, .mmSolve (f.d.setWidth 3) (f.a.setWidth 3) (f.b.setWidth 3) f.k⟩
  | 5 => .ok ⟨false, .user, f.b == 0 && f.rep == 0, f.a.ule 7, true, !f.d.getLsbD 0, .mmDet f.d (f.a.setWidth 3) f.k⟩
  | _ => .error 0x04

/-- Major 0x2C of the index of forms (R59). -/
def decodeMajor2C (f : Fields) : Except Cause Form :=
  match f.fn.toNat with
  | 0 => .ok ⟨false, .user, f.b == 0 && f.k == 0 && f.rep == 0, true, true, true, .tlShape f.d f.a⟩
  | 1 => .ok ⟨false, .user, f.k == 0 && f.rep == 0, f.d.ule 15, true, true, .tlDesc (f.d.setWidth 4) f.a f.b⟩
  | 2 => .ok ⟨false, .user, f.d == 0 && f.k == 0 && f.rep == 0, true, true, true, .tlPrec f.a f.b⟩
  | 3 => .ok ⟨false, .user, f.a == 0 && f.b == 0 && f.k == 0 && f.rep == 0, f.d.ule 1, true, true, .tlZero (f.d.setWidth 1)⟩
  | 4 => .ok ⟨false, .supervisor, f.k == 0 && f.rep == 0, f.a.ule 1, true, true, .tlAcc f.d (f.a.setWidth 1) f.b⟩
  | _ => .error 0x04

/-- Major 0x2D of the index of forms (R59). -/
def decodeMajor2D (f : Fields) : Except Cause Form :=
  match f.wfn.toNat with
  | 0 => if (f.op &&& 14) == 0 then
        .ok ⟨false, .user, true, f.d.ule 15, f.port == 0, f.b.extractLsb' 0 2 == 0, .tlLdp (f.d.setWidth 4) f.a f.b f.op⟩
      else .error 0x0D
  | 1 => if f.op == 0 then
        .ok ⟨false, .user, true, f.d.ule 15, f.port == 0, f.b.extractLsb' 0 2 == 0, .tlStp (f.d.setWidth 4) f.a f.b⟩
      else .error 0x0D
  | 2 => if f.op == 0 then
        .ok ⟨false, .user, f.b == 0, f.d.ule 15, f.port.ule 2, true, .tlBcast (f.d.setWidth 4) f.a f.port⟩
      else .error 0x0D
  | 3 => if (f.op &&& 4) == 0 then
        .ok ⟨false, .user, true, f.d.ule 15, f.port.ule 7, true, .tlLdsc (f.d.setWidth 4) f.a f.b f.op f.port⟩
      else .error 0x0D
  | _ => .error 0x04

/-- Major 0x2E of the index of forms (R59). -/
def decodeMajor2E (f : Fields) : Except Cause Form :=
  match f.fn.toNat with
  | 0 => .ok ⟨false, .user, f.k == 0 && f.rep == 0, f.d.ule 1 && f.a.ule 15 && f.b.ule 15, true, true, .tlMma (f.d.setWidth 1) (f.a.setWidth 4) (f.b.setWidth 4)⟩
  | 1 => .ok ⟨false, .user, f.k == 0 && f.rep == 0, f.d.ule 1 && f.a.ule 15 && f.b.ule 15, true, true, .tlMmz (f.d.setWidth 1) (f.a.setWidth 4) (f.b.setWidth 4)⟩
  | 2 => .ok ⟨false, .user, f.k == 0 && f.rep == 0, f.d.ule 1 && f.a.ule 15 && f.b.ule 15, true, true, .tlMms (f.d.setWidth 1) (f.a.setWidth 4) (f.b.setWidth 4)⟩
  | _ => .error 0x04

/-- Major 0x2F of the index of forms (R59). -/
def decodeMajor2F (f : Fields) : Except Cause Form :=
  match (f.fn.extractLsb' 0 5).toNat with
  | 0 => .ok ⟨false, .user, (!f.fn.getLsbD 5 || f.k != 0) && f.rep == 0, f.a.ule 1, true, true, .tlExt f.d (f.a.setWidth 1) f.b f.k (f.fn.getLsbD 5)⟩
  | 1 => .ok ⟨false, .user, (!f.fn.getLsbD 5 || f.k != 0) && f.rep == 0, f.a.ule 1, true, true, .tlExtr f.d (f.a.setWidth 1) f.b f.k (f.fn.getLsbD 5)⟩
  | _ => .error 0x04

/-- Major 0x30 of the index of forms (R59). -/
def decodeMajor30 (f : Fields) : Except Cause Form :=
  match f.wfn.toNat with
  | 0 => .ok ⟨false, .user, (f.port.ule 7 || !f.port.ule 11 || f.d == 0), true, true, f.b.extractLsb' 0 2 == 0, .xsLd f.d f.a f.b f.op f.port⟩
  | 1 => if (f.op &&& 1) == 0 then
        .ok ⟨false, .user, (f.port.ule 7 || !f.port.ule 11 || f.d == 0), true, (f.port.ule 7 || !f.port.ule 11), f.b.extractLsb' 0 2 == 0, .xsSt f.d f.a f.b f.op f.port⟩
      else .error 0x0D
  | 2 => if (f.op &&& 5) == 0 then
        .ok ⟨false, .user, (f.port.ule 7 || !f.port.ule 11 || f.d == 0), true, true, f.b.extractLsb' 0 2 == 0, .xsGth f.d f.a f.b f.op f.port⟩
      else .error 0x0D
  | 3 => if (f.op &&& 5) == 0 then
        .ok ⟨false, .user, (f.port.ule 7 || !f.port.ule 11 || f.d == 0), true, (f.port.ule 7 || !f.port.ule 11), f.b.extractLsb' 0 2 == 0, .xsSct f.d f.a f.b f.op f.port⟩
      else .error 0x0D
  | 4 => if (f.op &&& 1) == 0 then
        .ok ⟨false, .user, (f.port.ule 7 || !f.port.ule 11 || f.d == 0), f.a.ule 7, f.port != f.a.setWidth 4, f.b.extractLsb' 0 2 == 0, .xsCp f.d (f.a.setWidth 3) f.b f.op f.port⟩
      else .error 0x0D
  | _ => .error 0x04

/-- Major 0x31 of the index of forms (R59). -/
def decodeMajor31 (f : Fields) : Except Cause Form :=
  match f.fn.toNat with
  | 0 => .ok ⟨false, .user, f.d == 0 && f.k == 0 && f.rep == 0, true, f.a.ule 15, true, .xsWait (f.a.setWidth 4) f.b⟩
  | 1 => .ok ⟨false, .user, f.b == 0 && f.k == 0 && f.rep == 0, true, f.a.ule 15, true, .xsCnt f.d (f.a.setWidth 4)⟩
  | 2 => .ok ⟨false, .user, f.b == 0 && f.k == 0 && f.rep == 0, f.a.ule 7, true, true, .xsWm f.d (f.a.setWidth 3)⟩
  | 3 => .ok ⟨false, .user, f.d == 0 && f.k == 0 && f.rep == 0, true, f.a.ule 15, true, .xsRst (f.a.setWidth 4) f.b⟩
  | 4 => .ok ⟨false, .user, f.b == 0 && f.k == 0 && f.rep == 0, true, f.a.ule 15, true, .xsCsum f.d (f.a.setWidth 4)⟩
  | _ => .error 0x04

/-- Major 0x32 of the index of forms (R59). -/
def decodeMajor32 (f : Fields) : Except Cause Form :=
  match f.fn.toNat with
  | 0 => .ok ⟨false, .user, f.k == 0 && f.rep == 0, f.d.ule 7, true, true, .cbCfg (f.d.setWidth 3) f.a f.b⟩
  | 1 => .ok ⟨false, .user, f.k == 0 && f.rep == 0, f.a.ule 7, true, true, .cbAcq f.d (f.a.setWidth 3) f.b⟩
  | 2 => .ok ⟨false, .user, f.d == 0 && f.k == 0 && f.rep == 0, f.a.ule 7, true, true, .cbRel (f.a.setWidth 3) f.b⟩
  | 3 => .ok ⟨false, .user, f.b == 0 && f.k == 0 && f.rep == 0, f.a.ule 7, true, true, .cbStat f.d (f.a.setWidth 3)⟩
  | _ => .error 0x04

/-- Major 0x34 of the index of forms (R59). -/
def decodeMajor34 (f : Fields) : Except Cause Form :=
  match f.wfn.toNat with
  | 0 => if (f.op &&& 14) == 0 then
        .ok ⟨false, .user, true, true, f.port.ule 7, true, .plDec f.d f.a f.b f.op f.port⟩
      else .error 0x0D
  | 1 => if (f.op &&& 14) == 0 then
        .ok ⟨false, .user, true, true, f.port.ule 7, true, .plIsect f.d f.a f.b f.op f.port⟩
      else .error 0x0D
  | 2 => if (f.op &&& 14) == 0 then
        .ok ⟨false, .user, true, true, f.port.ule 7, true, .plUnite f.d f.a f.b f.op f.port⟩
      else .error 0x0D
  | 3 => if f.op == 0 then
        .ok ⟨false, .user, true, true, f.port.ule 7, true, .plBm25 f.d f.a f.b f.port⟩
      else .error 0x0D
  | 4 => if f.op == 0 then
        .ok ⟨false, .user, true, true, f.port.ule 7, !f.b.getLsbD 0, .plFuse f.d f.a f.b f.port⟩
      else .error 0x0D
  | 5 => if f.op == 0 then
        .ok ⟨false, .user, true, true, f.port.ule 7, true, .plTopk f.d f.a f.b f.port⟩
      else .error 0x0D
  | _ => .error 0x04

/-- Major 0x35 of the index of forms (R59). -/
def decodeMajor35 (f : Fields) : Except Cause Form :=
  match f.fn.toNat with
  | 0 => .ok ⟨false, .user, f.d == 0 && f.k == 0 && f.rep == 0, true, f.b.ule 2, true, .plPrm f.a (f.b.setWidth 2)⟩
  | 1 => .ok ⟨false, .user, f.d == 0 && f.k == 0 && f.rep == 0, true, true, true, .plQry f.a f.b⟩
  | 2 => .ok ⟨false, .user, f.d == 0 && f.a == 0 && f.b == 0 && f.k == 0 && f.rep == 0, true, true, true, .plWait⟩
  | 3 => .ok ⟨false, .user, f.a == 0 && f.b == 0 && f.k == 0 && f.rep == 0, true, true, true, .plStat f.d⟩
  | 4 => .ok ⟨false, .user, f.d == 0 && f.b == 0 && f.k == 0 && f.rep == 0, true, true, true, .plClr f.a⟩
  | 5 => .ok ⟨false, .user, f.d == 0 && f.a == 0 && f.b == 0 && f.k == 0 && f.rep == 0, true, true, true, .plAbort⟩
  | _ => .error 0x04

/-- Major 0x36 of the index of forms (R59). -/
def decodeMajor36 (f : Fields) : Except Cause Form :=
  match f.fn.toNat with
  | 0 => .ok ⟨false, .user, f.d == 0 && f.rep == 0, true, true, true, .rsvOpen f.a f.b f.k⟩
  | 1 => .ok ⟨false, .user, f.rep == 0, true, f.d.ule 6, true, .rsvClaim (f.d.setWidth 3) f.a f.b f.k⟩
  | 2 => .ok ⟨false, .user, f.a == 0 && f.b == 0 && f.k == 0 && f.rep == 0, f.d.ule 7 && f.d != 0, true, true, .rsvWave (f.d.setWidth 3)⟩
  | 3 => .ok ⟨false, .user, f.d == 0 && f.a == 0 && f.b == 0 && f.rep == 0, true, true, true, .rsvRetire f.k⟩
  | 4 => .ok ⟨false, .user, f.a == 0 && f.b == 0 && f.k == 0 && f.rep == 0, true, true, true, .rsvStat f.d⟩
  | 5 => .ok ⟨false, .user, f.d == 0 && f.a == 0 && f.b == 0 && f.k == 0 && f.rep == 0, true, true, true, .rsvClose⟩
  | _ => .error 0x04

/-- Major 0x37 of the index of forms (R59). -/
def decodeMajor37 (f : Fields) : Except Cause Form :=
  match f.fn.toNat with
  | 0 => .ok ⟨true, .user, f.k == 0 && f.rep == 0, true, true, true, .amoAdd f.d f.a f.b⟩
  | 1 => .ok ⟨true, .user, f.k == 0 && f.rep == 0, true, true, true, .amoMin f.d f.a f.b⟩
  | 2 => .ok ⟨true, .user, f.k == 0 && f.rep == 0, true, true, true, .amoMax f.d f.a f.b⟩
  | 3 => .ok ⟨true, .user, f.k == 0 && f.rep == 0, true, true, true, .amoAnd f.d f.a f.b⟩
  | 4 => .ok ⟨true, .user, f.k == 0 && f.rep == 0, true, true, true, .amoOr f.d f.a f.b⟩
  | 5 => .ok ⟨true, .user, f.k == 0 && f.rep == 0, true, true, true, .amoXor f.d f.a f.b⟩
  | 6 => .ok ⟨true, .user, f.k == 0 && f.rep == 0, true, true, true, .amoSwap f.d f.a f.b⟩
  | 7 => .ok ⟨true, .user, f.k == 0 && f.rep == 0, true, true, true, .amoCas f.d f.a f.b⟩
  | 8 => .ok ⟨true, .user, f.k == 0 && f.rep == 0, true, true, true, .amoFadd f.d f.a f.b⟩
  | _ => .error 0x04

/-- Major 0x38 of the index of forms (R59). -/
def decodeMajor38 (f : Fields) : Except Cause Form :=
  match f.fn.toNat with
  | 0 => .ok ⟨false, .user, f.b == 0 && f.k == 0 && f.rep == 0, f.d.ule 15, true, true, .gbInit (f.d.setWidth 4) f.a⟩
  | 1 => .ok ⟨false, .user, f.b == 0 && f.k == 0 && f.rep == 0, f.a.ule 15, true, true, .gbArr f.d (f.a.setWidth 4)⟩
  | 2 => .ok ⟨false, .user, f.d == 0 && f.k == 0 && f.rep == 0, f.a.ule 15, true, true, .gbWait (f.a.setWidth 4) f.b⟩
  | 3 => .ok ⟨true, .user, f.d == 0 && f.a == 0 && f.k == 0 && f.rep == 0, true, f.b.ule 5, true, .fenceRel (f.b.setWidth 3)⟩
  | 4 => .ok ⟨true, .user, f.d == 0 && f.a == 0 && f.k == 0 && f.rep == 0, true, f.b.ule 5, true, .fenceAcq (f.b.setWidth 3)⟩
  | 5 => .ok ⟨true, .user, f.d == 0 && f.a == 0 && f.k == 0 && f.rep == 0, true, f.b.ule 5, true, .fenceAr (f.b.setWidth 3)⟩
  | _ => .error 0x04

/-- Major 0x39 of the index of forms (R59). -/
def decodeMajor39 (f : Fields) : Except Cause Form :=
  match f.fn.toNat with
  | 0 => .ok ⟨true, .user, f.a == 0 && f.b == 0 && f.k == 0 && f.rep == 0, true, true, true, .detStep f.d⟩
  | 1 => .ok ⟨true, .user, f.a == 0 && f.b == 0 && f.k == 0 && f.rep == 0, true, true, true, .detLog f.d⟩
  | 2 => .ok ⟨true, .user, f.k == 0 && f.rep == 0, true, true, true, .claimEl f.d f.a f.b⟩
  | _ => .error 0x04

/-- Major 0x3A of the index of forms (R59). -/
def decodeMajor3A (f : Fields) : Except Cause Form :=
  match f.fn.toNat with
  | 0 => .ok ⟨false, .user, f.d == 0 && f.k == 0 && f.rep == 0, true, true, true, .taskSpawn f.a f.b⟩
  | 1 => .ok ⟨false, .user, f.d == 0 && f.a == 0 && f.b == 0 && f.k == 0 && f.rep == 0, true, true, true, .taskExit⟩
  | 2 => .ok ⟨false, .user, f.b == 0 && f.k == 0 && f.rep == 0, true, true, true, .taskJoin f.d f.a⟩
  | 3 => .ok ⟨false, .user, f.d == 0 && f.k == 0 && f.rep == 0, true, true, true, .taskNotify f.a f.b⟩
  | _ => .error 0x04

/-- Major 0x3B of the index of forms (R59). -/
def decodeMajor3B (f : Fields) : Except Cause Form :=
  match f.fn.toNat with
  | 0 => .ok ⟨false, .user, f.d == 0 && f.b == 0 && f.rep == 0, true, true, true, .vpRun f.a f.k⟩
  | 1 => .ok ⟨false, .user, f.d == 0 && f.b == 0 && f.rep == 0, true, true, true, .vpBr f.a f.k⟩
  | 2 => .ok ⟨false, .user, f.d == 0 && f.a == 0 && f.b == 0 && f.k == 0 && f.rep == 0, true, true, true, .vpJoin⟩
  | 3 => .ok ⟨false, .user, f.d == 0 && f.a == 0 && f.b == 0 && f.rep == 0, true, true, true, .vpStop f.k⟩
  | 4 => .ok ⟨false, .user, f.a == 0 && f.b == 0 && f.rep == 0, true, true, true, .vpId f.d f.k⟩
  | 5 => .ok ⟨false, .user, f.a == 0 && f.b == 0 && f.rep == 0, true, true, true, .vpAny f.d f.k⟩
  | _ => .error 0x04

/-- Major 0x3C of the index of forms (R59). -/
def decodeMajor3C (f : Fields) : Except Cause Form :=
  match f.fn.toNat with
  | 0 => .ok ⟨true, .rd (f.rep ++ f.b) f.a, f.k == 0, true, sregAssigned (f.rep ++ f.b) f.a, true, .sysRd f.d f.a (f.rep ++ f.b)⟩
  | 1 => .ok ⟨true, .wr (f.rep ++ f.b) f.d, f.k == 0, true, sregAssigned (f.rep ++ f.b) f.d, true, .sysWr f.d f.a (f.rep ++ f.b)⟩
  | 2 => .ok ⟨true, .wr (f.rep ++ f.b) f.d, f.k == 0, true, sregAssigned (f.rep ++ f.b) f.d, true, .sysSet f.d f.a (f.rep ++ f.b)⟩
  | 3 => .ok ⟨true, .wr (f.rep ++ f.b) f.d, f.k == 0, true, sregAssigned (f.rep ++ f.b) f.d, true, .sysClr f.d f.a (f.rep ++ f.b)⟩
  | 4 => .ok ⟨true, .user, f.d == 0 && f.k == 0 && f.rep == 0, true, f.b.ule 15, true, .sysCall f.a (f.b.setWidth 4)⟩
  | 5 => .ok ⟨true, .supervisor, f.d == 0 && f.a == 0 && f.b == 0 && f.k == 0 && f.rep == 0, true, true, true, .sysRet⟩
  | 6 => .ok ⟨true, .user, f.d == 0 && f.k == 0 && f.rep == 0, true, f.b.ule 15, true, .sysBrk f.a (f.b.setWidth 4)⟩
  | 7 => .ok ⟨true, .user, f.d == 0 && f.a == 0 && f.b == 0 && f.k == 0 && f.rep == 0, true, true, true, .sysWfi⟩
  | _ => .error 0x04

/-- Major 0x3D of the index of forms (R59). -/
def decodeMajor3D (f : Fields) : Except Cause Form :=
  match f.fn.toNat with
  | 0 => .ok ⟨true, .user, f.d == 0 && f.a == 0 && f.b == 0 && f.k == 0 && f.rep == 0, true, true, true, .sysIfence⟩
  | 1 => .ok ⟨true, .supervisor, f.d == 0 && f.k == 0 && f.rep == 0, true, true, true, .sysTinval f.a f.b⟩
  | 2 => .ok ⟨true, .machine, f.d == 0 && f.a == 0 && f.b == 0 && f.k == 0 && f.rep == 0, true, true, true, .sysHalt⟩
  | 3 => .ok ⟨true, .user, f.a == 0 && f.b == 0 && f.k == 0 && f.rep == 0, true, true, true, .sysId f.d⟩
  | _ => .error 0x04

/-- R62 steps 1 and 2: the form that a word names, or cause 0x01 to 0x04 or 0x0D. Majors as R59 allots them. -/
def formOf (f : Fields) : Except Cause Form :=
  match f.major.toNat with
  | 0 => .error (if f == Fields.zero then 0x01 else 0x02)
  | 1 => decodeMajor01 f
  | 2 => decodeMajor02 f
  | 3 => decodeMajor03 f
  | 4 => decodeMajor04 f
  | 5 => decodeMajor05 f
  | 6 => decodeMajor06 f
  | 7 => decodeMajor07 f
  | 8 => decodeMajor08 f
  | 9 => decodeMajor09 f
  | 10 => decodeMajor0A f
  | 11 => decodeMajor0B f
  | 12 => decodeMajor0C f
  | 13 => decodeMajor0D f
  | 14 => decodeMajor0E f
  | 15 => decodeMajor0F f
  | 16 => decodeMajor10 f
  | 17 => decodeMajor11 f
  | 18 => decodeMajor12 f
  | 19 => decodeMajor13 f
  | 20 => decodeMajor14 f
  | 21 => decodeMajor15 f
  | 22 => decodeMajor16 f
  | 24 => decodeMajor18 f
  | 25 => decodeMajor19 f
  | 26 => decodeMajor1A f
  | 27 => decodeMajor1B f
  | 28 => decodeMajor1C f
  | 29 => decodeMajor1D f
  | 30 => decodeMajor1E f
  | 31 => decodeMajor1F f
  | 32 => decodeMajor20 f
  | 33 => decodeMajor21 f
  | 36 => decodeMajor24 f
  | 37 => decodeMajor25 f
  | 38 => decodeMajor26 f
  | 39 => decodeMajor27 f
  | 40 => decodeMajor28 f
  | 41 => decodeMajor29 f
  | 42 => decodeMajor2A f
  | 43 => decodeMajor2B f
  | 44 => decodeMajor2C f
  | 45 => decodeMajor2D f
  | 46 => decodeMajor2E f
  | 47 => decodeMajor2F f
  | 48 => decodeMajor30 f
  | 49 => decodeMajor31 f
  | 50 => decodeMajor32 f
  | 52 => decodeMajor34 f
  | 53 => decodeMajor35 f
  | 54 => decodeMajor36 f
  | 55 => decodeMajor37 f
  | 56 => decodeMajor38 f
  | 57 => decodeMajor39 f
  | 58 => decodeMajor3A f
  | 59 => decodeMajor3B f
  | 60 => decodeMajor3C f
  | 61 => decodeMajor3D f
  | 63 => .error 0x03
  | _ => .error 0x02

/-- Decoding a word: the instruction, or the cause of the first check of R62 that fails among those that depend on the
word alone (steps 1, 2 and 5 to 8). -/
def decode (w : BitVec 32) : Except Cause Instr :=
  match formOf (fieldsOf w) with
  | .error c => .error c
  | .ok m =>
    match m.staticCause with
    | some c => .error c
    | none => .ok m.instr

/-- An I word (R48). -/
def Fields.ofI (major : BitVec 6) (imm : BitVec 16) (a d : BitVec 5) : Fields :=
  ⟨imm.extractLsb' 10 6, imm.extractLsb' 8 2, imm.extractLsb' 5 3, imm.extractLsb' 0 5, a, d, major⟩

/-- A B word (R48). -/
def Fields.ofB (major : BitVec 6) (off : BitVec 16) (b a : BitVec 5) : Fields :=
  ⟨off.extractLsb' 10 6, off.extractLsb' 8 2, off.extractLsb' 5 3, b, a, off.extractLsb' 0 5, major⟩

/-- A J or U word (R48). -/
def Fields.ofJ (major : BitVec 6) (imm : BitVec 21) (d : BitVec 5) : Fields :=
  ⟨imm.extractLsb' 15 6, imm.extractLsb' 13 2, imm.extractLsb' 10 3, imm.extractLsb' 5 5, imm.extractLsb' 0 5, d, major⟩

/-- A W word (R48): function, port, op. -/
def Fields.ofW (major : BitVec 6) (fn : BitVec 3) (port op : BitVec 4) (b a d : BitVec 5) : Fields :=
  ⟨fn ++ port.extractLsb' 1 3, port.extractLsb' 0 1 ++ op.extractLsb' 3 1, op.extractLsb' 0 3, b, a, d, major⟩

/-- A word of the shift-immediate major 0x07 (R51). -/
def Fields.ofShift (fn : BitVec 2) (n : BitVec 6) (a d : BitVec 5) : Fields :=
  ⟨0, 0, fn ++ n.extractLsb' 5 1, n.extractLsb' 0 5, a, d, 0x07⟩

/-- A vcfg word (R57): tag [4:0], F [9:5] and group [11:10] of imm16. -/
def Fields.ofVcfg (tag frac : BitVec 5) (grp : BitVec 2) (d : BitVec 5) : Fields :=
  ⟨0#4 ++ grp, frac.extractLsb' 3 2, frac.extractLsb' 0 3, tag, 0, d, 0x10⟩

/-- The fields of the word of an encoded form, written from R48 and R59; none for an event. -/
def encodeFields : Instr → Option Fields
  | .add d a b => some (⟨0, 0, 0, b, a, d, 0x01⟩)
  | .sub d a b => some (⟨1, 0, 0, b, a, d, 0x01⟩)
  | .and d a b => some (⟨2, 0, 0, b, a, d, 0x01⟩)
  | .or d a b => some (⟨3, 0, 0, b, a, d, 0x01⟩)
  | .xor d a b => some (⟨4, 0, 0, b, a, d, 0x01⟩)
  | .sll d a b => some (⟨5, 0, 0, b, a, d, 0x01⟩)
  | .srl d a b => some (⟨6, 0, 0, b, a, d, 0x01⟩)
  | .sra d a b => some (⟨7, 0, 0, b, a, d, 0x01⟩)
  | .slt d a b => some (⟨8, 0, 0, b, a, d, 0x01⟩)
  | .sltu d a b => some (⟨9, 0, 0, b, a, d, 0x01⟩)
  | .min d a b => some (⟨10, 0, 0, b, a, d, 0x01⟩)
  | .max d a b => some (⟨11, 0, 0, b, a, d, 0x01⟩)
  | .minu d a b => some (⟨12, 0, 0, b, a, d, 0x01⟩)
  | .maxu d a b => some (⟨13, 0, 0, b, a, d, 0x01⟩)
  | .clz d a => some (⟨14, 0, 0, 0, a, d, 0x01⟩)
  | .popc d a => some (⟨15, 0, 0, 0, a, d, 0x01⟩)
  | .mul d a b => some (⟨16, 0, 0, b, a, d, 0x01⟩)
  | .mulh d a b => some (⟨17, 0, 0, b, a, d, 0x01⟩)
  | .mulhu d a b => some (⟨18, 0, 0, b, a, d, 0x01⟩)
  | .div d a b => some (⟨19, 0, 0, b, a, d, 0x01⟩)
  | .divu d a b => some (⟨20, 0, 0, b, a, d, 0x01⟩)
  | .rem d a b => some (⟨21, 0, 0, b, a, d, 0x01⟩)
  | .remu d a b => some (⟨22, 0, 0, b, a, d, 0x01⟩)
  | .ldxB d a b => some (⟨0, 0, 0, b, a, d, 0x02⟩)
  | .ldxBu d a b => some (⟨1, 0, 0, b, a, d, 0x02⟩)
  | .ldxH d a b => some (⟨2, 0, 0, b, a, d, 0x02⟩)
  | .ldxHu d a b => some (⟨3, 0, 0, b, a, d, 0x02⟩)
  | .ldxW d a b => some (⟨4, 0, 0, b, a, d, 0x02⟩)
  | .ldxWu d a b => some (⟨5, 0, 0, b, a, d, 0x02⟩)
  | .ldxD d a b => some (⟨6, 0, 0, b, a, d, 0x02⟩)
  | .stxB d a b => some (⟨8, 0, 0, b, a, d, 0x02⟩)
  | .stxH d a b => some (⟨9, 0, 0, b, a, d, 0x02⟩)
  | .stxW d a b => some (⟨10, 0, 0, b, a, d, 0x02⟩)
  | .stxD d a b => some (⟨11, 0, 0, b, a, d, 0x02⟩)
  | .blkCap d a b => some (⟨16, 0, 0, b, a, d.setWidth 5, 0x02⟩)
  | .blkRun a b => some (⟨17, 0, 0, b, a, 0, 0x02⟩)
  | .blkBrk d => some (⟨18, 0, 0, 0, 0, d, 0x02⟩)
  | .addi d a imm => some (Fields.ofI 0x03 imm a d)
  | .andi d a imm => some (Fields.ofI 0x04 imm a d)
  | .ori d a imm => some (Fields.ofI 0x05 imm a d)
  | .xori d a imm => some (Fields.ofI 0x06 imm a d)
  | .slli d a n => some (Fields.ofShift 0 n a d)
  | .srli d a n => some (Fields.ofShift 1 n a d)
  | .srai d a n => some (Fields.ofShift 2 n a d)
  | .lui d imm => some (Fields.ofJ 0x08 imm d)
  | .auipc d imm => some (Fields.ofJ 0x09 imm d)
  | .jal d imm => some (Fields.ofJ 0x0A imm d)
  | .jalr d a imm => some (Fields.ofI 0x0B imm a d)
  | .ldD d a imm => some (Fields.ofI 0x0C imm a d)
  | .stD d a imm => some (Fields.ofI 0x0D imm a d)
  | .beq a b off => some (Fields.ofB 0x0E off b a)
  | .bne a b off => some (Fields.ofB 0x0F off b a)
  | .vcfg d tag frac grp => some (Fields.ofVcfg tag frac grp d)
  | .vsetvl d a b => some (⟨0, 0, 0, b, a, d, 0x11⟩)
  | .vprof d a => some (⟨1, 0, 0, 0, a, d, 0x11⟩)
  | .vmfc d a => some (⟨2, 0, 0, 0, a, d, 0x11⟩)
  | .vlq d a => some (⟨3, 0, 0, 0, a, d, 0x11⟩)
  | .vspill a b => some (⟨4, 0, 0, b, a, 0, 0x11⟩)
  | .vfill d b => some (⟨5, 0, 0, b, 0, d, 0x11⟩)
  | .vLd d a imm => some (Fields.ofI 0x12 imm a d)
  | .vSt d a imm => some (Fields.ofI 0x13 imm a d)
  | .vLds d a b k z => some (⟨(if z then 32 else 0), 0, k, b, a, d, 0x14⟩)
  | .vLdx d a b k z r => some (⟨(if z then 33 else 1), r, k, b, a, d, 0x14⟩)
  | .vLdb d a k z => some (⟨(if z then 34 else 2), 0, k, 0, a, d, 0x14⟩)
  | .vLdk d a => some (⟨3, 0, 0, 0, a, d.setWidth 5, 0x14⟩)
  | .vLdq d a k z => some (⟨(if z then 36 else 4), 0, k, 0, a, d, 0x14⟩)
  | .vLdff d a b k z => some (⟨(if z then 37 else 5), 0, k, b, a, d, 0x14⟩)
  | .vSts d a b k => some (⟨0, 0, k, b, a, d, 0x15⟩)
  | .vStx d a b k r => some (⟨1, r, k, b, a, d, 0x15⟩)
  | .vStk d a => some (⟨2, 0, 0, 0, a, d.setWidth 5, 0x15⟩)
  | .vSxadd d a b k r => some (⟨3, r, k, b, a, d, 0x15⟩)
  | .vSxmin d a b k r => some (⟨4, r, k, b, a, d, 0x15⟩)
  | .vSxmax d a b k r => some (⟨5, r, k, b, a, d, 0x15⟩)
  | .vPf a b => some (⟨0, 0, 0, b, a, 0, 0x16⟩)
  | .vLdc d a k z => some (⟨(if z then 33 else 1), 0, k, 0, a, d, 0x16⟩)
  | .vStc d a k => some (⟨2, 0, k, 0, a, d, 0x16⟩)
  | .vAdd d a b k z r => some (⟨(if z then 32 else 0), r, k, b, a, d, 0x18⟩)
  | .vSub d a b k z r => some (⟨(if z then 33 else 1), r, k, b, a, d, 0x18⟩)
  | .vMul d a b k z r => some (⟨(if z then 34 else 2), r, k, b, a, d, 0x18⟩)
  | .vMulh d a b k z r => some (⟨(if z then 35 else 3), r, k, b, a, d, 0x18⟩)
  | .vMadd d a b k z r => some (⟨(if z then 36 else 4), r, k, b, a, d, 0x18⟩)
  | .vMsub d a b k z r => some (⟨(if z then 37 else 5), r, k, b, a, d, 0x18⟩)
  | .vMin d a b k z r => some (⟨(if z then 38 else 6), r, k, b, a, d, 0x18⟩)
  | .vMax d a b k z r => some (⟨(if z then 39 else 7), r, k, b, a, d, 0x18⟩)
  | .vAbs d a k z => some (⟨(if z then 40 else 8), 0, k, 0, a, d, 0x18⟩)
  | .vNeg d a k z => some (⟨(if z then 41 else 9), 0, k, 0, a, d, 0x18⟩)
  | .vClamp d a b k z r => some (⟨(if z then 42 else 10), r, k, b, a, d, 0x18⟩)
  | .vAnd d a b k z r => some (⟨(if z then 32 else 0), r, k, b, a, d, 0x19⟩)
  | .vOr d a b k z r => some (⟨(if z then 33 else 1), r, k, b, a, d, 0x19⟩)
  | .vXor d a b k z r => some (⟨(if z then 34 else 2), r, k, b, a, d, 0x19⟩)
  | .vNot d a k z => some (⟨(if z then 35 else 3), 0, k, 0, a, d, 0x19⟩)
  | .vSll d a b k z r => some (⟨(if z then 36 else 4), r, k, b, a, d, 0x19⟩)
  | .vSrl d a b k z r => some (⟨(if z then 37 else 5), r, k, b, a, d, 0x19⟩)
  | .vSra d a b k z r => some (⟨(if z then 38 else 6), r, k, b, a, d, 0x19⟩)
  | .vCeq d a b k z r => some (⟨(if z then 32 else 0), r, k, b, a, d.setWidth 5, 0x1A⟩)
  | .vCne d a b k z r => some (⟨(if z then 33 else 1), r, k, b, a, d.setWidth 5, 0x1A⟩)
  | .vClt d a b k z r => some (⟨(if z then 34 else 2), r, k, b, a, d.setWidth 5, 0x1A⟩)
  | .vCle d a b k z r => some (⟨(if z then 35 else 3), r, k, b, a, d.setWidth 5, 0x1A⟩)
  | .vCun d a b k z r => some (⟨(if z then 36 else 4), r, k, b, a, d.setWidth 5, 0x1A⟩)
  | .vCvt d a sat k z => some (⟨(if z then 32 else 0), 0, k, (if sat then 1 else 0), a, d, 0x1B⟩)
  | .vCvtz d a sat k z => some (⟨(if z then 33 else 1), 0, k, (if sat then 1 else 0), a, d, 0x1B⟩)
  | .vCvtp d a sat k z => some (⟨(if z then 34 else 2), 0, k, (if sat then 1 else 0), a, d, 0x1B⟩)
  | .vCvtm d a sat k z => some (⟨(if z then 35 else 3), 0, k, (if sat then 1 else 0), a, d, 0x1B⟩)
  | .vCvts d a b k z r => some (⟨(if z then 36 else 4), r, k, b, a, d, 0x1B⟩)
  | .vWacc d a b k z r => some (⟨(if z then 37 else 5), r, k, b, a, d, 0x1B⟩)
  | .vPerm d a b k z r => some (⟨(if z then 32 else 0), r, k, b, a, d, 0x1C⟩)
  | .vSlup d a b k z => some (⟨(if z then 33 else 1), 0, k, b, a, d, 0x1C⟩)
  | .vSldn d a b k z => some (⟨(if z then 34 else 2), 0, k, b, a, d, 0x1C⟩)
  | .vComp d a k z => some (⟨(if z then 35 else 3), 0, k, 0, a, d, 0x1C⟩)
  | .vExpd d a k z => some (⟨(if z then 36 else 4), 0, k, 0, a, d, 0x1C⟩)
  | .vMrg d a b k r => some (⟨5, r, k, b, a, d, 0x1C⟩)
  | .vCdet d a k z => some (⟨(if z then 32 else 0), 0, k, 0, a, d, 0x1D⟩)
  | .vIota d a k z => some (⟨(if z then 33 else 1), 0, k, 0, a, d, 0x1D⟩)
  | .vSplat d a k z => some (⟨(if z then 34 else 2), 0, k, 0, a, d, 0x1D⟩)
  | .vExtr d a b => some (⟨3, 0, 0, b, a, d, 0x1D⟩)
  | .vKand d a b => some (⟨0, 0, 0, b.setWidth 5, a.setWidth 5, d.setWidth 5, 0x1E⟩)
  | .vKor d a b => some (⟨1, 0, 0, b.setWidth 5, a.setWidth 5, d.setWidth 5, 0x1E⟩)
  | .vKxor d a b => some (⟨2, 0, 0, b.setWidth 5, a.setWidth 5, d.setWidth 5, 0x1E⟩)
  | .vKandn d a b => some (⟨3, 0, 0, b.setWidth 5, a.setWidth 5, d.setWidth 5, 0x1E⟩)
  | .vKpop d a => some (⟨4, 0, 0, 0, a.setWidth 5, d, 0x1E⟩)
  | .vKfirst d a => some (⟨5, 0, 0, 0, a.setWidth 5, d, 0x1E⟩)
  | .vRsum d a k => some (⟨0, 0, k, 0, a, d, 0x1F⟩)
  | .vRmax d a k => some (⟨1, 0, k, 0, a, d, 0x1F⟩)
  | .vRmin d a k => some (⟨2, 0, k, 0, a, d, 0x1F⟩)
  | .vRall d a k => some (⟨3, 0, k, 0, a, d, 0x1F⟩)
  | .vRany d a k => some (⟨4, 0, k, 0, a, d, 0x1F⟩)
  | .vRxor d a k => some (⟨5, 0, k, 0, a, d, 0x1F⟩)
  | .vPsum d a k z => some (⟨(if z then 32 else 0), 0, k, 0, a, d, 0x20⟩)
  | .vPmax d a k z => some (⟨(if z then 33 else 1), 0, k, 0, a, d, 0x20⟩)
  | .vPmin d a k z => some (⟨(if z then 34 else 2), 0, k, 0, a, d, 0x20⟩)
  | .vRng d a b k z => some (⟨(if z then 32 else 0), 0, k, b, a, d, 0x21⟩)
  | .vRngf d a b k z => some (⟨(if z then 33 else 1), 0, k, b, a, d, 0x21⟩)
  | .rotC d a b k z => some (⟨(if z then 32 else 0), 0, k, b, a, d, 0x24⟩)
  | .rotCg d a b k z => some (⟨(if z then 33 else 1), 0, k, b, a, d, 0x24⟩)
  | .axisC d a b k z => some (⟨(if z then 34 else 2), 0, k, b, a, d, 0x24⟩)
  | .axisCg d a b k z => some (⟨(if z then 35 else 3), 0, k, b, a, d, 0x24⟩)
  | .gainC d b k z => some (⟨(if z then 36 else 4), 0, k, b, 0, d, 0x24⟩)
  | .rotH d a b k z => some (⟨(if z then 32 else 0), 0, k, b, a, d, 0x25⟩)
  | .rotHg d a b k z => some (⟨(if z then 33 else 1), 0, k, b, a, d, 0x25⟩)
  | .axisH d a b k z => some (⟨(if z then 34 else 2), 0, k, b, a, d, 0x25⟩)
  | .axisHg d a b k z => some (⟨(if z then 35 else 3), 0, k, b, a, d, 0x25⟩)
  | .gainH d b k z => some (⟨(if z then 36 else 4), 0, k, b, 0, d, 0x25⟩)
  | .rotL d a b k z => some (⟨(if z then 32 else 0), 0, k, b, a, d, 0x26⟩)
  | .axisL d a b k z => some (⟨(if z then 33 else 1), 0, k, b, a, d, 0x26⟩)
  | .rotFold d a k z => some (⟨(if z then 32 else 0), 0, k, 0, a, d, 0x27⟩)
  | .rotUnfold d a k z => some (⟨(if z then 33 else 1), 0, k, 0, a, d, 0x27⟩)
  | .mmShape d a b => some (⟨0, 0, 0, b.setWidth 5, a.setWidth 5, d.setWidth 5, 0x28⟩)
  | .mmMov d a k => some (⟨1, 0, k, 0, a.setWidth 5, d.setWidth 5, 0x28⟩)
  | .mmExt d a b k => some (⟨2, 0, k, b, a.setWidth 5, d, 0x28⟩)
  | .mmIns d a b k => some (⟨3, 0, k, b, a, d.setWidth 5, 0x28⟩)
  | .mmLd d a b k => some (⟨0, 0, k, b, a, d.setWidth 5, 0x29⟩)
  | .mmSt d a b k => some (⟨1, 0, k, b, a, d.setWidth 5, 0x29⟩)
  | .mmMul d a b k => some (⟨0, 0, k, b.setWidth 5, a.setWidth 5, d.setWidth 5, 0x2A⟩)
  | .mmMadd d a b k => some (⟨1, 0, k, b.setWidth 5, a.setWidth 5, d.setWidth 5, 0x2A⟩)
  | .mmMsub d a b k => some (⟨2, 0, k, b.setWidth 5, a.setWidth 5, d.setWidth 5, 0x2A⟩)
  | .mmTrn d a k => some (⟨3, 0, k, 0, a.setWidth 5, d.setWidth 5, 0x2A⟩)
  | .mmChol d a k => some (⟨0, 0, k, 0, a.setWidth 5, d.setWidth 5, 0x2B⟩)
  | .mmLu d a k => some (⟨1, 0, k, 0, a.setWidth 5, d.setWidth 5, 0x2B⟩)
  | .mmTrsl d a b k => some (⟨2, 0, k, b.setWidth 5, a.setWidth 5, d.setWidth 5, 0x2B⟩)
  | .mmTrsu d a b k => some (⟨3, 0, k, b.setWidth 5, a.setWidth 5, d.setWidth 5, 0x2B⟩)
  | .mmSolve d a b k => some (⟨4, 0, k, b.setWidth 5, a.setWidth 5, d.setWidth 5, 0x2B⟩)
  | .mmDet d a k => some (⟨5, 0, k, 0, a.setWidth 5, d, 0x2B⟩)
  | .tlShape d a => some (⟨0, 0, 0, 0, a, d, 0x2C⟩)
  | .tlDesc d a b => some (⟨1, 0, 0, b, a, d.setWidth 5, 0x2C⟩)
  | .tlPrec a b => some (⟨2, 0, 0, b, a, 0, 0x2C⟩)
  | .tlZero d => some (⟨3, 0, 0, 0, 0, d.setWidth 5, 0x2C⟩)
  | .tlAcc d a b => some (⟨4, 0, 0, b, a.setWidth 5, d, 0x2C⟩)
  | .tlLdp d a b op => some (Fields.ofW 0x2D 0 0 op b a (d.setWidth 5))
  | .tlStp d a b => some (Fields.ofW 0x2D 1 0 0 b a (d.setWidth 5))
  | .tlBcast d a p => some (Fields.ofW 0x2D 2 p 0 0 a (d.setWidth 5))
  | .tlLdsc d a b op p => some (Fields.ofW 0x2D 3 p op b a (d.setWidth 5))
  | .tlMma d a b => some (⟨0, 0, 0, b.setWidth 5, a.setWidth 5, d.setWidth 5, 0x2E⟩)
  | .tlMmz d a b => some (⟨1, 0, 0, b.setWidth 5, a.setWidth 5, d.setWidth 5, 0x2E⟩)
  | .tlMms d a b => some (⟨2, 0, 0, b.setWidth 5, a.setWidth 5, d.setWidth 5, 0x2E⟩)
  | .tlExt d a b k z => some (⟨(if z then 32 else 0), 0, k, b, a.setWidth 5, d, 0x2F⟩)
  | .tlExtr d a b k z => some (⟨(if z then 33 else 1), 0, k, b, a.setWidth 5, d, 0x2F⟩)
  | .xsLd d a b op p => some (Fields.ofW 0x30 0 p op b a d)
  | .xsSt d a b op p => some (Fields.ofW 0x30 1 p op b a d)
  | .xsGth d a b op p => some (Fields.ofW 0x30 2 p op b a d)
  | .xsSct d a b op p => some (Fields.ofW 0x30 3 p op b a d)
  | .xsCp d a b op p => some (Fields.ofW 0x30 4 p op b (a.setWidth 5) d)
  | .xsWait a b => some (⟨0, 0, 0, b, a.setWidth 5, 0, 0x31⟩)
  | .xsCnt d a => some (⟨1, 0, 0, 0, a.setWidth 5, d, 0x31⟩)
  | .xsWm d a => some (⟨2, 0, 0, 0, a.setWidth 5, d, 0x31⟩)
  | .xsRst a b => some (⟨3, 0, 0, b, a.setWidth 5, 0, 0x31⟩)
  | .xsCsum d a => some (⟨4, 0, 0, 0, a.setWidth 5, d, 0x31⟩)
  | .cbCfg d a b => some (⟨0, 0, 0, b, a, d.setWidth 5, 0x32⟩)
  | .cbAcq d a b => some (⟨1, 0, 0, b, a.setWidth 5, d, 0x32⟩)
  | .cbRel a b => some (⟨2, 0, 0, b, a.setWidth 5, 0, 0x32⟩)
  | .cbStat d a => some (⟨3, 0, 0, 0, a.setWidth 5, d, 0x32⟩)
  | .plDec d a b op p => some (Fields.ofW 0x34 0 p op b a d)
  | .plIsect d a b op p => some (Fields.ofW 0x34 1 p op b a d)
  | .plUnite d a b op p => some (Fields.ofW 0x34 2 p op b a d)
  | .plBm25 d a b p => some (Fields.ofW 0x34 3 p 0 b a d)
  | .plFuse d a b p => some (Fields.ofW 0x34 4 p 0 b a d)
  | .plTopk d a b p => some (Fields.ofW 0x34 5 p 0 b a d)
  | .plPrm a b => some (⟨0, 0, 0, b.setWidth 5, a, 0, 0x35⟩)
  | .plQry a b => some (⟨1, 0, 0, b, a, 0, 0x35⟩)
  | .plStat d => some (⟨3, 0, 0, 0, 0, d, 0x35⟩)
  | .plClr a => some (⟨4, 0, 0, 0, a, 0, 0x35⟩)
  | .rsvOpen a b k => some (⟨0, 0, k, b, a, 0, 0x36⟩)
  | .rsvClaim d a b k => some (⟨1, 0, k, b, a, d.setWidth 5, 0x36⟩)
  | .rsvWave d => some (⟨2, 0, 0, 0, 0, d.setWidth 5, 0x36⟩)
  | .rsvRetire k => some (⟨3, 0, k, 0, 0, 0, 0x36⟩)
  | .rsvStat d => some (⟨4, 0, 0, 0, 0, d, 0x36⟩)
  | .amoAdd d a b => some (⟨0, 0, 0, b, a, d, 0x37⟩)
  | .amoMin d a b => some (⟨1, 0, 0, b, a, d, 0x37⟩)
  | .amoMax d a b => some (⟨2, 0, 0, b, a, d, 0x37⟩)
  | .amoAnd d a b => some (⟨3, 0, 0, b, a, d, 0x37⟩)
  | .amoOr d a b => some (⟨4, 0, 0, b, a, d, 0x37⟩)
  | .amoXor d a b => some (⟨5, 0, 0, b, a, d, 0x37⟩)
  | .amoSwap d a b => some (⟨6, 0, 0, b, a, d, 0x37⟩)
  | .amoCas d a b => some (⟨7, 0, 0, b, a, d, 0x37⟩)
  | .amoFadd d a b => some (⟨8, 0, 0, b, a, d, 0x37⟩)
  | .gbInit d a => some (⟨0, 0, 0, 0, a, d.setWidth 5, 0x38⟩)
  | .gbArr d a => some (⟨1, 0, 0, 0, a.setWidth 5, d, 0x38⟩)
  | .gbWait a b => some (⟨2, 0, 0, b, a.setWidth 5, 0, 0x38⟩)
  | .fenceRel b => some (⟨3, 0, 0, b.setWidth 5, 0, 0, 0x38⟩)
  | .fenceAcq b => some (⟨4, 0, 0, b.setWidth 5, 0, 0, 0x38⟩)
  | .fenceAr b => some (⟨5, 0, 0, b.setWidth 5, 0, 0, 0x38⟩)
  | .detStep d => some (⟨0, 0, 0, 0, 0, d, 0x39⟩)
  | .detLog d => some (⟨1, 0, 0, 0, 0, d, 0x39⟩)
  | .claimEl d a b => some (⟨2, 0, 0, b, a, d, 0x39⟩)
  | .taskSpawn a b => some (⟨0, 0, 0, b, a, 0, 0x3A⟩)
  | .taskJoin d a => some (⟨2, 0, 0, 0, a, d, 0x3A⟩)
  | .taskNotify a b => some (⟨3, 0, 0, b, a, 0, 0x3A⟩)
  | .vpRun a k => some (⟨0, 0, k, 0, a, 0, 0x3B⟩)
  | .vpBr a k => some (⟨1, 0, k, 0, a, 0, 0x3B⟩)
  | .vpStop k => some (⟨3, 0, k, 0, 0, 0, 0x3B⟩)
  | .vpId d k => some (⟨4, 0, k, 0, 0, d, 0x3B⟩)
  | .vpAny d k => some (⟨5, 0, k, 0, 0, d, 0x3B⟩)
  | .sysRd d a n => some (⟨0, n.extractLsb' 5 2, 0, n.extractLsb' 0 5, a, d, 0x3C⟩)
  | .sysWr d a n => some (⟨1, n.extractLsb' 5 2, 0, n.extractLsb' 0 5, a, d, 0x3C⟩)
  | .sysSet d a n => some (⟨2, n.extractLsb' 5 2, 0, n.extractLsb' 0 5, a, d, 0x3C⟩)
  | .sysClr d a n => some (⟨3, n.extractLsb' 5 2, 0, n.extractLsb' 0 5, a, d, 0x3C⟩)
  | .sysCall a b => some (⟨4, 0, 0, b.setWidth 5, a, 0, 0x3C⟩)
  | .sysBrk a b => some (⟨6, 0, 0, b.setWidth 5, a, 0, 0x3C⟩)
  | .sysTinval a b => some (⟨1, 0, 0, b, a, 0, 0x3D⟩)
  | .sysId d => some (⟨3, 0, 0, 0, 0, d, 0x3D⟩)
  | .illegalInstruction _ => none
  | .plWait => some (⟨2, 0, 0, 0, 0, 0, 0x35⟩)
  | .plAbort => some (⟨5, 0, 0, 0, 0, 0, 0x35⟩)
  | .rsvClose => some (⟨5, 0, 0, 0, 0, 0, 0x36⟩)
  | .taskExit => some (⟨1, 0, 0, 0, 0, 0, 0x3A⟩)
  | .vpJoin => some (⟨2, 0, 0, 0, 0, 0, 0x3B⟩)
  | .sysRet => some (⟨5, 0, 0, 0, 0, 0, 0x3C⟩)
  | .sysWfi => some (⟨7, 0, 0, 0, 0, 0, 0x3C⟩)
  | .sysIfence => some (⟨0, 0, 0, 0, 0, 0, 0x3D⟩)
  | .sysHalt => some (⟨2, 0, 0, 0, 0, 0, 0x3D⟩)
  | .xuGroupComplete => none
  | .watermarkRelease => none
  | .dauStallRelease => none
  | .xsWaitComplete => none
  | .streamStart => none
  | .streamElementComplete => none
  | .remoteArrival => none
  | .cbAcqGrant => none
  | .sloeCommandStart => none
  | .sloeChunkComplete => none
  | .sloeBatchComplete => none
  | .plWaitComplete => none
  | .tileFormExecute => none
  | .tileKStepComplete => none
  | .tileLineComplete => none
  | .tlBcastMeet => none
  | .rsvRendezvous => none
  | .gbWaitRelease => none
  | .fenceComplete => none
  | .detStepResolve => none
  | .taskSpawnPush => none
  | .wfiWake => none
  | .dispatch => none
  | .gangPreempt => none
  | .eventTake => none
  | .qctlMap => none
  | .qctlDrain => none
  | .qctlAbort => none
  | .queueDrainComplete => none
  | .queueAbortComplete => none
  | .hostDoorbell => none
  | .hostEvtpost => none
  | .hostMemRead => none
  | .hostMemWrite => none
  | .peerWriteIn => none
  | .spaesSendEntry => none
  | .spaesEntryComplete => none
  | .spownWrite => none
  | .controlInterval => none
  | .currentLimitTrip => none
  | .currentLimitRepeat => none
  | .currantTokenVisit => none
  | .equotaExhaust => none
  | .quotaRefill => none
  | .tygenCapSet => none
  | .tygenReadback => none
  | .clpQuiesce => none
  | .clpGate => none
  | .clpWake => none
  | .clpOpen => none
  | .clpQuiesced => none
  | .clpGated => none
  | .clpAwake => none
  | .svcIsolate => none
  | .svcRecalibrate => none
  | .svcLoadMicrocode => none
  | .svcReturn => none
  | .svcDone => none
  | .qrelRelease => none
  | .qrelComplete => none
  | .ckptTake => none
  | .ckptTakeComplete => none
  | .ckptRestore => none
  | .ckptRestoreComplete => none
  | .ckptInvalidate => none
  | .dieReset => none
  | .dieRelease => none
  | .firmwareInitComplete => none
  | .mainPowerLoss => none
  | .auxPowerLoss => none
  | .coldStart => none
  | .patrolScrub => none
  | .controlRegisterWrite => none
  | .mainPowerReturn => none
  | .firmwareCoreRestart => none
  | .softError => none

/-- The word of an encoded form; none for an event, which has no word. -/
def encode (i : Instr) : Option (BitVec 32) := (encodeFields i).map Fields.word

/-- The row is an event of the device: a step with no instruction word (R58). -/
def Instr.isEvent (i : Instr) : Bool := (encodeFields i).isNone

/-- The word of an instruction as 32 bits; 0 for an event. -/
def Instr.word32 (i : Instr) : BitVec 32 := (encode i).getD 0

/-- The word that TVAL receives for an instruction (R63): its encoding, zero for an event. -/
def Instr.wordOf (i : Instr) : BitVec 64 := ((encode i).getD 0).setWidth 64

/-- The instruction read from bits numbered as the opcode table numbers them: one 32-bit word (R46). -/
def decodeTableWord (nbits w : Nat) : Option Instr :=
  if nbits = 32 then (decode (BitVec.ofNat 32 w)).toOption else none

end Sys2Proof
end

