-- ==== Sys2Proof/Machine/Mem.lean ====
section
/-! DEFINITION. Physical memory: a list of cells in one canonical form, and the physical map of R96. -/

namespace Sys2Proof.Machine

/-- What a byte that nothing has written reads as (log 1). -/
def unlisted : Byte := 0

/-- Reads one byte. -/
def Memory.get : List Host.Cell → Nat → Byte
  | [], _ => unlisted
  | (x, b) :: r, a => if x = a then b else if a < x then unlisted else Memory.get r a

/-- Writes one byte, keeping the canonical form. -/
def Memory.set : List Host.Cell → Nat → Byte → List Host.Cell
  | [], a, b => if b = unlisted then [] else [(a, b)]
  | (x, c) :: r, a, b =>
    if a < x then (if b = unlisted then (x, c) :: r else (a, b) :: (x, c) :: r)
    else if a = x then (if b = unlisted then r else (a, b) :: r)
    else (x, c) :: Memory.set r a b

/-- Every address of the list lies above a bound, addresses rise, and no cell holds the unlisted value. -/
def Memory.wfAbove : Nat → List Host.Cell → Bool
  | _, [] => true
  | lo, (x, b) :: r => decide (lo ≤ x) && (b != unlisted) && Memory.wfAbove (x + 1) r

/-- The canonical form: addresses strictly rising, no cell equal to what an unlisted address reads as. -/
def Memory.wf (m : List Host.Cell) : Bool := Memory.wfAbove 0 m

/-- The n bytes from address a. -/
def Memory.read (m : List Host.Cell) (a : Nat) : Nat → List Byte
  | 0 => []
  | n + 1 => Memory.get m a :: Memory.read m (a + 1) n

/-- Writes bytes from address a up. -/
def Memory.write (m : List Host.Cell) (a : Nat) : List Byte → List Host.Cell
  | [] => m
  | b :: r => Memory.write (Memory.set m a b) (a + 1) r

/-- Drops every cell of [lo, hi): the range reads as unlisted. -/
def Memory.clear (m : List Host.Cell) (lo hi : Nat) : List Host.Cell :=
  m.filter (fun c => decide (c.1 < lo) || decide (hi ≤ c.1))

/-- The cells of [lo, hi). -/
def Memory.slice (m : List Host.Cell) (lo hi : Nat) : List Host.Cell :=
  m.filter (fun c => decide (lo ≤ c.1) && decide (c.1 < hi))

/-- Writes listed cells at an offset (to − from), over a range cleared first. -/
def Memory.copy (m : List Host.Cell) (src len dst : Nat) : List Host.Cell :=
  (Memory.slice m src (src + len)).foldl (fun t c => Memory.set t (c.1 - src + dst) c.2) (Memory.clear m dst (dst + len))

/-- The kinds of storage of R96. -/
inductive Region where
  | device
  | tier
  | checkpoint
  | shared (die : Nat)
  | scratch (core : Nat)
  | control
  | host
  | none
  deriving DecidableEq, Repr

/-- The storage that a physical address names (R96). -/
def regionOf (pa : Nat) : Region :=
  if pa < 0x00C000000000 then .device
  else if pa < 0x100000000000 then .none
  else if pa < 0x103E80000000 then .tier
  else if pa < 0x140000000000 then .checkpoint
  else if pa < 0x200000000000 then .none
  else if pa < 0x200020000000 then
    (if (pa - 0x200000000000) % 0x08000000 < 0x05000000 then .shared ((pa - 0x200000000000) / 0x08000000) else .none)
  else if pa < 0x210000000000 then .none
  else if pa < 0x210020000000 then .scratch ((pa - 0x210000000000) / 0x200000)
  else if pa < 0x300000000000 then .none
  else if pa < 0x300100000000 then .control
  else if pa < 0x8000000000000 then .none
  else if pa < 0x10000000000000 then .host
  else .none

/-- Physical address of the scratchpad of a core (R96). -/
def scratchBase (core : Nat) : Nat := 0x210000000000 + core * 0x200000

/-- The range may be reached below machine level (R96). -/
def Region.open : Region → Bool
  | .none | .checkpoint | .control => false
  | _ => true

/-- Storage in which a page table may lie (R100, R103). -/
def Region.holdsTables : Region → Bool
  | .device | .tier => true
  | _ => false

/-- The 64 KiB frame of an address (R118). -/
def frameOf (pa : Nat) : Nat := pa / 65536

/-- The cause of an uncorrectable error there (R118). -/
def eccCause (pa : Nat) : BitVec 8 :=
  match regionOf pa with
  | .device => 0xC1
  | .tier | .checkpoint => 0xC2
  | _ => 0xC3

/-- The ECC granule of an address: eight bytes, as R127 gives it for device memory and the second tier; that every other
tier has the same granule is the model's choice (log 82). -/
def granuleOf (pa : Nat) : Nat := pa / 8

end Sys2Proof.Machine
end

