-- ==== Sys2Proof/Machine/Xlat.lean ====
section
/-! DEFINITION. Addresses: canonical form, the page walk, the translation caches and the checks of a leaf (R99–R111). -/

namespace Sys2Proof.Machine

/-- The kinds of access, with the code XLINFO.KIND gives them (R114); lread and lwrite are the vector accesses of tile
lines and of task.spawn, which no session covers (R271, R317, R375). -/
inductive AccKind where
  | fetch | sread | swrite | vread | vwrite | atomic | xread | xwrite | lread | lwrite
  deriving DecidableEq, Repr

/-- XLINFO.KIND (R114). -/
def AccKind.code : AccKind → BitVec 4
  | .fetch => 0 | .sread => 1 | .swrite => 2 | .vread | .lread => 3 | .vwrite | .lwrite => 4 | .atomic => 5 | .xread => 6
  | .xwrite => 7

/-- The access stores (an atomic reads and stores). -/
def AccKind.writes : AccKind → Bool
  | .swrite | .vwrite | .atomic | .xwrite | .lwrite => true
  | _ => false

/-- The access reads data. -/
def AccKind.reads : AccKind → Bool
  | .sread | .vread | .atomic | .xread | .lread => true
  | _ => false

/-- A memory fault (R114): cause, address, KIND, LEVEL, the byte of an uncorrectable error whose frame is quarantined
(R118), and the address for which a walk has read entries, whose correctable errors are repaired (R116). -/
structure MemFault where
  cause : BitVec 8
  va : Word
  kind : BitVec 4
  level : BitVec 4
  bad : Option Nat
  walked : Option Nat := none
  deriving DecidableEq, Repr

/-- The fault is found before any data is read: causes 0x20 to 0x2A (R112, R207). -/
def MemFault.early (f : MemFault) : Bool := decide (0x20 ≤ f.cause.toNat) && decide (f.cause.toNat ≤ 0x2A)

/-- A translation: the physical address, the leaf that maps it (none with translation off), and the cache entry that a
walk has made. -/
structure Xl where
  pa : Nat
  leaf : Option Word
  entry : Option TlbEntry
  deriving DecidableEq, Repr

/-! ## Entries (R102) -/

def pteV (e : Word) : Bool := e.getLsbD 0
def pteL (e : Word) : Bool := e.getLsbD 1
def pteR (e : Word) : Bool := e.getLsbD 2
def pteW (e : Word) : Bool := e.getLsbD 3
def pteX (e : Word) : Bool := e.getLsbD 4
def pteU (e : Word) : Bool := e.getLsbD 52
def pteHS (e : Word) : Bool := e.getLsbD 53
def pteDT (e : Word) : Bool := e.getLsbD 54
def pteCS (e : Word) : Bool := e.getLsbD 55
def pteWK (e : Word) : Bool := e.getLsbD 56
def pteG (e : Word) : Bool := e.getLsbD 57
/-- ADDR: physical address bits [51:8] in place. -/
def pteAddr (e : Word) : Nat := (fld e 8 44).toNat * 256

/-- Lowest index bit of a level, which is log2 of the page a leaf there maps (R101). -/
def levelShift : Nat → Nat
  | 0 => 48
  | 1 => 39
  | 2 => 30
  | 3 => 21
  | _ => 16

/-- Entries of the table of a level (R101). -/
def levelEntries : Nat → Nat
  | 0 => 256
  | 4 => 32
  | _ => 512

/-- Index of a virtual address at a level (R101). -/
def levelIndex (level va : Nat) : Nat := va / 2 ^ levelShift level % levelEntries level

/-- The virtual address is canonical (R99). -/
def canonical (va : Word) : Bool := fld va 55 9 == 0 || fld va 55 9 == BitVec.allOnes 9

/-- The 56 translated bits of an address (R99). -/
def va56 (va : Word) : Nat := va.toNat % 2 ^ 56

/-- The checks of R103 on a valid entry at a level: the cause, or none. tabs: pointer target is in table storage. -/
def pteMalformed (level : Nat) (e : Word) : Option (BitVec 8) :=
  if fld e 58 6 != 0 || fld e 5 3 != 0 || (pteL e && level < 2) || (!pteL e && level == 4) then some 0x26
  else if !pteL e then
    if fld e 52 6 != 0 || fld e 2 3 != 0 || (level < 3 && pteAddr e % 4096 != 0) then some 0x26
    else if !(regionOf (pteAddr e)).holdsTables then some 0x27 else none
  else
    let size := 2 ^ levelShift level
    let r := regionOf (pteAddr e)
    if pteAddr e % size != 0 then some 0x26
    else if (!pteR e && !pteW e && !pteX e) || (pteW e && !pteR e) then some 0x26
    else if (pteDT e && pteHS e)
      || (pteDT e && !(match r with | .device | .shared _ => true | _ => false))
      || (!pteHS e && r == .host)
      || (pteX e && !r.holdsTables) then some 0x26
    else if !r.open || regionOf (pteAddr e + size - 1) != r then some 0x28
    else none

/-- A frame of the range is quarantined (R119). -/
def Device.quarantines (d : Device) (pa n : Nat) : Bool :=
  d.quarantine.any (fun f => decide (frameOf pa ≤ f) && decide (f ≤ frameOf (pa + n - 1)))

/-- A byte lies in a granule that [pa, pa + n) touches. -/
def granuleMet (b pa n : Nat) : Bool := decide (granuleOf pa ≤ granuleOf b) && decide (granuleOf b ≤ granuleOf (pa + n - 1))

/-- A data check of physical bytes that a walk or an access reads: a quarantined frame, or an uncorrectable error with
the frame it quarantines (R118, R119). -/
def eccFault (d : Device) (pa n : Nat) : Option (BitVec 8 × Option Nat) :=
  if d.quarantines pa n then some (0xC4, none)
  else (d.badBytes.find? (fun b => granuleMet b pa n)).map
    (fun b => (eccCause b, some b))

/-- A page walk from a level down (R103): fuel is the number of levels left. -/
def walk (s : State) (va : Word) (k : BitVec 4) : Nat → Nat → Nat → Except MemFault (Word × Nat)
  | 0, level, _ => .error { cause := 0x26, va := va, kind := k, level := BitVec.ofNat 4 level, bad := none }
  | fuel + 1, level, table =>
    let pa := table + 8 * levelIndex level (va56 va)
    match eccFault s.dev pa 8 with
    | some (c, bad) => .error { cause := c, va := BitVec.ofNat 64 pa, kind := 8, level := 0xF, bad := bad }
    | none =>
      let e := wordOfBytes (Memory.read s.mem pa 8)
      if !pteV e then .error { cause := 0x21, va := va, kind := k, level := BitVec.ofNat 4 level, bad := none }
      else match pteMalformed level e with
        | some c => .error { cause := c, va := va, kind := k, level := BitVec.ofNat 4 level, bad := none }
        | none => if pteL e then .ok (e, level) else walk s va k fuel (level + 1) (pteAddr e)

/-- The permission checks of a leaf (R103): U, then R, W, X. -/
def permCause (leaf : Word) (pl : BitVec 2) (kind : AccKind) : Option (BitVec 8) :=
  if pl == plUser && !pteU leaf then some 0x25
  else if kind.reads && !pteR leaf then some 0x22
  else if kind.writes && !pteW leaf then some 0x23
  else if kind == .fetch && !pteX leaf then some 0x24
  else none

/-- A cache entry serves a request (R109). -/
def TlbEntry.serves (e : TlbEntry) (part : BitVec 8) (asid : BitVec 12) (va : Nat) : Bool :=
  e.part == part && (e.asid == asid || pteG e.leaf) && e.vbase == va / 2 ^ levelShift e.level * 2 ^ levelShift e.level

/-- The cached translation that serves an address: one that the element group keeps to (R111), then the core's cache, then
the cluster's (R108). -/
def State.cached (s : State) (part : BitVec 8) (asid : BitVec 12) (va : Nat) : Option TlbEntry :=
  (s.core.pins ++ s.core.tlb ++ (s.clAt (clusterOf s.core.id)).tlb).find? (fun e => e.serves part asid va)

/-- Physical address through a leaf at a level. -/
def leafPa (leaf : Word) (level va : Nat) : Nat := pteAddr leaf + va % 2 ^ levelShift level

/-- Translation of one byte address for the core in focus at a level of privilege (R99–R103, R109). A fault carries the
kind given. -/
def translate (s : State) (pl : BitVec 2) (kind : AccKind) (va : Word) : Except MemFault Xl :=
  let flt (c : BitVec 8) (level : BitVec 4) : Except MemFault Xl :=
    .error { cause := c, va := va, kind := kind.code, level := level, bad := none }
  let root := (s.ctxAt s.ctxIx).atroot
  if !canonical va then flt 0x20 0xF
  else if pl == plMach || (pl == plSup && !root.getLsbD 0) then
    if fld va 52 12 != 0 then flt 0x28 0xF
    else
      let r := regionOf va.toNat
      if r == .none || (pl != plMach && !r.open) then flt 0x28 0xF else .ok ⟨va.toNat, none, none⟩
  else if !root.getLsbD 0 then flt 0x21 0xF
  else
    let a := va56 va
    let asid : BitVec 12 := fld root 52 12
    match s.cached s.ctxIx asid a with
    | some e =>
      match permCause e.leaf pl kind with
      | some c => flt c (BitVec.ofNat 4 e.level)
      | none => .ok ⟨leafPa e.leaf e.level a, some e.leaf, none⟩
    | none =>
      let table := (fld root 12 40).toNat * 4096
      if !(regionOf table).holdsTables then flt 0x27 0
      else match walk s va kind.code 5 0 table with
        | .error f => .error { f with walked := some a }
        | .ok (leaf, level) =>
          match permCause leaf pl kind with
          | some c =>
            .error { cause := c, va := va, kind := kind.code, level := BitVec.ofNat 4 level, bad := none, walked := some a }
          | none =>
            .ok ⟨leafPa leaf level a, some leaf,
              some ⟨s.ctxIx, asid, level, a / 2 ^ levelShift level * 2 ^ levelShift level, leaf⟩⟩

/-- Translation of an address of a context for a unit outside the cores, which holds no translation cache (R366, R370,
R440). -/
def translateCtx (s : State) (ctx : BitVec 8) (kind : AccKind) (va : Word) : Except MemFault Nat :=
  let flt (c : BitVec 8) : Except MemFault Nat := .error { cause := c, va := va, kind := kind.code, level := 0xF, bad := none }
  let root := (s.ctxAt ctx).atroot
  if !canonical va then flt 0x20
  else if !root.getLsbD 0 then
    if fld va 52 12 != 0 || !(regionOf va.toNat).open then flt 0x28 else .ok va.toNat
  else
    let table := (fld root 12 40).toNat * 4096
    if !(regionOf table).holdsTables then flt 0x27
    else match walk s va kind.code 5 0 table with
      | .error f => .error f
      | .ok (leaf, level) =>
        match permCause leaf plSup kind with
        | some c => flt c
        | none => .ok (leafPa leaf level (va56 va))

/-! ## Errors that ECC corrects (R116, R117) -/

/-- Adds one to a saturating 16-bit count of ECCCNT at bit lo (R117). -/
def eccCount (x : Word) (lo : Nat) : Word :=
  putFld x lo (if fld x lo 16 == BitVec.allOnes 16 then BitVec.allOnes 16 else fld x lo 16 + 1)

/-- Where ECCCNT counts the corrected errors of an address (R117). -/
def eccField (pa : Nat) : Nat :=
  match regionOf pa with
  | .device => 48
  | .tier | .checkpoint => 32
  | _ => 16

/-- Correctable errors among the bytes read are repaired and counted (R116, R117). -/
def State.correct (s : State) (pa n : Nat) : State :=
  if s.dev.softBytes.any (fun b => decide (pa ≤ b) && decide (b < pa + n)) then
    s.onDev (fun d => { d with
      softBytes := d.softBytes.filter (fun b => !(decide (pa ≤ b) && decide (b < pa + n)))
      ecccnt := eccCount d.ecccnt (eccField pa) })
  else s

/-- The granule of a byte lies whole within [pa, pa + n). -/
def granuleIn (b pa n : Nat) : Bool := decide (pa ≤ 8 * granuleOf b) && decide (8 * granuleOf b + 8 ≤ pa + n)

/-- What a write does to the errors that the bytes held (R116–R118): those of granules written in full are gone; of a
granule written in part the old bytes are read, so that a correctable error in it is repaired and counted. -/
def State.overwrite (s : State) (pa n : Nat) : State :=
  if s.dev.badBytes.isEmpty && s.dev.softBytes.isEmpty then s
  else s.onDev (fun d => { d with
    badBytes := d.badBytes.filter (fun b => !granuleIn b pa n)
    softBytes := d.softBytes.filter (fun b => !granuleMet b pa n)
    ecccnt := if d.softBytes.any (fun b => granuleMet b pa n && !granuleIn b pa n) then eccCount d.ecccnt (eccField pa)
      else d.ecccnt })

/-- The entries that a walk of an address reads, from a level down: up to the first that ends it. -/
def walkPath (s : State) (va : Nat) : Nat → Nat → Nat → List Nat
  | 0, _, _ => []
  | fuel + 1, level, table =>
    let pa := table + 8 * levelIndex level va
    let e := wordOfBytes (Memory.read s.mem pa 8)
    if (eccFault s.dev pa 8).isSome then []
    else pa :: (if !pteV e || pteL e || (pteMalformed level e).isSome then []
      else walkPath s va fuel (level + 1) (pteAddr e))

/-- The correctable errors that a walk of an address of a context meets are repaired and counted (R116). -/
def State.repairWalk (s : State) (ctx : BitVec 8) (va : Nat) : State :=
  let root := (s.ctxAt ctx).atroot
  let table := (fld root 12 40).toNat * 4096
  if s.dev.softBytes.isEmpty || !root.getLsbD 0 || !(regionOf table).holdsTables then s
  else (walkPath s va 5 0 table).foldl (fun t pa => t.correct pa 8) s

/-- The repairs of a walk that ended in a fault, if there was one, by the core in focus (R116). -/
def State.repairMiss (s : State) (w : Option Nat) : State := match w with
  | none => s
  | some va => s.repairWalk s.ctxIx va

/-- Puts a walk's result into the core's and the cluster's cache, the oldest entry giving way (R108; log 10). -/
def State.fill (s : State) (x : Xl) : State :=
  match x.entry with
  | none => s
  | some e =>
    let s := s.repairWalk e.part e.vbase
    (s.onCore (fun c => { c with tlb := (e :: c.tlb).take 256 })).onCl (clusterOf s.core.id)
      (fun cl => { cl with tlb := (e :: cl.tlb).take 8192 })

/-- An element group begins: what is cached now serves all of it (R111). -/
def State.beginGroup (s : State) : State :=
  s.onCore (fun c => { c with pins := c.pins ++ c.tlb ++ (s.clAt (clusterOf c.id)).tlb })

/-- The element group goes on with the translation that it has just used at an address (R111). -/
def State.pin (s : State) (va : Word) : State :=
  match s.cached s.ctxIx (fld (s.ctxAt s.ctxIx).atroot 52 12) (va56 va) with
  | none => s
  | some e => if s.core.pins.contains e then s else s.onCore (fun c => { c with pins := c.pins ++ [e] })

/-- A state with the translations of another's element group: what a group has pinned ends with it. -/
def State.pinsOf (s u : State) : State := s.onCore (fun c => { c with pins := u.core.pins })

/-- The address whose translation has made a walk. -/
def Xl.walked (x : Xl) (va : Word) : Option Nat := x.entry.map (fun _ => va56 va)

/-- An attribute of the leaf; false with translation off. -/
def Xl.attr (x : Xl) (f : Word → Bool) : Bool := match x.leaf with
  | some l => f l
  | none => false

end Sys2Proof.Machine
end

