-- ==== Sys2Proof/Machine/Ops.lean ====
section
/-! DEFINITION. How an instruction ends: completion, a trap taken by the one entry of R396, or a wait; the move to the
next word; and the return from a trap. -/

namespace Sys2Proof.Machine

/-- The outcome of a step of this machine. -/
abbrev Out := Host.Outcome State Fault Refusal

/-- A trap to be taken (R396, R397): cause, TVAL, what XLINFO and PIX receive, whether EPC names the next word, whether
it is synchronous, the byte of an uncorrectable error whose frame is quarantined (R118), and the address of a walk whose
correctable errors are repaired (R116). -/
structure Trap where
  cause : Cause
  tval : Word := 0
  xlinfo : Option Word := none
  pix : Option Word := none
  epcNext : Bool := false
  sync : Bool := true
  bad : Option Nat := none
  walked : Option Nat := none
  deriving DecidableEq, Repr

/-- How the form in hand ends: completed, trapped, or at a wait point; each with the state it leaves. -/
inductive Res where
  | done (s : State)
  | trap (s : State) (t : Trap)
  | wait (s : State) (w : Wait)
  deriving DecidableEq, Repr

/-- XLINFO of a memory fault (R114). -/
def xlinfoWord (elem : Nat) (f : MemFault) : Word :=
  (BitVec.ofNat 16 elem ++ 0#8 ++ f.kind ++ f.level ++ 0#8 ++ f.cause).setWidth 64

/-- The trap of a memory fault at an element (R112, R114). -/
def MemFault.trap (f : MemFault) (elem : Nat) : Trap :=
  { cause := f.cause, tval := f.va, xlinfo := some (xlinfoWord elem f), bad := f.bad, walked := f.walked }

/-- A decode or privilege trap: TVAL holds the word (R63). -/
def wordTrap (i : Instr) (c : Cause) : Trap := { cause := c, tval := i.wordOf }

/-- A trap with TVAL 0 (R397). -/
def plainTrap (c : Cause) : Trap := { cause := c }

/-- The trap of a cause that a meeting or a step ended with: of a memory cause that of its access (R397). -/
def endTrap (c : Cause) (x : Option BadAccess) : Trap :=
  match x with
  | none => plainTrap c
  | some y => ({ cause := c, va := y.va, kind := y.kind, level := 0xF, bad := none } : MemFault).trap y.elem

/-! ## Quarantine (R117–R119) -/

/-- An uncorrectable event is counted (R117). -/
def State.countUnc (s : State) : State := s.onDev (fun d => { d with ecccnt := eccCount d.ecccnt 0 })

/-- The frame of an uncorrectable error is quarantined at once, and the event counted (R117, R118). -/
def State.quarantine (s : State) (pa : Nat) : State :=
  s.onDev (fun d => { d with
    quarantine := if d.quarantine.contains (frameOf pa) then d.quarantine else frameOf pa :: d.quarantine
    ecccnt := eccCount d.ecccnt 0 })

/-- What a fault on uncorrectable data leaves: the quarantine, and EVT.ECC of the partition; a firmware core has none
(R15, R118, R404). -/
def State.quarantineFault (s : State) (bad : Option Nat) : State :=
  match bad with
  | none => s
  | some pa => if s.core.fw then s.quarantine pa else (s.quarantine pa).postEvt s.ctxIx evtEcc

/-- What the access of a trap has repaired: the walk that it made (R116). -/
def State.repairFault (s : State) (t : Trap) : State := s.repairMiss t.walked

/-! ## Trap entry and return (R396, R399, R415) -/

/-- The second trap of a handler (R399): CAUSE, EPC and TVAL of the first trap stay, XLINFO and PIX are what the
second one wrote (R396); every member of the gang stops, and the gang is to be saved with the second cause. A core
outside a task stops alone (log 25). -/
def State.doubleTrap (s : State) (t : Trap) : State :=
  let s := s.onCore (fun y => { y with
    sys := { y.sys with xlinfo := t.xlinfo.getD y.sys.xlinfo }, vec := { y.vec with pix := t.pix.getD y.vec.pix } })
  match s.core.gang with
  | some id =>
    (s.onGang id (fun x => { x with due := some (.double t.cause) })).mapCores
      (fun y => y.gang == some id) (fun y => { y with run := .stopped })
  | none => s.onCore (fun y => { y with run := .stopped })

/-- A tl.ldp, tl.stp or tl.ldsc at which the control thread stands leaves the engine's queue; TPROG keeps its place
(R275, R278). -/
def Core.dropLine (c : Core) : Core :=
  if c.wait == some .tileLine then
    { c with tile := { c.tile with
      queue := c.tile.queue.dropLast, running := c.tile.running && decide (1 < c.tile.queue.length) } }
  else c

/-- A run of the block buffer or a VP block stops being issued; BLK, BLKCNT and VPSTAT keep its place (R136, R391). -/
def Core.pauseRuns (c : Core) : Core :=
  { c.dropLine with blk := { c.blk with live := false }, vp := { c.vp with live := false }, wait := none, spawned := [], spawnLost := false }

/-- The least PC among live VPs (R388). -/
def leastPc : List (BitVec 13 × Word) → Option Word
  | [] => none
  | x :: r => match leastPc r with
    | none => some x.2
    | some p => some (if x.2.ult p then x.2 else p)

/-! ## The numbers of writes to DT pages (R339) -/

/-- The form under way has written to a DT page. -/
def State.wroteStep (s : State) : Bool :=
  let x := s.ctxAt s.ctxIx
  let lc := fld s.core.detid 0 16
  x.stepBytes.any (fun b => b.lcore == lc && b.seq == s.core.seq)
    || x.stepUpds.any (fun b => b.lcore == lc && b.seq == s.core.seq)

/-- BLK.POS. -/
def blkPos (x : Word) : Nat := (fld x 7 5).toNat

/-- Where the form under way stands: its address, and its place in a run. -/
def Core.formPlace (c : Core) : Word × Nat :=
  (if c.vp.live then (leastPc c.vp.pcs).getD c.pc else c.pc, if c.blk.live then blkPos c.blk.blk + 1 else 0)

/-- A form that stops after some of its writes keeps its number for the time when it goes on; what is issued before that
is numbered behind it (R339; log 105). -/
def State.holdSeq (s : State) : State :=
  match s.core.seqNext with
  | some n => s.onCore (fun c => { c with seq := n, seqNext := none, seqHeld := (c.formPlace, c.seq) :: c.seqHeld })
  | none =>
    if s.wroteStep then s.onCore (fun c => { c with seq := c.seq + 1, seqHeld := (c.formPlace, c.seq) :: c.seqHeld }) else s

/-- A form that goes on where a trap has stopped it takes its number again. -/
def State.resumeSeq (s : State) : State :=
  match (if s.core.vec.pix.getLsbD 31 || s.core.tile.tprog.getLsbD 63 then
      s.core.seqHeld.find? (fun x => x.1 == s.core.formPlace) else none) with
  | none => s
  | some x => s.onCore (fun c => { c with
      seq := x.2, seqNext := some c.seq, seqHeld := c.seqHeld.filter (fun y => y.1 != x.1) })

/-- EPC of a trap (R397): the word, or the next one; inside a run the blk.run or vp.run, where core.pc stands (R391); for
a word of a VP block that fails a check of R62 that word itself, as R63 and R67 state of these causes (log 83). -/
def State.trapPc (s : State) (t : Trap) : Word :=
  if t.epcNext then s.core.pc + 4
  else if s.core.vp.live && decide (1 ≤ t.cause.toNat) && decide (t.cause.toNat ≤ 0x0F) then
    (leastPc s.core.vp.pcs).getD s.core.pc
  else s.core.pc

/-- Trap entry (R396, R397). -/
def State.enterTrap (s : State) (t : Trap) : State :=
  let s := ((s.quarantineFault t.bad).repairFault t).holdSeq
  let epc := s.trapPc t
  let r := s.core.sys
  if r.pl == plMach then
    s.onCore (fun c => { c.pauseRuns with
      sys := { r with mcause := zext t.cause, mepc := epc, mtval := t.tval, xlinfo := t.xlinfo.getD r.xlinfo }
      pc := fld r.mtvec 2 62 ++ 0#2 })
  else if r.nest && t.sync then s.doubleTrap t
  else
    s.onCore (fun c => { c.pauseRuns with
      sys := { r with
        cause := zext t.cause, epc := epc, tval := t.tval, xlinfo := t.xlinfo.getD r.xlinfo
        status := statusWord true r.aie false r.pl plSup }
      vec := { c.vec with pix := t.pix.getD c.vec.pix }
      pc := fld r.tvec 2 62 ++ 0#2 })

/-- The level that sys.ret returns to: a PPL that no numbered core runs at is taken as supervisor (R393, R415; log 41). -/
def SysRegs.returnLevel (r : SysRegs) : BitVec 2 := if r.ppl = plUser then plUser else plSup

/-- Return from a trap to an address already checked (R415). -/
def State.leaveTrap (s : State) (t : Word) : State :=
  let r := s.core.sys
  s.onCore (fun c => { c with
    pc := t, wait := none
    sys := if r.pl == plSup then { r with status := statusWord false r.paie r.paie r.ppl r.returnLevel } else r })

/-! ## The next word -/

/-- The next number of the core's writes to DT pages, if the form wrote to one (R339). -/
def State.bumpSeq (s : State) : State :=
  match s.core.seqNext with
  | some n => s.onCore (fun c => { c with seq := n, seqNext := none })
  | none => if s.wroteStep then s.onCore (fun c => { c with seq := c.seq + 1 }) else s

/-- BLK fields (R133). -/
def blkN (x : Word) : Nat := (fld x 12 6).toNat
def blkXb (x : Word) : BitVec 5 := fld x 2 5
def blkLoop (x : Word) : Bool := x.getLsbD 1
def blkAct (x : Word) : Bool := x.getLsbD 0
/-- BLKCNT fields (R133). -/
def cntRem (x : Word) : BitVec 32 := fld x 32 32
def cntIter (x : Word) : BitVec 32 := fld x 0 32

/-- All ones if at least three iterations remain to be started, else zeros (R192). -/
def stageOnes (rem : BitVec 32) : BitVec 8192 := if 3 ≤ rem.toNat then BitVec.allOnes 8192 else 0

/-- Start of loop mode at rotation 0 (R192). -/
def VecState.loopStart (v : VecState) (rem : BitVec 32) : VecState :=
  { v with
    lrot := 0
    k := (((rset v.k (4 : BitVec 3) (stageOnes rem)) |> fun k => rset k (5 : BitVec 3) 0)
      |> fun k => rset k (6 : BitVec 3) 0) |> fun k => rset k (7 : BitVec 3) 0 }

/-- Advance of loop mode by one iteration (R192). -/
def VecState.loopAdvance (v : VecState) (rem : BitVec 32) : VecState :=
  { v with
    lrot := zext (fld v.lrot 0 4 + 1)
    k := (((rset v.k (7 : BitVec 3) (rget v.k (6 : BitVec 3)))
      |> fun k => rset k (6 : BitVec 3) (rget v.k (5 : BitVec 3)))
      |> fun k => rset k (5 : BitVec 3) (rget v.k (4 : BitVec 3)))
      |> fun k => rset k (4 : BitVec 3) (stageOnes rem) }

/-- A run ends: ACT 0, loop mode ends, and the control thread goes on (R135, R192). -/
def State.endRun (s : State) : State :=
  s.onCore (fun c => { c with
    pc := c.pc + 4
    blk := { c.blk with live := false, unread := false, blk := putFld (putFld c.blk.blk 7 (0#5)) 0 (0#1) }
    vec := if blkLoop c.blk.blk then { c.vec with lrot := 0 } else c.vec })

/-- After a word of a run has issued (R135): the next word, the next iteration, or the end. -/
def State.nextInRun (s : State) : State :=
  let b := s.core.blk
  if blkPos b.blk + 1 ≠ blkN b.blk then
    s.onBlk (fun b => { b with blk := putFld b.blk 7 (BitVec.ofNat 5 (blkPos b.blk + 1)) })
  else
    let rem := cntRem b.blkcnt
    let s1 := s.onBlk (fun b => { b with blk := putFld b.blk 7 (0#5), blkcnt := putFld b.blkcnt 0 (cntIter b.blkcnt + 1) })
    if rem == 0 || (blkXb b.blk != 0 && s.g (blkXb b.blk) == 0) then s1.endRun
    else
      let s2 := s1.onBlk (fun b => { b with blkcnt := putFld b.blkcnt 32 (rem - 1) })
      if blkLoop b.blk then s2.onVec (fun v => v.loopAdvance (rem - 1)) else s2

/-- A multiply form of the matrix engine. -/
def TileCmd.multiplies (c : TileCmd) : Bool := match decode c.word with
  | .ok (.tlMma _ _ _) | .ok (.tlMmz _ _ _) | .ok (.tlMms _ _ _) => true
  | _ => false

/-- A multiply form that the control thread has passed on may still trap. -/
def State.mulPending (s : State) : Bool := s.core.tile.queue.any TileCmd.multiplies

/-- Replaces BLK.XB, in what a multiply form of the run has journalled too. -/
def State.setExit (s : State) (x : BitVec 5) : State :=
  let put (b : BlkState) : BlkState := { b with blk := putFld b.blk 2 x }
  (s.onBlk put).onTile (fun t => { t with
    queue := t.queue.map (fun c => if blkAct c.journal.blk.blk then { c with journal := { c.journal with blk := put c.journal.blk } } else c) })

/-- The run reads, at the end of an iteration that is not its last, an exit register that holds an uncorrectable error
(R119, R135; log 84). -/
def State.exitBad (s : State) : Bool :=
  let b := s.core.blk
  b.live && cntRem b.blkcnt != 0 && blkXb b.blk != 0 && s.core.regErr.contains (.g (blkXb b.blk))

/-- The read of an exit register that holds an uncorrectable error takes cause 0xC3, an uncorrectable event (R117, R119). -/
def State.exitTrap (s : State) : State :=
  (s.onBlk (fun b => { b with unread := false })).countUnc.enterTrap (plainTrap 0xC3)

/-- What the control thread does from a state in which such a run goes on: where it ends the iteration, the read of the
exit register traps, and the run resumes with the next iteration (R135; log 84). Behind a multiply form that may still
trap, the trap waits until that has completed (R138). -/
def State.exitRead (s : State) (t : State) : State :=
  let u := t.setExit (blkXb s.core.blk.blk)
  if cntIter t.core.blk.blkcnt == cntIter s.core.blk.blkcnt || t.core.wait.isSome || t.core.sys != s.core.sys then u
  else if u.mulPending then u.onBlk (fun b => { b with unread := true })
  else u.exitTrap

/-- The same for a part of a step that may end an iteration. -/
def State.guardExit (s : State) (f : State → State) : State :=
  if s.exitBad then s.exitRead (f (s.setExit 0)) else f s

/-- Past a word outside a VP block. -/
def State.nextWord (s : State) : State :=
  if s.core.blk.live then s.nextInRun else s.onCore (fun c => { c with pc := c.pc + 4 })

/-- VPSTAT (R391). -/
def vpstatWord (act : Bool) (live : Nat) : Word := (BitVec.ofBool act ++ 0#49 ++ BitVec.ofNat 14 live).setWidth 64

/-- The PCs of the group move by 4 (R388). -/
def VpState.advance (v : VpState) : VpState :=
  { v with pcs := v.pcs.map (fun x => if v.grp.getLsbD x.1.toNat then (x.1, x.2 + 4) else x) }

/-- The form in hand has completed: on to the next word, in a VP block, a run, or from the pc. -/
def State.next (s : State) : State :=
  let s := s.bumpSeq.onCore (fun c => { c with wait := none })
  if s.core.vp.live then s.onVp VpState.advance else s.nextWord

/-- The control thread stands at a wait point; nothing has moved (R137, R401). -/
def State.stand (s : State) (w : Wait) : State := s.onCore (fun c => { c with wait := some w })

/-- The end of a form. -/
def Res.finish : Res → Out
  | .done s => .next s.next
  | .trap s t => .next (s.enterTrap t)
  | .wait s w => .next (s.stand w)

/-- Runs a second part after the first has completed. -/
def Res.andThen : Res → (State → Res) → Res
  | .done s, f => f s
  | .trap s t, _ => .trap s t
  | .wait s w, _ => .wait s w

/-- A check that a form makes before it has any effect. -/
def Res.check (s : State) (c : Option Trap) (k : Res) : Res :=
  match c with
  | some t => .trap s t
  | none => k

/-- The first trap of a list of conditions, in order. -/
def firstTrap : List (Bool × Trap) → Option Trap
  | [] => none
  | (b, t) :: r => if b then some t else firstTrap r

/-! ## Forms that the control thread has passed on (R137, R277, R398; log 8) -/

/-- The registers that the journal of R398 keeps of a form at its issue. -/
def Core.journal (c : Core) : Journal := ⟨c.pc, c.g, c.blk, c.vec.lrot, c.vec.k⟩

/-- Back to where a multiply form stood at its issue: what was issued behind it is undone, and the engine's queue is
dropped; TPROG keeps the form's place (R275, R398). -/
def State.undo (s : State) (j : Journal) : State :=
  s.onCore (fun c => { c with
    pc := j.pc, g := j.g, blk := j.blk, wait := none
    vec := { c.vec with lrot := j.lrot, k := j.k, xuq := [] }
    tile := { c.tile with queue := [], running := false } })

/-- The registers as they stood when an entry of the XU queue was passed on. -/
def State.asEntry (s : State) (x : XuEntry) : State :=
  s.onCore (fun c => { c with
    pc := x.pc, g := x.g, wait := none
    vec := { c.vec with vl := x.vl, mfc := x.mfc, vprof := x.vprof, xuq := [] }
    mat := { c.mat with mshape := x.mshape } })

/-! ## Levels of a form (R62 step 4, R411) -/

/-- The cause with which a level refuses a need (R411, R61). -/
def needCause (n : Need) (pl : BitVec 2) : Option Cause :=
  let at' (l : Lvl) : Option Cause :=
    match l with
    | .user => none
    | .supervisor => if pl == plUser then some 0x09 else none
    | .machine => if pl == plMach then none else some 0x0A
    | .never => if pl == plMach then none else some 0x0A
  match n with
  | .user => none
  | .supervisor => at' .supervisor
  | .machine => at' .machine
  | .rd n _ => match sregRow n with
    | some (_, l, _) => at' l
    | none => none
  | .wr n _ => match sregRow n with
    | some (_, _, l) => at' l
    | none => none

/-- The level check of a privileged form (R62 step 4). -/
def State.levelTrap (s : State) (i : Instr) (n : Need) : Option Trap := (needCause n s.pl).map (wordTrap i)

/-- An event that is not due in this state. -/
def notDue (name : String) : Out := .refused (.notDue name)

end Sys2Proof.Machine
end

