-- ==== Sys2Proof/Machine/Service.lean ====
section
/-! DEFINITION. The module control space and what stands behind it: clusters' gating and service, quadrants, frame
release, checkpoints, resets and power, and the errors that ECC finds (R6, R98, R116–R119, R433, R434, R441–R446,
R450). -/

namespace Sys2Proof.Machine

/-! ## Memory as units outside the cores reach it -/

/-- The bytes at a physical address are quarantined or hold an uncorrectable error (R118, R119). -/
def State.badAt (s : State) (pa n : Nat) : Bool := (eccFault s.dev pa n).isSome

/-- A frame of the range is quarantined (R119). -/
def State.quarantined (s : State) (pa n : Nat) : Bool := s.dev.quarantines pa n

/-- A write narrower than the granules that it touches meets uncorrectable data, whose old bytes it needs (R118): the
byte. -/
def State.narrowBad (s : State) (pa n : Nat) : Option Nat :=
  s.dev.badBytes.find? (fun b => granuleMet b pa n && !granuleIn b pa n)

/-- A write of bytes by a unit outside the cores. -/
def State.poke (s : State) (pa : Nat) (l : List Byte) : State :=
  { s.overwrite pa l.length with mem := Memory.write s.mem pa l }

/-- What ECC makes of a read at a physical address by a unit that serves no context: correctable errors are repaired and
counted, an uncorrectable one is counted and quarantines its frame (R116–R118). -/
def State.scrubAt (s : State) (pa n : Nat) : State := match eccFault s.dev pa n with
  | some (_, some b) => s.quarantine b
  | some (_, none) => s
  | none => s.correct pa n

/-- A write by a unit outside the cores that a quarantined frame, or uncorrectable bytes that it needs, may refuse
(R118, R119): the state, and whether it was performed. -/
def State.tryPoke (s : State) (pa : Nat) (l : List Byte) : State × Bool :=
  if s.quarantined pa l.length then (s, false)
  else match s.narrowBad pa l.length with
    | some b => (s.quarantine b, false)
    | none => (s.poke pa l, true)

/-- The frame of an uncorrectable error that a unit meets for a context is quarantined, and EVT.ECC posted (R118). -/
def State.unitBad (s : State) (ctx : BitVec 8) (bad : Option Nat) : State :=
  match bad with
  | some b => (s.quarantine b).postEvt ctx evtEcc
  | none => s

/-- What ECC makes of an access of a unit for a context, its walk included: correctable errors that are read are repaired
and counted, an uncorrectable one that is read, or whose granule is written in part, is counted and quarantines its frame
(R116–R118). -/
def State.unitTouch (s : State) (ctx : BitVec 8) (kind : AccKind) (va : Word) (n : Nat) : State :=
  let s := if canonical va then s.repairWalk ctx (va56 va) else s
  match translateCtx s ctx kind va with
  | .error f => s.unitBad ctx f.bad
  | .ok pa =>
    if kind.reads then
      match eccFault s.dev pa n with
      | some (_, bad) => s.unitBad ctx bad
      | none => s.correct pa n
    else if s.quarantined pa n then s
    else s.unitBad ctx (s.narrowBad pa n)

/-- What ECC makes of a read of a unit for a context. -/
def State.unitScrub (s : State) (ctx : BitVec 8) (va : Word) (n : Nat) : State := s.unitTouch ctx .xread va n

/-- A 64-bit word of physical memory. -/
def State.peek64 (s : State) (pa : Nat) : Word := wordOfBytes (Memory.read s.mem pa 8)

/-! ## CLPSTAT (R433) -/

/-- States of a cluster. -/
def clRun : BitVec 3 := 0
def clQuiescing : BitVec 3 := 1
def clQuiesced : BitVec 3 := 2
def clSaving : BitVec 3 := 3
def clGated : BitVec 3 := 4
def clWaking : BitVec 3 := 5

/-- CLPSTAT.STATE. -/
def Cluster.state (c : Cluster) : BitVec 3 := fld c.clpstat 0 3

/-- Ingress is open: RUN; from its close until RUN returns the cluster counts as gated (R434). -/
def Cluster.open (c : Cluster) : Bool := c.state == clRun

/-- An accepted command: the new state, REF clear. -/
def Cluster.accept (c : Cluster) (st : BitVec 3) : Cluster := { c with clpstat := putFld (putFld c.clpstat 0 st) 3 (0#1) }

/-- A refused command sets REF (R434). -/
def Cluster.refuse (c : Cluster) : Cluster := { c with clpstat := putBit c.clpstat 3 true }

/-- Elements that a core has sent to a channel of the cluster's cores. -/
def Core.sentTo (cl : BitVec 4) (c : Core) : Nat :=
  c.cmds.foldl (fun m x => match x with
    | .stream y => (match y.near with
        | .remote core _ _ => if clusterOf core = cl then m + y.sends.length else m
        | _ => m)
    | .sloe _ => m) 0

/-- Remote accesses accepted and not yet complete (R433, R434), those of senders that have been saved meanwhile among
them. -/
def State.inflight (s : State) (cl : BitVec 4) : Nat :=
  let count (l : List Core) : Nat := l.foldl (fun n c => n + c.sentTo cl) 0
  count s.cores + s.ctxs.toList.foldl (fun n x => x.saved.foldl (fun n y => n + count y.cores) n) 0

/-- Commands of Rowan by their common parts. -/
def Cmd.port : Cmd → BitVec 4
  | .stream c => c.port
  | .sloe c => c.port
def Cmd.active : Cmd → Bool
  | .stream c => c.active
  | .sloe c => c.active

/-- The stream of a held request is still there: its sender's command on the port is active. -/
def State.heldLives (s : State) (h : HeldAccess) : Bool :=
  match s.coreAt (numbered h.core) with
  | some c => c.gang.isSome && c.cmds.any (fun x => x.port == h.port && x.active)
  | none => false

/-- The requests held at a cluster's ingress, in their order of arrival (R434). -/
def State.heldAt (s : State) (cl : BitVec 4) : List HeldAccess := (s.clAt cl).held.filter s.heldLives

/-- The requests of cores are held no longer: their gang has gone (R401, R434). -/
def State.unholdCores (s : State) (l : List (BitVec 8)) : State :=
  if s.clusters.all (fun c => c.held.isEmpty) then s
  else { s with clusters := s.clusters.map (fun c => { c with held := c.held.filter (fun h => !l.contains h.core) }) }

/-- What has been sent to the cluster's cores can arrive: ingress is open, or closing (R434, R435). -/
def Cluster.admits (c : Cluster) : Bool := c.state == clRun || c.state == clQuiescing

/-- A gang is resident in the cluster. -/
def State.occupied (s : State) (cl : BitVec 4) : Bool := s.gangs.any (fun x => x.cluster == cl)

/-- CLPCTL CMD 1 (R434). -/
def State.clpQuiesceCmd (s : State) (cl : BitVec 4) : State :=
  s.onCl cl (fun c => if c.state = clRun && !s.occupied cl then c.accept clQuiescing else c.refuse)

/-- CLPCTL CMD 2 (R434). -/
def State.clpGateCmd (s : State) (cl : BitVec 4) : State :=
  s.onCl cl (fun c => if c.state = clQuiesced then c.accept clSaving else c.refuse)

/-- The cluster can be woken (R434). -/
def Cluster.wakeable (c : Cluster) : Bool := c.state == clQuiesced || c.state == clSaving || c.state == clGated

/-- The partitions that hold quads of a cluster. -/
def State.partsOf (s : State) (cl : BitVec 4) : List (BitVec 8) :=
  ((List.range 4).map (fun i => rget s.dev.quadmap (BitVec.ofNat 6 (4 * cl.toNat + i)))).filterMap (fun q =>
    if q.getLsbD 62 && !q.getLsbD 63 then some (fld q 0 8) else none)

/-- The clusters in which a partition holds quads. -/
def State.clustersOf (s : State) (p : BitVec 8) : List (BitVec 4) :=
  ((List.range 16).map (BitVec.ofNat 4)).filter (fun cl => (s.partsOf cl).contains p)

/-- The limits of a cluster in the order of R428: thermal, current, partition cap, rank, quota. A cluster of several
partitions takes the least limit of each kind (log 18). -/
def State.limitsOf (s : State) (cl : BitVec 4) : List Nat :=
  let c := s.clAt cl
  let least (f : Context → Nat) : Nat := (s.partsOf cl).foldl (fun m p => min m (f (s.ctxAt p))) 148
  [c.fth, c.fcur, least Context.fpc, least Context.frk, least Context.fq]

/-- fmax of a cluster (R428). -/
def Cluster.fmax (c : Cluster) : Nat := if c.boost then 148 else 132

/-- F(c) (R428). -/
def State.fTarget (s : State) (cl : BitVec 4) : Nat := (s.limitsOf cl).foldl min (s.clAt cl).fmax

/-- BIND of a cluster (R428, R429). -/
def State.bindOf (s : State) (cl : BitVec 4) : BitVec 4 :=
  let f := s.fTarget cl
  if f < (s.clAt cl).fmax then
    match (s.limitsOf cl).findIdx? (fun x => x == f) with
    | some i => BitVec.ofNat 4 (i + 1)
    | none => 0
  else 0

/-- The cluster of a partition with the lowest target, the lowest-numbered of those (R429). -/
def State.slowest (s : State) (p : BitVec 8) : Option (BitVec 4) :=
  (s.clustersOf p).foldl (fun (m : Option (BitVec 4)) c => match m with
    | none => some c
    | some d => if (s.clAt c).target < (s.clAt d).target then some c else some d) none

/-- CAP, RANK and BIND: a change of them posts EVT.THROT (R429). -/
def thKey (x : Word) : BitVec 28 := (fld x 40 24 : BitVec 24) ++ (fld x 28 4 : BitVec 4)

/-- FTGT and BIND of a partition as they are now, put into THCAUSE (R429). -/
def State.withTarget (s : State) (p : BitVec 8) (y : Word) : Word :=
  match s.slowest p with
  | none => y
  | some c => putFld (putFld y 32 (BitVec.ofNat 8 (s.clAt c).target)) 28 (s.bindOf c)

/-- THCAUSE shows a target that has changed within an interval; where BIND changes with it, EVT.THROT is posted (R429). -/
def State.showTarget (s : State) (p : BitVec 8) : State :=
  let x := (s.ctxAt p).thcause
  let y := s.withTarget p x
  let t := if y = x then s else s.onCtx p (fun c => { c with thcause := y })
  if thKey x = thKey y then t else t.postEvt p evtThrot

/-- The limiters of a partition that are active (R428, R429), bit 0 thermal. -/
def State.activeOf (s : State) (p : BitVec 8) : BitVec 5 :=
  let x := s.ctxAt p
  let cs := (s.clustersOf p).map s.clAt
  BitVec.ofBool (decide (x.fq < 132)) ++ BitVec.ofBool (decide (x.frk < 132)) ++ BitVec.ofBool (decide (x.fpc < 132))
    ++ BitVec.ofBool (cs.any (fun c => decide (c.fcur < 132))) ++ BitVec.ofBool (cs.any (fun c => decide (c.fth < 132)))

/-- The cluster is eligible for a boost: no limiter of its partition is active (R427), and it is not isolated (R446). -/
def State.eligible (s : State) (cl : BitVec 4) : Bool :=
  !(s.clAt cl).isolated && (s.limitsOf cl).all (fun f => decide (132 ≤ f)) && (s.partsOf cl).all (fun p => s.activeOf p == 0)

/-- A boost grant is honoured only while its cluster stays eligible (R427). -/
def State.dropBoost (s : State) : State :=
  let l := ((List.range 16).map (BitVec.ofNat 4)).filter (fun cl => (s.clAt cl).boost && !s.eligible cl)
  (l.flatMap s.partsOf).foldl State.showTarget (l.foldl (fun t cl => t.onCl cl (fun c => { c with boost := false })) s)

/-- Waking begins: at 32 steps, with ALC 16 on every core of the cluster (R434). -/
def State.startWake (s : State) (cl : BitVec 4) : State :=
  (s.partsOf cl).foldl State.showTarget
    ((s.onCl cl (fun c => { c with target := 32, clpstat := putFld (putFld c.clpstat 0 clWaking) 24 (32#8) })).mapCores
      (fun c => !c.fw && clusterOf c.id == cl) (fun c => { c with vec := { c.vec with alc := 16 } }))

/-- CLPCTL CMD 3 (R434). -/
def State.clpWakeCmd (s : State) (cl : BitVec 4) : State :=
  if (s.clAt cl).wakeable then (s.onCl cl (fun c => c.accept clWaking)).startWake cl else s.onCl cl Cluster.refuse

/-- CLPCTL CMD 4 (R434). -/
def State.clpOpenCmd (s : State) (cl : BitVec 4) : State :=
  s.onCl cl (fun c => if c.state = clQuiesced then c.accept clRun else c.refuse)

/-- A write of CLPCTL (R433). -/
def State.clpCmd (s : State) (cl : BitVec 4) (cmd : BitVec 3) : State :=
  match cmd.toNat with
  | 0 => s
  | 1 => s.clpQuiesceCmd cl
  | 2 => s.clpGateCmd cl
  | 3 => s.clpWakeCmd cl
  | 4 => s.clpOpenCmd cl
  | _ => s.onCl cl Cluster.refuse

/-- A placement or a held request wakes a cluster that is not in RUN, at once where it can be woken (R434). -/
def State.wakeCluster (s : State) (cl : BitVec 4) : State := if (s.clAt cl).wakeable then s.startWake cl else s

/-! ## SVC (R446) -/

/-- SVC.REF and SVC.DONE. -/
def Cluster.svcRefuse (c : Cluster) : Cluster := { c with svc := putBit c.svc 4 true }

/-- An SVC command that is accepted: CMD reads it, REF and DONE are clear (log 20). -/
def Cluster.svcAccept (c : Cluster) (cmd : BitVec 3) : Cluster := { c with svc := zext cmd }

/-- The cluster takes a service command: QUIESCED, isolated for commands 2 to 4, and none running (R446; log 20). -/
def Cluster.svcMay (c : Cluster) (isolated : Bool) : Bool :=
  c.state == clQuiesced && (!isolated || c.isolated) && c.svcBusy == 0

/-- SVC CMD 1 (R446). -/
def State.svcIsolateCmd (s : State) (cl : BitVec 4) : State :=
  (s.onCl cl (fun c => if c.svcMay false then { c.svcAccept 1 with isolated := true } else c.svcRefuse)).dropBoost

/-- SVC CMD 2 or 3: it runs until SVC_DONE (R446). -/
def State.svcRunCmd (s : State) (cl : BitVec 4) (cmd : BitVec 3) : State :=
  s.onCl cl (fun c => if c.svcMay true then { c.svcAccept cmd with svcBusy := cmd } else c.svcRefuse)

/-- SVC CMD 4 (R446). -/
def State.svcReturnCmd (s : State) (cl : BitVec 4) : State :=
  s.onCl cl (fun c => if c.svcMay true then { c.svcAccept 4 with isolated := false } else c.svcRefuse)

/-- A write of SVC (R446). -/
def State.svcCmd (s : State) (cl : BitVec 4) (cmd : BitVec 3) : State :=
  match cmd.toNat with
  | 0 => s
  | 1 => s.svcIsolateCmd cl
  | 2 => s.svcRunCmd cl 2
  | 3 => s.svcRunCmd cl 3
  | 4 => s.svcReturnCmd cl
  | _ => s.onCl cl Cluster.svcRefuse

/-! ## QREL (R446) -/

/-- QREL states. -/
def qrelBusy : BitVec 2 := 1
def qrelReleased : BitVec 2 := 2
def qrelFailed : BitVec 2 := 3

/-- A write of QREL: the release of a quarantined frame begins; another address fails, and nothing happens while one
is busy (R446; log 20). -/
def State.qrelCmd (s : State) (v : Word) : State :=
  if s.dev.qrel = qrelBusy then s
  else s.onDev (fun d => { d with
    qrelAddr := v
    qrel := if v.toNat % 65536 = 0 && d.quarantine.contains (frameOf v.toNat) then qrelBusy else qrelFailed })

/-- The end of a release: zeros with fresh ECC and the frame released, or the frame stays quarantined (R446). -/
def State.qrelEnd (s : State) (ok : Bool) : State :=
  let f := frameOf s.dev.qrelAddr.toNat
  if ok then
    { s.onDev (fun d => { d with
        qrel := qrelReleased
        quarantine := d.quarantine.filter (fun x => x != f)
        badBytes := d.badBytes.filter (fun b => frameOf b != f)
        softBytes := d.softBytes.filter (fun b => frameOf b != f)
        ckKept := if d.ckOwn.isEmpty then d.ckKept else (f * 65536, 65536) :: d.ckKept })
      with mem := Memory.clear s.mem (f * 65536) (f * 65536 + 65536) }
  else s.onDev (fun d => { d with qrel := qrelFailed })

/-! ## Checkpoints (R443, R444) -/

/-- The directory entry and the image of a slot (R96, R443). -/
def ckEntry (slot : BitVec 3) : Nat := 0x103E80000000 + 64 * slot.toNat
def ckImage (slot : BitVec 3) : Nat := 0x103EC0000000 + slot.toNat * 0xC040000000

/-- What ECC makes of a read of the directory (R116–R118). -/
def State.ckScrub (s : State) : State := s.scrubAt (ckEntry 0) 320

/-- The directory can be read: no frame of it is quarantined, and no byte is uncorrectable (R118, R119; log 28). -/
def State.ckReads (s : State) : Bool := !s.badAt (ckEntry 0) 320

/-- STATE of a directory entry. -/
def State.ckState (s : State) (slot : BitVec 3) : Byte := Memory.get s.mem (ckEntry slot + 4)

/-- Directory states. -/
def ckEmpty : Byte := 0
def ckWriting : Byte := 1
def ckValid : Byte := 2
def ckBad : Byte := 3

/-- Writes MAGIC and STATE of an entry; where R118 or R119 refuses the write it is lost. -/
def State.ckMark (s : State) (slot : BitVec 3) (st : Byte) : State :=
  (s.tryPoke (ckEntry slot) (toBytes 4 0x5A36434B ++ [st])).1

/-- The 64 bytes of an entry (R443). -/
def ckBytes (st : Byte) (seq time : Word) (nq : Nat) : List Byte :=
  toBytes 4 0x5A36434B ++ [st] ++ toBytes 3 0 ++ toBytes 8 seq.toNat ++ toBytes 8 time.toNat ++ toBytes 4 nq ++ toBytes 36 0

/-- The greatest SEQ in the directory. -/
def State.ckMaxSeq (s : State) : Nat :=
  (List.range 5).foldl (fun m i => max m (s.peek64 (ckEntry (BitVec.ofNat 3 i) + 8)).toNat) 0

/-- Dies' storage and its place in an image: physical base, length, offset (R443). -/
def ckParts : List (Nat × Nat × Nat) :=
  [(0, 0xC000000000, 0), (0x210000000000, 0x20000000, 0xC000000000)]
    ++ (List.range 4).map (fun d => (0x200000000000 + d * 0x08000000, 0x05000000, 0xC028000000 + d * 0x05000000))

/-- Frames of the dies' storage. -/
def inDies (pa : Nat) : Bool :=
  match regionOf pa with
  | .device | .shared _ | .scratch _ => true
  | _ => false

/-- Where a frame of the dies' storage stands in an image. -/
def ckOffset (pa : Nat) : Nat :=
  (ckParts.find? (fun p => decide (p.1 ≤ pa) && decide (pa < p.1 + p.2.1))).elim 0 (fun p => pa - p.1 + p.2.2)

/-- Errors that a copy of the bytes of a condition meets: uncorrectable data is quarantined, correctable errors are
repaired and counted (R116, R118). -/
def State.scrubAll (s : State) (p : Nat → Bool) : State :=
  let t := (s.dev.badBytes.filter (fun b => p b && !s.dev.quarantine.contains (frameOf b))).foldl (fun t b => t.quarantine b) s
  (s.dev.softBytes.filter p).foldl (fun t b => t.correct b 1) t

/-- A command of CKCTL that is accepted: SLOT and CMD read it, REF clear. -/
def State.ckAccept (s : State) (slot : BitVec 3) (cmd : BitVec 3) (run : Bool) : State :=
  s.onDev (fun d => { d with
    ckctl := (0#1 ++ slot ++ BitVec.ofBool run ++ cmd).setWidth 64
    ckRun := if run then some (cmd, slot) else none })

/-- CKCTL.BUSY. -/
def Device.ckBusy (d : Device) : Bool := d.ckRun.isSome

/-- DIERST.HOLD and INRST (R450). -/
def Device.hold (d : Device) : Bool := d.dierst.getLsbD 0
def Device.inReset (d : Device) : Bool := d.dierst.getLsbD 1

/-- A refused command of CKCTL (R444). -/
def State.ckRefuse (s : State) : State := s.onDev (fun d => { d with ckctl := putBit d.ckctl 7 true })

/-- CKCTL CMD 1: dispatch stops, every gang is to be pre-empted, the slot is being written (R444). -/
def State.ckTakeCmd (s : State) (slot : BitVec 3) : State :=
  if s.dev.ckBusy || 5 ≤ slot.toNat then s.ckRefuse
  else
    let s1 := (s.ckAccept slot 1 true).ckMark slot ckWriting
    { s1 with gangs := s1.gangs.map (fun x => match x.due with
        | none => { x with due := some .save }
        | some _ => x) }

/-- CKCTL CMD 2 (R444); a slot whose entry cannot be read is not VALID (log 28). -/
def State.ckRestoreCmd (s : State) (slot : BitVec 3) : State :=
  if s.dev.ckBusy || 5 ≤ slot.toNat then s.ckRefuse
  else
    let t := s.ckScrub
    if !s.ckReads || s.ckState slot != ckValid || !s.dev.hold then t.ckRefuse else t.ckAccept slot 2 true

/-- CKCTL CMD 3 (R444); where the entry cannot be written the command is refused (log 28). -/
def State.ckInvalidateCmd (s : State) (slot : BitVec 3) : State :=
  if s.dev.ckBusy || 5 ≤ slot.toNat then s.ckRefuse
  else
    let r := s.tryPoke (ckEntry slot + 4) [ckEmpty]
    if r.2 then r.1.ckAccept slot 3 false else r.1.ckRefuse

/-- A write of CKCTL (R444). -/
def State.ckCmd (s : State) (v : Word) : State :=
  let slot : BitVec 3 := fld v 4 3
  match (fld v 0 3 : BitVec 3).toNat with
  | 1 => s.ckTakeCmd slot
  | 2 => s.ckRestoreCmd slot
  | 3 => s.ckInvalidateCmd slot
  | _ => s.ckRefuse

/-- Puts a message out. -/
def State.send (s : State) (m : OutMsg) : State := s.onDev (fun d => { d with out := d.out ++ [m] })

/-- A write from outside is performed, with the completion that the host is owed; one to a quarantined frame, or one that
needs uncorrectable bytes, fails (R118, R119, R437, R440). -/
def State.landWrite (s : State) (w : HeldWrite) : State :=
  let no : OutMsg := match w.peer with
    | none => .writeError (BitVec.ofNat 52 w.pa)
    | some p => .peerRefused p
  let r := s.tryPoke w.pa w.bytes
  if !r.2 then r.1.send no
  else if w.peer.isNone then r.1.send (.writeDone (BitVec.ofNat 52 w.pa)) else r.1

/-- Host and peer writes held during a take are performed in their order (R444). -/
def State.flushHeld (s : State) : State :=
  let l := s.dev.heldWrites
  l.foldl State.landWrite (s.onDev (fun d => { d with heldWrites := [] }))

/-- An address lies in the image of a slot. -/
def inSlot (slot : BitVec 3) (pa : Nat) : Bool := decide (ckImage slot ≤ pa) && decide (pa < ckImage slot + 0xC040000000)

/-- The areas of an image whose layout is the device's own: register storage and the cluster structures (R443). -/
def ckRegArea (slot : BitVec 3) (pa : Nat) : Bool :=
  decide (ckImage slot + 0xC020000000 ≤ pa) && decide (pa < ckImage slot + 0xC028000000)
def ckStrArea (slot : BitVec 3) (pa : Nat) : Bool :=
  decide (ckImage slot + 0xC03C000000 ≤ pa) && decide (pa < ckImage slot + 0xC040000000)

/-- A byte of such an area since the last take: a free value, until a store writes it or its frame is released (R443, R446;
log 28). -/
def State.ownByte (s : State) (pa : Nat) : Option Byte :=
  (s.dev.ckOwn.find? (fun x => ckRegArea x.1 pa || ckStrArea x.1 pa)).bind (fun x =>
    if s.dev.ckKept.any (fun r => decide (r.1 ≤ pa) && decide (pa < r.1 + r.2)) then none else some (Config.freeByte (x.2 + (pa - (ckImage x.1 + 0xC000000000)))))

/-- Bytes of physical memory as the host and machine level read them. -/
def State.bytesAt (s : State) (pa n : Nat) : List Byte :=
  if s.dev.ckOwn.isEmpty then Memory.read s.mem pa n
  else (List.range n).map (fun i => (s.ownByte (pa + i)).getD (Memory.get s.mem (pa + i)))

/-- A store to the checkpoint region, at machine level. -/
def State.storeSlot (s : State) (pa : Nat) (l : List Byte) : State :=
  (s.poke pa l).onDev (fun d => { d with
    ckKept := if d.ckOwn.isEmpty then d.ckKept else (pa, l.length) :: d.ckKept })

/-- The areas in the device's own layout are written. -/
def State.ckOwnNew (s : State) (slot : BitVec 3) : State :=
  { s.onDev (fun d => { d with
      ckOwn := (slot, s.fresh) :: d.ckOwn.filter (fun x => x.1 != slot)
      ckKept := d.ckKept.filter (fun r => !inSlot slot r.1) }) with fresh := s.fresh + 0x40000000 }

/-- The copy of a take: every part, with quarantined frames as zeros (R444). -/
def State.ckCopy (s : State) (slot : BitVec 3) : State :=
  let base := ckImage slot
  let m := ckParts.foldl (fun m p => Memory.copy m p.1 p.2.1 (base + p.2.2)) s.mem
  let m := (s.dev.quarantine.filter (fun f => inDies (f * 65536))).foldl
    (fun m f => Memory.clear m (base + ckOffset (f * 65536)) (base + ckOffset (f * 65536) + 65536)) m
  { s.ckOwnNew slot with mem := m }

/-- The slot that holds an address of the checkpoint region, and the place in the dies that its image stands for. -/
def ckSource (slot : BitVec 3) (pa : Nat) : Option Nat :=
  let o := pa - ckImage slot
  if pa < ckImage slot then none
  else (ckParts.find? (fun p => decide (p.2.2 ≤ o) && decide (o < p.2.2 + p.2.1))).map (fun p => o - p.2.2 + p.1)

/-- The end of a take (R444); a quarantined frame of the slot's image takes no write, and a directory that cannot be read
gives no SEQ (R118, R119; log 28). -/
def State.ckTakeEnd (s : State) (slot : BitVec 3) (ok : Bool) (time : Word) : State :=
  let s0 := (s.scrubAll inDies).ckScrub
  let ok := ok && s.ckReads && !s0.dev.quarantine.any (fun f => inSlot slot (f * 65536))
  let s1 := (s0.ckCopy slot).onDev (fun d => { d with
    badBytes := d.badBytes.filter (fun b => !inSlot slot b)
    softBytes := d.softBytes.filter (fun b => !inSlot slot b) })
  let nq := (s0.dev.quarantine.filter (fun f => inDies (f * 65536))).length
  let s2 := if ok then (s1.tryPoke (ckEntry slot) (ckBytes ckValid (s.ckMaxSeq + 1) time nq)).1 else s1.ckMark slot ckBad
  let s3 := s2.onDev (fun d => { d with
    ckctl := putBit d.ckctl 3 false
    ckRun := none
    ckpts := (if ok then [⟨slot, s.ctxs, d.quadmap, s0.dev.quarantine, s.cores, s.clusters⟩] else [])
      ++ d.ckpts.filter (fun r => r.slot != slot) })
  s3.flushHeld

/-- Register storage of a core as an image holds it: vector and small-matrix registers, accumulators, and the words of
the block buffer (R14, R443). -/
def Core.withStorage (c r : Core) : Core :=
  { c with
    vec := { c.vec with v := r.vec.v }, mat := { c.mat with m := r.mat.m }, tile := { c.tile with acc := r.tile.acc }
    blk := { c.blk with words := r.blk.words } }

/-- The structures of a cluster as an image holds them: Quince and the translation cache (R443). -/
def Cluster.withStructures (c r : Cluster) : Cluster := { c with quince := r.quince, tlb := r.tlb }

/-- A context as an image holds it. What the power controller holds of the partition stays as it is: its limits, whether
it is held back, and THCAUSE but for HIST (R429–R432; log 28). -/
def Context.withImage (c r : Context) : Context :=
  { r with fpc := c.fpc, frk := c.frk, fq := c.fq, heldBack := c.heldBack, thcause := putFld c.thcause 16 (fld r.thcause 16 5 : BitVec 5) }

/-- THCAUSE of every partition shows its targets. -/
def State.showTargets (s : State) : State := (List.range 256).foldl (fun t i => t.showTarget (BitVec.ofNat 8 i)) s

/-- The registers of an image are written back, of the areas that can be read: register storage with the registers of
contexts, and the cluster structures (R118, R119; log 28). -/
def State.ckRegisters (s : State) (r : CkRecord) (regs strs : Bool) : State :=
  let f (c : Core) : Core := match r.cores.find? (fun x => x.ref == c.ref) with
    | some x => c.withStorage x
    | none => c
  State.showTargets <| State.dropBoost { s.mapCores (fun _ => regs) f with
    ctxs := if regs then Vector.ofFn (fun i : Fin 256 => s.ctxs[i].withImage r.ctxs[i]) else s.ctxs
    clusters := if strs then Vector.ofFn (fun i : Fin 16 => s.clusters[i].withStructures r.clusters[i]) else s.clusters
    dev := { s.dev with
      quadmap := if regs then r.quadmap else s.dev.quadmap
      quarantine := s.dev.quarantine ++ r.quarantine.filter (fun f => !s.dev.quarantine.contains f) } }

/-- The frames of the dies whose image cannot be read: zeros, and quarantined (R118, R119; log 28). -/
def State.ckLost (s : State) (slot : BitVec 3) (frames : List Nat) : State :=
  (frames.filterMap (fun f => ckSource slot (f * 65536))).foldl (fun t pa =>
    { t.onDev (fun d => { d with
        quarantine := if d.quarantine.contains (frameOf pa) then d.quarantine else frameOf pa :: d.quarantine })
      with mem := Memory.clear t.mem (frameOf pa * 65536) (frameOf pa * 65536 + 65536) }) s

/-- The end of a restore: both images, the registers of the record, the quarantines; the dies are released (R444). -/
def State.ckRestoreEnd (s : State) (slot : BitVec 3) : State :=
  let base := ckImage slot
  let s0 := s.scrubAll (inSlot slot)
  let reads (area : BitVec 3 → Nat → Bool) : Bool := !s0.dev.quarantine.any (fun f => area slot (f * 65536))
  let m := ckParts.foldl (fun m p => Memory.copy m (base + p.2.2) p.2.1 p.1) s0.mem
  let s1 := { s0.onDev (fun d => { d with
      ckctl := putBit d.ckctl 3 false, ckRun := none, dierst := putBit d.dierst 0 false
      badBytes := d.badBytes.filter (fun b => !inDies b), softBytes := d.softBytes.filter (fun b => !inDies b) }) with mem := m }
  let s2 := match s.dev.ckpts.find? (fun r => r.slot == slot) with
    | none => s1
    | some r => s1.ckRegisters r (reads ckRegArea) (reads ckStrArea)
  s2.ckLost slot s0.dev.quarantine

/-! ## Resets and power (R98, R450) -/

/-- The dies' storage holds undefined content, as if never written (R98; log 1). -/
def clearDies (m : List Host.Cell) : List Host.Cell := ckParts.foldl (fun m p => Memory.clear m p.1 (p.1 + p.2.1)) m

/-- A reset of the compute dies: every register at its reset value, HOLD and INRST set, the dies' storage undefined; the
second tier, the quarantines and what the management controller and the host keep stay; the cap set that the controller
holds is applied again at the next interval (R9, R98, R430, R450; log 29). -/
def State.dieResetAll (s : State) : State :=
  let s0 := s.flushHeld
  let d := s0.dev
  { State.reset with
    mem := clearDies s0.mem
    nextGang := s.nextGang
    dev := { Device.reset with
      ckpts := d.ckpts, ckOwn := d.ckOwn, ckKept := d.ckKept, quarantine := d.quarantine, badBytes := d.badBytes, softBytes := d.softBytes
      hostLinkDown := d.hostLinkDown, mainPower := d.mainPower, auxPower := d.auxPower, auxLost := d.auxLost
      interval := d.interval, moduleCap := d.moduleCap, capSeq := d.capSeq, pendingCap := d.pendingCap.orElse (fun _ => d.caps), caps := d.caps, out := d.out }
    ev := s.ev
    sched := s.sched
    fresh := s.fresh }

/-- A write of DIERST (R450). -/
def State.dierstWrite (s : State) (hold : Bool) : State :=
  if hold then s.dieResetAll
  else if s.dev.mainPower then s.onDev (fun d => { d with dierst := putBit d.dierst 0 false }) else s

/-- The second tier as if never written (R98). -/
def clearTier (m : List Host.Cell) : List Host.Cell := Memory.clear m 0x100000000000 0x140000000000

/-! ## SPOWN (R440, R441) -/

/-- Log2 of the capacity, and the base of a send ring (R440). -/
def springLog (x : Word) : Nat := (fld x 60 4).toNat
def springBase (x : Word) : Word := sext (fld x 0 56)

/-- What ECC makes of a read of TAIL (R116–R118). -/
def State.springScrub (s : State) (p : BitVec 4) : State :=
  let x := rget s.dev.spaes p
  if springLog x.spring = 0 then s else s.unitScrub (fld x.spown 0 8) (springBase x.spring - 8) 8

/-- TAIL of a send ring: the n64 just below it; none where it cannot be read (R440). -/
def State.springTail (s : State) (p : BitVec 4) : Option Word :=
  let x := rget s.dev.spaes p
  match translateCtx s (fld x.spown 0 8) .xread (springBase x.spring - 8) with
  | .ok pa => if s.badAt pa 8 then none else some (s.peek64 pa)
  | .error _ => none

/-- The receive window of a port: physical base and length (R440). -/
def sprxBase (x : Word) : Nat := (fld x 16 36).toNat * 65536
def sprxLen (x : Word) : Nat := (fld x 52 12).toNat * 65536

/-- The ring holds entries not yet completed, or peer writes to the window are held (R441, R444). -/
def State.spaesBusy (s : State) (p : BitVec 4) : Bool :=
  let x := rget s.dev.spaes p
  x.busy.isSome
    || (springLog x.spring != 0 && (match s.springTail p with
        | some t => t != x.head
        | none => false))
    || s.dev.heldWrites.any (fun w => w.peer == some p && decide (sprxBase x.sprx ≤ w.pa)
        && decide (w.pa < sprxBase x.sprx + sprxLen x.sprx))

/-- A write of SPOWN (R441): V and CTX; a change is refused while the port is busy, and clears SPRING and SPRX. -/
def State.spownWriteCmd (s : State) (p : BitVec 4) (v : Word) : State :=
  let x := rget s.dev.spaes p
  let new : Word := (fld v 63 1 ++ 0#55 ++ fld v 0 8 : BitVec 64)
  let changes : Bool := fld v 63 1 != fld x.spown 63 1 || fld v 0 8 != fld x.spown 0 8
  let put (t : State) (y : SpaesPort) : State := t.onDev (fun d => { d with spaes := rset d.spaes p y })
  if !changes then put s { x with spown := new }
  else if s.spaesBusy p then put (s.springScrub p) { x with spown := putBit x.spown 62 true }
  else put (s.springScrub p) { SpaesPort.reset with spown := new }

/-! ## The module control space (R6, R96) -/

/-- The registers of the module control space. -/
inductive CtlReg where
  | quadmap (q : BitVec 6)
  | ckctl
  | qrel
  | spown (p : BitVec 4)
  | dierst
  | clpctl (c : BitVec 4)
  | clpstat (c : BitVec 4)
  | svc (c : BitVec 4)
  | svcAddr (c : BitVec 4)
  deriving DecidableEq, Repr

/-- The register at an address that is a multiple of 8; none where no register stands (log 30). -/
def ctlReg (pa : Nat) : Option CtlReg :=
  let o := pa - 0x300000000000
  if pa < 0x300000000000 || pa % 8 != 0 then none
  else if 0x1000 ≤ o && o < 0x1200 then some (.quadmap (BitVec.ofNat 6 ((o - 0x1000) / 8)))
  else if o = 0x2000 then some .ckctl
  else if o = 0x3000 then some .qrel
  else if 0x4000 ≤ o && o < 0x4080 then some (.spown (BitVec.ofNat 4 ((o - 0x4000) / 8)))
  else if o = 0x5000 then some .dierst
  else if 0x100000 ≤ o && o < 0x100400 then
    let c := BitVec.ofNat 4 ((o - 0x100000) / 0x40)
    match o % 0x40 with
    | 0x00 => some (.clpctl c)
    | 0x08 => some (.clpstat c)
    | 0x10 => some (.svc c)
    | 0x18 => some (.svcAddr c)
    | _ => none
  else none

/-- A count as an 8-bit field that does not overflow. -/
def field8 (n : Nat) : BitVec 8 := BitVec.ofNat 8 (min n 255)

/-- What a register of the control space reads (R6). -/
def ctlRead (s : State) : CtlReg → Word
  | .quadmap q => rget s.dev.quadmap q
  | .ckctl => s.dev.ckctl
  | .qrel => zext s.dev.qrel
  | .spown p => (rget s.dev.spaes p).spown
  | .dierst => s.dev.dierst
  | .clpctl _ => 0
  | .clpstat c =>
    putFld (putFld (s.clAt c).clpstat 16 (field8 (s.heldAt c).length)) 8 (field8 (s.inflight c))
  | .svc c => (s.clAt c).svc
  | .svcAddr c => (s.clAt c).svcAddr

/-- A write of a register of the control space by its access types (R6). -/
def ctlWrite (s : State) (r : CtlReg) (v : Word) : State :=
  match r with
  | .quadmap q =>
    let t := (s.onDev (fun d => { d with quadmap := rset d.quadmap q (v &&& 0xC0000000000000FF) })).dropBoost
    (t.showTarget (fld (rget s.dev.quadmap q) 0 8)).showTarget (fld v 0 8)
  | .ckctl => s.ckCmd v
  | .qrel => s.qrelCmd v
  | .spown p => s.spownWriteCmd p v
  | .dierst => s.dierstWrite (v.getLsbD 0)
  | .clpctl c => s.clpCmd c (fld v 0 3)
  | .clpstat _ => s
  | .svc c => s.svcCmd c (fld v 0 3)
  | .svcAddr c => s.onCl c (fun x => { x with svcAddr := v })

/-- Bytes of the control space: those of the words that hold them. -/
def ctlBytes (s : State) (pa : Nat) : Nat → List Byte
  | 0 => []
  | n + 1 =>
    (match ctlReg (pa / 8 * 8) with
      | some r => getF 8 (ctlRead s r) (pa % 8)
      | none => 0) :: ctlBytes s (pa + 1) n

/-- A store of 1, 2, 4 or 8 bytes to the control space: the bytes are merged into what the register reads, and the word
is written (log 30). -/
def ctlStore (s : State) (pa : Nat) (l : List Byte) : State :=
  match ctlReg (pa / 8 * 8) with
  | some r =>
    ctlWrite s r (l.zipIdx.foldl (fun w b => setF w (pa % 8 + b.2) b.1) (ctlRead s r))
  | none => s

/-! ## The events -/

/-- CLP_QUIESCE: the management controller writes CMD 1 (R434). -/
def execClpQuiesce (s : State) : Out := .next (s.clpQuiesceCmd s.ev.cl)

/-- CLP_GATE: CMD 2 (R434). -/
def execClpGate (s : State) : Out := .next (s.clpGateCmd s.ev.cl)

/-- CLP_WAKE: CMD 3 (R434). -/
def execClpWake (s : State) : Out := .next (s.clpWakeCmd s.ev.cl)

/-- CLP_OPEN: CMD 4 (R434). -/
def execClpOpen (s : State) : Out := .next (s.clpOpenCmd s.ev.cl)

/-- CLP_QUIESCED: accepted remote accesses have drained; a placement or a held request then wakes the cluster (R434,
R435). -/
def execClpQuiesced (s : State) : Out :=
  let c := s.clAt s.ev.cl
  if c.state = clQuiescing && s.inflight s.ev.cl == 0 then
    let s1 := s.onCl s.ev.cl (fun c => { c with clpstat := putFld c.clpstat 0 clQuiesced })
    .next (if s.occupied s.ev.cl || !(s.heldAt s.ev.cl).isEmpty then s1.wakeCluster s.ev.cl else s1)
  else notDue "CLP_QUIESCED"

/-- CLP_GATED: retention is complete (R434). -/
def execClpGated (s : State) : Out :=
  if (s.clAt s.ev.cl).state = clSaving then
    .next (s.onCl s.ev.cl (fun c => { c with clpstat := putFld c.clpstat 0 clGated }))
  else notDue "CLP_GATED"

/-- CLP_AWAKE: the cluster returns to RUN; held requests then proceed in their order of arrival (R434). -/
def execClpAwake (s : State) : Out :=
  if (s.clAt s.ev.cl).state = clWaking then
    .next (s.onCl s.ev.cl (fun c => { c with clpstat := putFld c.clpstat 0 clRun }))
  else notDue "CLP_AWAKE"

/-- SVC_ISOLATE: CMD 1 (R446). -/
def execSvcIsolate (s : State) : Out := .next (s.svcIsolateCmd s.ev.cl)

/-- SVC_RECALIBRATE: CMD 2 (R446). -/
def execSvcRecalibrate (s : State) : Out := .next (s.svcRunCmd s.ev.cl 2)

/-- SVC_LOAD_MICROCODE: CMD 3 (R446). -/
def execSvcLoadMicrocode (s : State) : Out := .next (s.svcRunCmd s.ev.cl 3)

/-- SVC_RETURN: CMD 4 (R446). -/
def execSvcReturn (s : State) : Out := .next (s.svcReturnCmd s.ev.cl)

/-- SVC_DONE: the running command completes and sets DONE; a load takes the microcode at the given address (R446). -/
def execSvcDone (s : State) : Out :=
  let c := s.clAt s.ev.cl
  if c.svcBusy = 0 then notDue "SVC_DONE"
  else .next (s.onCl s.ev.cl (fun c => { c with
    svc := putBit c.svc 3 true, svcBusy := 0, microcode := if c.svcBusy = 3 then c.svcAddr else c.microcode }))

/-- QREL_RELEASE: the management controller writes QREL (R446). -/
def execQrelRelease (s : State) : Out := .next (s.qrelCmd s.ev.val)

/-- QREL_COMPLETE (R446). -/
def execQrelComplete (s : State) : Out :=
  if s.dev.qrel = qrelBusy then .next (s.qrelEnd s.ev.ok) else notDue "QREL_COMPLETE"

/-- CKPT_TAKE: CMD 1 of a slot (R444). -/
def execCkptTake (s : State) : Out := .next (s.ckTakeCmd s.ev.slot)

/-- CKPT_TAKE_COMPLETE: due once every gang has been pre-empted (R444). -/
def execCkptTakeComplete (s : State) : Out :=
  match s.dev.ckRun with
  | some (1, slot) =>
    if s.gangs.isEmpty then .next (s.ckTakeEnd slot s.ev.ok s.ev.time) else notDue "CKPT_TAKE_COMPLETE"
  | _ => notDue "CKPT_TAKE_COMPLETE"

/-- CKPT_RESTORE: CMD 2 of a slot (R444). -/
def execCkptRestore (s : State) : Out := .next (s.ckRestoreCmd s.ev.slot)

/-- CKPT_RESTORE_COMPLETE (R444). -/
def execCkptRestoreComplete (s : State) : Out :=
  match s.dev.ckRun with
  | some (2, slot) => .next (s.ckRestoreEnd slot)
  | _ => notDue "CKPT_RESTORE_COMPLETE"

/-- CKPT_INVALIDATE: CMD 3 of a slot (R444). -/
def execCkptInvalidate (s : State) : Out := .next (s.ckInvalidateCmd s.ev.slot)

/-- DIE_RESET: a reset of the compute dies, whatever starts it (R450). -/
def execDieReset (s : State) : Out := .next s.dieResetAll

/-- DIE_RELEASE: a write of HOLD = 0 (R450). -/
def execDieRelease (s : State) : Out := .next (s.dierstWrite false)

/-- FIRMWARE_INIT_COMPLETE: the FW values stand, and INRST reads 0 (R450). -/
def execFirmwareInitComplete (s : State) : Out :=
  if s.dev.inReset && !s.dev.hold then .next (s.onDev (fun d => { d with dierst := putBit d.dierst 1 false }))
  else notDue "FIRMWARE_INIT_COMPLETE"

/-- MAIN_POWER_LOSS: the compute dies are down, and in reset; auxiliary power keeps the second tier (R98). -/
def execMainPowerLoss (s : State) : Out :=
  if s.dev.mainPower then .next (s.dieResetAll.onDev (fun d => { d with mainPower := false }))
  else notDue "MAIN_POWER_LOSS"

/-- MAIN_POWER_RETURN: the compute dies come up in reset (R98, R450). -/
def execMainPowerReturn (s : State) : Out :=
  if !s.dev.mainPower && s.dev.auxPower then .next (s.dieResetAll.onDev (fun d => { d with mainPower := true }))
  else notDue "MAIN_POWER_RETURN"

/-- AUX_POWER_LOSS: the whole second tier is lost, and with it every slot; the management controller loses its caps
(R98, R444; log 29). -/
def execAuxPowerLoss (s : State) : Out :=
  if s.dev.auxPower then
    .next { s.onDev (fun d => { d with
        auxPower := false, auxLost := true, ckpts := [], ckOwn := [], ckKept := [], ckRun := none, ckctl := putBit d.ckctl 3 false
        moduleCap := 0, capSeq := 0, pendingCap := none, caps := none })
      with mem := clearTier s.mem }
  else notDue "AUX_POWER_LOSS"

/-- COLD_START after a loss of auxiliary power: the controller writes every directory entry EMPTY, where the directory is
not quarantined (R98, R119, R443). -/
def execColdStart (s : State) : Out :=
  if s.dev.auxPower then notDue "COLD_START"
  else
    let s1 := s.dieResetAll.onDev (fun d => { d with mainPower := true, auxPower := true, auxLost := false })
    .next ((List.range 5).foldl (fun t i => (t.tryPoke (ckEntry (BitVec.ofNat 3 i)) (ckBytes ckEmpty 0 0 0)).1) s1)

/-- PATROL_SCRUB of an address in device memory or the second tier: a correctable error is repaired and counted; an
uncorrectable one quarantines its frame (R116, R118). -/
def execPatrolScrub (s : State) : Out :=
  let pa := s.ev.pa.toNat
  match regionOf pa with
  | .device | .tier | .checkpoint =>
    if s.dev.softBytes.contains pa then
      .next (s.onDev (fun d => { d with
        softBytes := d.softBytes.filter (fun b => b != pa), ecccnt := eccCount d.ecccnt (eccField pa) }))
    else if s.dev.badBytes.contains pa && !s.dev.quarantine.contains (frameOf pa) then .next (s.quarantine pa)
    else .next s
  | _ => notDue "PATROL_SCRUB"

/-- SOFT_ERROR: an error arises in memory, found when it is next read or scrubbed, or in register storage: a
correctable one is repaired and counted, an uncorrectable one stays until the register is written (R116, R119). -/
def execSoftError (s : State) : Out :=
  match s.ev.site with
  | .mem pa true =>
    .next (if s.dev.softBytes.contains pa.toNat then s
      else s.onDev (fun d => { d with softBytes := pa.toNat :: d.softBytes }))
  | .mem pa false =>
    .next (if s.dev.badBytes.contains pa.toNat then s
      else s.onDev (fun d => { d with badBytes := pa.toNat :: d.badBytes }))
  | .reg _ _ true => .next (s.onDev (fun d => { d with ecccnt := eccCount d.ecccnt 16 }))
  | .reg c r false =>
    .next (s.mapCore c (fun x => { x with regErr := if x.regErr.contains r then x.regErr else r :: x.regErr }))

/-- SPOWN_WRITE: the management controller writes SPOWN (R441). -/
def execSpownWrite (s : State) : Out := .next (s.spownWriteCmd s.ev.p s.ev.val)

/-- FIRMWARE_CORE_RESTART: a halted firmware core starts at MTVEC, its other registers unchanged (R417). -/
def execFirmwareCoreRestart (s : State) : Out :=
  let r : CoreRef := 1#1 ++ (0#6 ++ s.ev.die)
  match s.coreAt r with
  | some c =>
    if c.run = .halted then
      .next (s.mapCore r (fun c => { c with run := .running, pc := fld c.sys.mtvec 2 62 ++ 0#2, wait := none }))
    else notDue "FIRMWARE_CORE_RESTART"
  | none => notDue "FIRMWARE_CORE_RESTART"

end Sys2Proof.Machine
end

