-- ==== Sys2Proof/Machine/Access.lean ====
section
/-! DEFINITION. One access to memory, by a core or by one of its engines: translation, the checks of R127 in order, the
windows of R153, the order of streams and tile forms (R160, R277, R289), deterministic pages (R338) and covered accesses
(R317). Every access is of 1, 2, 4 or 8 bytes, aligned. -/

namespace Sys2Proof.Machine

/-- An access does not go through: it faults, or stands at a wait point. -/
inductive Stop where
  | fault (f : MemFault)
  | wait (w : Wait)
  deriving DecidableEq, Repr

/-- The end of a form whose access does not go through, at an element. -/
def Stop.res (s : State) (elem : Nat) : Stop → Res
  | .fault f => .trap s (f.trap elem)
  | .wait w => .wait s w

/-! ## Streams: where element e lies (R144–R147) -/

/-- log2 of the size in bytes of a stream format (R144). -/
def fmtLog (c : BitVec 5) : Nat :=
  match Tag.ofCode c with
  | some t => if t.width = 8 then 0 else if t.width = 16 then 1 else if t.width = 32 then 2 else 3
  | none => 0

/-- Format codes that a stream accepts (R144). -/
def streamFmt (c : BitVec 5) : Bool := c.ule 7 || (BitVec.ule 0x0C c && c.ule 0x10)

/-- fsz and nsz. -/
def StreamCmd.fsz (c : StreamCmd) : Nat := 2 ^ fmtLog c.ffmt
def StreamCmd.nsz (c : StreamCmd) : Nat := 2 ^ fmtLog c.nfmt

/-- op bits (R143). -/
def StreamCmd.dc (c : StreamCmd) : Bool := c.op.getLsbD 0
def StreamCmd.cv (c : StreamCmd) : Bool := c.op.getLsbD 1
def StreamCmd.tr (c : StreamCmd) : Bool := c.op.getLsbD 2
def StreamCmd.pz (c : StreamCmd) : Bool := c.op.getLsbD 3

/-- The stream is indexed. -/
def StreamCmd.indexed (c : StreamCmd) : Bool := c.kind == .gth || c.kind == .sct

/-- The stream empties its near side (R140). -/
def StreamCmd.empties (c : StreamCmd) : Bool := c.kind == .st || c.kind == .sct

/-- i0, i1, i2 of a pattern element (R146). -/
def StreamCmd.i0 (c : StreamCmd) (e : Nat) : Nat := e % c.c0.toNat
def StreamCmd.i1 (c : StreamCmd) (e : Nat) : Nat := e / c.c0.toNat % c.c1.toNat
def StreamCmd.i2 (c : StreamCmd) (e : Nat) : Nat := e / (c.c0.toNat * c.c1.toNat)

/-- Start of the row of an element (R146). -/
def StreamCmd.row (c : StreamCmd) (e : Nat) : Word :=
  c.base + BitVec.ofNat 64 (c.i1 e) * c.s1 + BitVec.ofNat 64 (c.i2 e) * c.s2

/-- Far address of an element of a pattern stream (R146); xs.cp forms offsets without wrapping. -/
def StreamCmd.farInt (c : StreamCmd) (e : Nat) : Int :=
  c.base.toNat + (c.i1 e : Int) * c.s1.toInt + (c.i2 e : Int) * c.s2.toInt + (c.i0 e * c.fsz : Nat)

/-- Address of the index word of an element (R147). -/
def StreamCmd.indexAddr (c : StreamCmd) (e : Nat) : Word := c.s1 + BitVec.ofNat 64 (4 * e)

/-- Far address of an element of an indexed stream, from its index (R147). -/
def StreamCmd.indexedFar (c : StreamCmd) (x : BitVec 32) : Word := c.base + sext x * BitVec.ofNat 64 c.fsz

/-- Near index of an element (R146). -/
def StreamCmd.nearIx (c : StreamCmd) (e : Nat) : Nat :=
  if c.tr then c.i1 e + c.c1.toNat * (c.i0 e + c.c0.toNat * c.i2 e) else e

/-- B0′ and B1′ (R146). -/
def StreamCmd.bound0 (c : StreamCmd) : Nat := if c.b0 = 0 then c.c0.toNat else c.b0.toNat
def StreamCmd.bound1 (c : StreamCmd) : Nat := if c.b1 = 0 then c.c1.toNat else c.b1.toNat

/-- inside, from the index for indexed streams (R146, R147). -/
def StreamCmd.inside (c : StreamCmd) (e : Nat) (x : BitVec 32) : Bool :=
  if !c.pz then true
  else if c.indexed then c.b0 = 0 || (decide (0 ≤ x.toInt) && decide (x.toInt < c.b0.toNat))
  else decide (c.i0 e < c.bound0) && decide (c.i1 e < c.bound1)

/-! ## Ranges that a later access must respect -/

/-- [a, a+n) and [b, b+m) meet. -/
def meets (a n b m : Nat) : Bool := decide (a < b + m) && decide (b < a + n)

/-- The index word of an element as memory holds it now; none if it cannot be read. -/
def State.peekIndex (s : State) (c : StreamCmd) (e : Nat) : Option (BitVec 32) :=
  match translate s c.pl .xread (c.indexAddr e) with
  | .ok x => some ((wordOfBytes (Memory.read s.mem x.pa 4)).setWidth 32)
  | .error _ => none

/-- Pattern elements that a stream has still to perform. -/
def StreamCmd.rest (c : StreamCmd) : List Nat :=
  (List.range' c.next (c.exp.toNat - c.next)).filter (fun e => !c.ahead.any (fun a => a.1 == e))

/-- Far bytes of the elements that a stream has still to perform: virtual address, in xs.cp the scratchpad offset, and
length (R146, R147, R160). -/
def State.farRanges (s : State) (c : StreamCmd) : List (Nat × Nat) :=
  if c.dc then
    -- compressed rows: no more than 8 + 64·fsz bytes a block (R150)
    c.rest.filterMap (fun e =>
      if c.i0 e % 64 = 0 || e = c.next then
        some ((c.row e).toNat, (c.i0 e / 64 + 1) * (8 + 64 * c.fsz)) else none)
  else
    c.rest.filterMap (fun e =>
      if c.indexed then
        match s.peekIndex c e with
        | some x => if c.inside e x then some ((c.indexedFar x).toNat, c.fsz) else none
        | none => none
      else if c.inside e 0 then some ((BitVec.ofInt 64 (c.farInt e)).toNat, c.fsz) else none)

/-- An aligned access of n bytes at a physical address meets a range of virtual addresses of a level: the addresses of
the range that agree with it below the least page size are translated (R160). -/
def State.rangeHit (s : State) (pl : BitVec 2) (kind : AccKind) (pa n : Nat) (r : Nat × Nat) : Bool :=
  (List.range (r.2 / 65536 + 2)).any (fun k =>
    let va := r.1 / 65536 * 65536 + k * 65536 + pa % 65536
    meets va n r.1 r.2 && (match translate s pl kind (BitVec.ofNat 64 va) with
      | .ok x => x.pa == pa
      | .error _ => false))

/-- An access at a physical address meets far bytes that a stream has still to perform. -/
def State.farHit (s : State) (c : StreamCmd) (pa n : Nat) : Bool :=
  if c.kind == .cp then (s.farRanges c).any (fun r => meets pa n (scratchBase s.core.id.toNat + r.1) r.2)
  else (s.farRanges c).any (s.rangeHit c.pl (if c.empties then .xwrite else .xread) pa n)

/-- An access at a physical address meets bytes of a MODE 1 near region at b that a stream has still to perform (R148,
R160). -/
def State.regionHit (s : State) (c : StreamCmd) (b : Word) (pa n : Nat) : Bool :=
  c.rest.any (fun e => s.rangeHit c.pl (if c.empties then .xread else .xwrite) pa n (b.toNat + c.nsz * c.nearIx e, c.nsz))

/-- The stream writes memory (R161). -/
def StreamCmd.writesMem (c : StreamCmd) : Bool := c.empties || (match c.near with
  | .region _ => true
  | _ => false)

/-- Chunks of a pl.dec (R286). -/
def SloeCmd.nc (c : SloeCmd) : Nat := (fld c.gb 0 5).toNat
def SloeCmd.fc (c : SloeCmd) : Nat := (fld c.gb 16 16).toNat

/-- A later access conflicts with what a Sloe command has still to read (R289). -/
def State.sloeConflict (s : State) (c : SloeCmd) (pa n : Nat) (write : Bool) : Bool :=
  write && !c.removed && match c.kind with
    | .dec => decide (c.chunks.length < c.nc)
    | .bm25 => s.rangeHit c.pl .xread pa n (c.doc0.toNat, 2 * (fld c.doc1 0 32).toNat)
    | _ => false

/-- Equally spaced ranges of scratchpad. -/
structure Span where
  base : Nat
  stride : Nat
  len : Nat
  count : Nat
  writes : Bool
  deriving DecidableEq, Repr

/-- A span meets [a, a+n). -/
def Span.meets (x : Span) (a n : Nat) : Bool :=
  (List.range x.count).any (fun l => Machine.meets a n (x.base + x.stride * l) x.len)

/-- Fields of a tile descriptor (R268). -/
def tdW (a : Word) : Nat := (fld a 48 5).toNat
def tdRuns (a : Word) : Nat := (fld a 42 6).toNat
def tdEbase (a : Word) : Nat := (fld a 21 21).toNat
def tdBase (a : Word) : Nat := (fld a 0 21).toNat
def tdEs (b : Word) : Nat := (fld b 48 16).toNat
def tdRs (b : Word) : Nat := (fld b 32 16).toNat
def tdLines (b : Word) : Nat := (fld b 0 16).toNat

/-- tl.desc takes cause 0x6F: not the words of a descriptor that is set (R268). -/
def descBad (a b : Word) : Bool :=
  fld a 53 11 != 0 || fld b 16 16 != 0
    || decide (tdW a < 2) || decide (16 < tdW a) || decide (tdRuns a = 0) || decide (32 < tdRuns a)
    || decide (tdLines b = 0) || decide (tdBase a % 8 ≠ 0)
    || (decide (1 < tdLines b) && (decide (tdRs b < tdRuns a * tdW a) || decide (tdEs b < tdRuns a)))
    || decide (2 ^ 21 < tdBase a + 8 * tdRs b * (tdLines b - 1) + 8 * tdW a * tdRuns a)
    || decide (2 ^ 21 < tdEbase a + tdEs b * (tdLines b - 1) + tdRuns a)

/-- The words of an undefined descriptor: those of a free pair that tl.desc could have set, else of one that is not set
(R10, R268, R373; log 12). -/
def freeDesc (k : Nat) : Word × Word :=
  let x := (Config.freeWord k, Config.freeWord (k + 1))
  if descBad x.1 x.2 then (0, 0) else x

/-- Run and exponent bytes of a descriptor (R267, R277). -/
def TileState.tdSpans (t : TileState) (n : BitVec 4) (writes : Bool) : List Span :=
  let a := rget t.tda n
  let b := rget t.tdb n
  [⟨tdBase a, 8 * tdRs b, 8 * tdW a * tdRuns a, tdLines b, writes⟩, ⟨tdEbase a, tdEs b, tdRuns a, tdLines b, writes⟩]

/-- The scratchpad footprint of a queued tile form (R277). -/
def TileState.footprint (t : TileState) (c : TileCmd) : List Span :=
  match decode c.word with
  | .ok (.tlMma _ a b) | .ok (.tlMmz _ a b) | .ok (.tlMms _ a b) => t.tdSpans a false ++ t.tdSpans b false
  | .ok (.tlLdp d _ _ _) => t.tdSpans d true
  | .ok (.tlLdsc d _ _ _ _) => t.tdSpans d true
  | .ok (.tlStp d _ _) => t.tdSpans d false
  | _ => []

/-- An access to scratchpad bytes conflicts with an incomplete tile form (R277). -/
def TileState.conflict (t : TileState) (off n : Nat) (write : Bool) : Bool :=
  t.queue.any (fun c => (t.footprint c).any (fun x => (write || x.writes) && x.meets off n))

/-! ## Channel windows (R153) -/

/-- What a window says to an access of scratchpad bytes: nothing, a stall, or cause 0x63 of a channel. -/
inductive WinHit where
  | ok
  | stall
  | failed (c : BitVec 3)
  deriving DecidableEq, Repr

/-- The bytes at or above WM of a channel's window: from and to (R152, R153). -/
def PortState.pending (p : PortState) (c : BitVec 3) : Nat × Nat :=
  let w := rget p.chwin c
  let x := rget p.xstat (0#1 ++ c)
  (chWm w, chBase w + xExp x * 2 ^ (xNsz x).toNat)

/-- One channel's answer to an access of [off, off+n). That a channel bound to a ring has no window, though R153 takes one
from CHWIN and XSTAT, is the model's choice (log 110). -/
def PortState.windowOne (p : PortState) (c : BitVec 3) (off n : Nat) (write : Bool) : WinHit :=
  let x := rget p.xstat (0#1 ++ c)
  let r := p.pending c
  if x.getLsbD 59 || !meets off n r.1 (r.2 - r.1) || r.2 ≤ r.1 then .ok
  else if xState x == stError || xState x == stOverfill then .failed c
  else if xState x == stRecv || (xState x == stActive && !xDir x) then .stall
  else if xState x == stActive && xDir x && write then .stall
  else .ok

/-- The answer of the channels together: a failure first, then a stall. -/
def PortState.window (p : PortState) (off n : Nat) (write : Bool) : WinHit :=
  let hits := (List.range 8).map (fun c => p.windowOne (BitVec.ofNat 3 c) off n write)
  match hits.find? (fun h => match h with | .failed _ => true | _ => false) with
  | some h => h
  | none => if hits.contains .stall then .stall else .ok

/-- Scratchpad bytes conflict with the window of a command that has not started (R160, R277). -/
def Cmd.windowHold (off n : Nat) (write : Bool) : Cmd → Bool
  | .stream c => match c.near with
    | .window b => !c.active && (write || !c.empties) && meets off n b.toNat (c.exp.toNat * c.nsz)
    | _ => false
  | .sloe c => !c.active && !c.removed && meets off n c.base.toNat (c.exp.toNat * 8)

/-- A scalar, vector or small-matrix access of such bytes waits; a command behind a failed port holds none of them back
(R153, R160, R141; log 31). -/
def State.nearHold (s : State) (off n : Nat) (write : Bool) (c : Cmd) : Bool :=
  xState (s.xstat c.port) != stError && xState (s.xstat c.port) != stOverfill && c.windowHold off n write

/-! ## One access -/

/-- The access reads or writes a page with DT = 1. -/
def Xl.dt (x : Xl) : Bool := x.attr pteDT

/-- Offset within the scratchpad of the core in focus, if the address lies there (R16, R107). -/
def State.ownOffset (s : State) (pa : Nat) : Option Nat :=
  match regionOf pa with
  | .scratch c => if c = s.core.id.toNat && !s.core.fw then some (pa - scratchBase c) else none
  | _ => none

/-- Rowan's commands before one: where several are equal, before the last of them. -/
def Core.before (x : Core) (c : StreamCmd) : List Cmd := (x.cmds.reverse.dropWhile (fun y => y != .stream c)).tail

/-- A stream writes the index word at a physical address. -/
def State.writesIndex (s : State) (pa : Nat) : Cmd → Bool
  | .stream d => (d.empties && s.farHit d pa 4) || (match d.near with
    | .region b => !d.empties && s.regionHit d b pa 4
    | _ => false)
  | .sloe _ => false

/-- The index of an element that an indexed stream has still to perform may yet be written, by an earlier command or in a
window of the core that is being filled: where its far bytes lie is not known (R147, R153, R160). -/
def State.indexOpen (s : State) (c : StreamCmd) : Bool :=
  c.indexed && c.rest.any (fun e => match translate s c.pl .xread (c.indexAddr e) with
    | .ok x => (s.core.before c).any (s.writesIndex x.pa) || (match s.ownOffset x.pa with
      | some off => s.core.port.window off 4 false == .stall || (s.core.before c).any (s.nearHold off 4 false)
      | none => false)
    | .error _ => false)

/-- A later access of the core at a physical address conflicts with what a stream has still to perform (R160). -/
def State.streamConflict (s : State) (c : StreamCmd) (pa n : Nat) (write : Bool) : Bool :=
  ((write || c.empties) && (s.farHit c pa n || s.indexOpen c))
  || (write && c.indexed && s.rangeHit c.pl .xread pa n ((c.indexAddr c.next).toNat, 4 * (c.exp.toNat - c.next)))
  || (match c.near with
      | .region b => (write || !c.empties) && s.regionHit c b pa n
      | _ => false)

/-- A later access at a physical address conflicts with a command of Rowan. -/
def State.cmdConflict (s : State) (pa n : Nat) (write : Bool) : Cmd → Bool
  | .stream c => s.streamConflict c pa n write
  | .sloe c => s.sloeConflict c pa n write

/-- The access is to another core's scratchpad (R107). -/
def State.foreignScratch (s : State) (pa : Nat) : Bool :=
  match regionOf pa with
  | .scratch _ => (s.ownOffset pa).isNone
  | _ => false

/-- ECC and host-link checks of the data (R106, R118, R119, R127): a store of fewer than eight bytes needs the old bytes
of its granule (log 82). -/
def State.dataFault (s : State) (kind : AccKind) (pa n : Nat) : Option (BitVec 8 × Option Nat) :=
  if s.quarantined pa n then some (0xC4, none)
  else match (if kind.reads || kind == .fetch then (eccFault s.dev pa n).bind (fun x => x.2) else s.narrowBad pa n) with
    | some b => some (eccCause b, some b)
    | none => if regionOf pa == .host && s.dev.hostLinkDown then some (0x2D, none) else none

/-- An access of n bytes at va, of earlier commands that it must respect (R127, R153, R160, R277). -/
def reach (s : State) (earlier : List Cmd) (pl : BitVec 2) (kind : AccKind) (va : Word) (n : Nat) : Except Stop Xl :=
  let err (c : BitVec 8) (bad w : Option Nat) : Except Stop Xl := .error (.fault ⟨c, va, kind.code, 0xF, bad, w⟩)
  if !canonical va then err 0x20 none none
  else if va.toNat % n != 0 then err 0x2A none none
  else match translate s pl kind va with
    | .error f => .error (.fault f)
    | .ok x =>
      let flt (c : BitVec 8) (bad : Option Nat) := err c bad (x.walked va)
      if s.foreignScratch x.pa then flt 0x29 none
      else if regionOf x.pa == .control && (ctlReg (x.pa / 8 * 8)).isNone then flt 0x28 none
      else if x.dt && !s.core.vec.det then flt 0xA1 none
      else
        let win := match s.ownOffset x.pa with
          | some off => s.core.port.window off n kind.writes
          | none => .ok
        match win with
        | .failed c => .error (.fault ⟨0x63, zext (fld (s.xfault (0#1 ++ c)) 0 56), kind.code, 0xF, none, x.walked va⟩)
        | .stall => .error (.wait .watermark)
        | .ok =>
          if earlier.any (s.cmdConflict x.pa n kind.writes)
            || (match s.ownOffset x.pa with
                | some off => s.core.tile.conflict off n kind.writes || earlier.any (s.nearHold off n kind.writes)
                | none => false) then .error (.wait .dauStall)
          else match s.dataFault kind x.pa n with
            | some (c, bad) => flt c bad
            | none => .ok x

/-- Bytes of a core's scratchpad. -/
def State.scr (s : State) (core : BitVec 8) (off n : Nat) : List Byte :=
  Memory.read s.mem (scratchBase core.toNat + off) n

/-- Writes bytes of a core's scratchpad. -/
def State.scrPut (s : State) (core : BitVec 8) (off : Nat) (l : List Byte) : State :=
  { s.overwrite (scratchBase core.toNat + off) l.length with
    mem := Memory.write s.mem (scratchBase core.toNat + off) l }

/-- The claimed granules that an access touches belong to the item of element e, one of the core's own (R306), which is
admitted: the item's index (R317). Only elements of vector and small-matrix forms are covered. -/
def State.coveredItem (s : State) (kind : AccKind) (elem : Nat) (va : Word) : Option Nat :=
  if !(kind == .vread || kind == .vwrite) || !s.core.vec.vprof.getLsbD 4 || decide ((fld s.core.rsvstat 0 12).toNat ≤ elem)
  then none
  else match s.session with
    | none => none
    | some x =>
      let idx := (fld s.core.rsvstat 12 12).toNat + elem
      match x.items.find? (fun i => i.idx == idx) with
      | some i => if i.admitted && i.granules.contains (fld va 5 51) then some idx else none
      | none => none

/-- Bytes at a translated address as the core reads them: the committed image, or a session's earlier waves under a
covered read (R129, R317, R338). -/
def State.readAt (s : State) (x : Xl) (kind : AccKind) (elem : Nat) (va : Word) (n : Nat) : List Byte :=
  if x.dt && (s.coveredItem kind elem va).isSome then
    let prev := match s.session with
      | some q => q.earlier
      | none => []
    (List.range n).map (fun i => match prev.find? (fun c => c.1 == x.pa + i) with
      | some c => c.2
      | none => Memory.get s.mem (x.pa + i))
  else if regionOf x.pa == .control then ctlBytes s x.pa n
  else if regionOf x.pa == .checkpoint then s.bytesAt x.pa n
  else Memory.read s.mem x.pa n

/-- Bytes stored at a translated address: to memory, or to the step image of a DT page (R338, R317). -/
def State.writeAt (s : State) (x : Xl) (seq : Nat) (kind : AccKind) (elem : Nat) (va : Word) (l : List Byte) : State :=
  if x.dt then
    let cov := s.coveredItem kind elem va
    let lc : BitVec 16 := fld s.core.detid 0 16
    let bytes := l.zipIdx.map (fun b =>
      (⟨lc, seq, elem, x.pa + b.2, va56 va + b.2, b.1, cov.isSome, kind.code⟩ : StepByte))
    let s1 := s.onCtx s.ctxIx (fun c => { c with stepBytes := c.stepBytes ++ bytes })
    match cov with
    | none => s1
    | some i => s1.onSession (fun q => { q with present := q.present ++ l.zipIdx.map (fun b => (i, (x.pa + b.2, b.1))) })
  else if regionOf x.pa == .control then ctlStore s x.pa l
  else if regionOf x.pa == .checkpoint then s.storeSlot x.pa l
  else { s.overwrite x.pa l.length with mem := Memory.write s.mem x.pa l }

/-- A load of n bytes: their value and the state after. -/
def load (s : State) (earlier : List Cmd) (pl : BitVec 2) (kind : AccKind) (elem : Nat) (va : Word) (n : Nat) :
    Except Stop (Word × State) :=
  match reach s earlier pl kind va n with
  | .error e => .error e
  | .ok x => .ok (wordOfBytes (s.readAt x kind elem va n), (s.correct x.pa n).fill x)

/-- A store of n bytes of a value. -/
def store (s : State) (earlier : List Cmd) (pl : BitVec 2) (kind : AccKind) (seq elem : Nat) (va : Word) (n : Nat)
    (v : Word) : Except Stop State :=
  match reach s earlier pl kind va n with
  | .error e => .error e
  | .ok x => .ok ((s.writeAt x seq kind elem va (toBytes n v.toNat)).fill x)

/-- A load by the control thread or the DAU for it: every command of Rowan is earlier. -/
def State.ld (s : State) (kind : AccKind) (elem : Nat) (va : Word) (n : Nat) : Except Stop (Word × State) :=
  load s s.core.cmds s.pl kind elem va n

/-- A store by the control thread or the DAU for it. -/
def State.st (s : State) (kind : AccKind) (elem : Nat) (va : Word) (n : Nat) (v : Word) : Except Stop State :=
  store s s.core.cmds s.pl kind s.core.seq elem va n v

/-- Consecutive 8-byte words from an address. -/
def State.ldWords (s : State) (kind : AccKind) (elem : Nat) (va : Word) : Nat → Except Stop (List Word × State)
  | 0 => .ok ([], s)
  | n + 1 =>
    match s.ld kind elem va 8 with
    | .error e => .error e
    | .ok (w, s1) =>
      match s1.ldWords kind elem (va + 8) n with
      | .error e => .error e
      | .ok (l, s2) => .ok (w :: l, s2)

/-- Stores consecutive 8-byte words from an address. -/
def State.stWords (s : State) (kind : AccKind) (elem : Nat) (va : Word) : List Word → Except Stop State
  | [] => .ok s
  | w :: r =>
    match s.st kind elem va 8 w with
    | .error e => .error e
    | .ok s1 => s1.stWords kind elem (va + 8) r

end Sys2Proof.Machine
end

