-- ==== Sys2Proof/Machine/Control.lean ====
section
/-! DEFINITION. Branches and jumps, instruction fetch, and the block buffer: majors 0x0A, 0x0B, 0x0E, 0x0F and the
block forms of 0x02 (R66, R68, R130–R136). -/

namespace Sys2Proof.Machine

/-! ## Transfers (R130–R132) -/

/-- Control passes to an address. -/
def State.jump (s : State) (t : Word) : State := s.onCore (fun c => { c with pc := t, wait := none })

/-- jal (R131). -/
def execJal (d : BitVec 5) (imm : BitVec 21) (s : State) : Out :=
  .next ((s.setG d (s.core.pc + 4)).jump (s.core.pc + (sext imm <<< 2)))

/-- jalr: the target from the old g[a] (R131). -/
def execJalr (d a : BitVec 5) (imm : BitVec 16) (s : State) : Out :=
  let t := s.g a + sext imm
  if fld t 0 2 != 0 then (Res.trap s (wordTrap (.jalr d a imm) 0x0B)).finish
  else .next ((s.setG d (s.core.pc + 4)).jump t)

/-- beq (R130). -/
def execBeq (a b : BitVec 5) (off : BitVec 16) (s : State) : Out :=
  .next (s.jump (s.core.pc + (if s.g a = s.g b then sext off <<< 2 else (4 : Word))))

/-- bne (R130). -/
def execBne (a b : BitVec 5) (off : BitVec 16) (s : State) : Out :=
  .next (s.jump (s.core.pc + (if s.g a = s.g b then (4 : Word) else sext off <<< 2)))

/-! ## Fetch (R63, R68, R132) -/

/-- The bytes of a word at a physical address: one that the core has fetched ahead is the value that the byte had then
(R68). -/
def State.wordBytes (s : State) (x : Xl) (va : Word) : List Byte :=
  let l := s.readAt x .fetch 0 va 4
  if s.core.ibuf.isEmpty then l
  else l.zipIdx.map (fun b => ((s.core.ibuf.find? (fun c => c.1 == x.pa + b.2)).map (fun c => c.2)).getD b.1)

/-- A word at an address, checked as a fetch: canonical form, alignment, translation with X, and the data (R132, R134).
It is ordered with no store (R68). -/
def fetchWord (s : State) (va : Word) : Except MemFault (BitVec 32 × State) :=
  let err (c : BitVec 8) (bad w : Option Nat) : Except MemFault (BitVec 32 × State) := .error ⟨c, va, 0, 0xF, bad, w⟩
  if !canonical va then err 0x20 none none
  else if fld va 0 2 != 0 then err 0x2A none none
  else match translate s s.pl .fetch va with
    | .error f => .error f
    | .ok x =>
      let flt (c : BitVec 8) (bad : Option Nat) := err c bad (x.walked va)
      if s.foreignScratch x.pa then flt 0x29 none
      else if regionOf x.pa == .control && (ctlReg (x.pa / 8 * 8)).isNone then flt 0x28 none
      else if x.dt && !s.core.vec.det then flt 0xA1 none
      else match s.dataFault .fetch x.pa 4 with
        | some (c, bad) => flt c bad
        | none => .ok ((wordOfBytes (s.wordBytes x va)).setWidth 32, (s.correct x.pa 4).fill x)

/-! ## The block buffer (R133–R136) -/

/-- Majors that no body may hold (R66). -/
def bodyMajorBad (w : BitVec 32) : Bool :=
  match (fld w 0 6 : BitVec 6).toNat with
  | 0x0A | 0x0B | 0x0E | 0x0F | 0x3A | 0x3C | 0x3D => true
  | _ => false

/-- blk.cap, blk.run and blk.brk. -/
def isBlockForm : Instr → Bool
  | .blkCap _ _ _ | .blkRun _ _ | .blkBrk _ => true
  | _ => false

/-- A word that blk.cap refuses (R66): checks 1 to 8 of R62 at the present level. -/
def bodyWordBad (pl : BitVec 2) (w : BitVec 32) : Bool :=
  bodyMajorBad w ||
    match formOf (fieldsOf w) with
    | .error _ => true
    | .ok f => isBlockForm f.instr || (needCause f.need pl).isSome || f.staticCause.isSome

/-- Puts a word into the buffer. -/
def State.putBody (s : State) (i : Nat) (w : BitVec 32) : State :=
  s.onBlk (fun b => { b with words := rset b.words (BitVec.ofNat 5 i) w })

/-- Captures n more words from index i on (R134). -/
def capture (a : Word) : Nat → Nat → State → Res
  | 0, _, s => .done s
  | n + 1, i, s =>
    match fetchWord s (a + BitVec.ofNat 64 (4 * i)) with
    | .error f => .trap s (f.trap 0)
    | .ok (w, s1) =>
      if bodyWordBad s.pl w then .trap s { cause := 0x0C, tval := zext w }
      else capture a n (i + 1) (s1.putBody i w)

/-- The buffer is empty, and no run is suspended (R134). -/
def State.emptyBlk (s : State) : State :=
  s.onBlk (fun b => { b with blk := putFld (putFld b.blk 12 (0#6)) 0 (0#1), unread := false })

/-- blk.cap (R134): n words, n − 1 in b, in the mode that d names. -/
def execBlkCap (d : BitVec 1) (a b : BitVec 5) (s : State) : Out :=
  ((capture (s.g a) (b.toNat + 1) 0 s.emptyBlk).andThen (fun s1 => .done (s1.onBlk (fun x => { x with
    blk := putFld (putFld (putFld x.blk 12 (BitVec.ofNat 6 (b.toNat + 1))) 7 (0#5)) 1 d
    blkcnt := 0 })))).finish

/-- A new run begins (R135). -/
def State.startRun (s : State) (b : BitVec 5) (n : BitVec 32) : State :=
  let s1 := s.onBlk (fun x => { x with
    blk := putBit (putFld (putFld x.blk 2 b) 7 (0#5)) 0 true
    blkcnt := ((n - 1) ++ 0#32 : BitVec 64)
    live := true
    unread := false })
  let s2 := s1.onCore (fun c => { c with wait := none })
  if blkLoop s.core.blk.blk then s2.onVec (fun v => v.loopStart (n - 1)) else s2

/-- blk.run (R135): the words issue in the steps that follow, from BLK.POS on. Where a supervisor write has left ACT = 1
with N = 0, which no form leaves, the words issue from POS on, around the buffer and without an end: the model's choice
(log 107). -/
def execBlkRun (a b : BitVec 5) (s : State) : Out :=
  let x := s.core.blk
  let n : BitVec 32 := fld (s.g a) 0 32
  if blkAct x.blk then .next (s.onBlk (fun x => { x with live := true }))
  else if blkN x.blk = 0 then (Res.done (s.onBlk (fun x => { x with blkcnt := 0 }))).finish
  else if n = 0 then
    (Res.done (s.onBlk (fun x => { x with blk := putFld (putFld x.blk 2 b) 7 (0#5), blkcnt := 0 }))).finish
  else .next (s.startRun b n)

/-- blk.brk (R136). That LROT stays where a suspended run in loop mode is abandoned, here and by blk.cap, is the model's
choice (log 47). -/
def execBlkBrk (d : BitVec 5) (s : State) : Out :=
  (Res.done ((s.setG d (zext (cntIter s.core.blk.blkcnt))).onBlk (fun x => { x with
    blk := putFld (putFld (putFld x.blk 12 (0#6)) 7 (0#5)) 0 (0#2), live := false, unread := false }))).finish

end Sys2Proof.Machine
end

