-- ==== Sys2Proof/Machine/Flags.lean ====
section
/-! DEFINITION. The sticky flags of VSTAT and MMFLG (R189, R248). -/

namespace Sys2Proof.Machine

/-- Sets sticky flags of VSTAT (R189). -/
def State.flag (s : State) (f : Flags) : State := s.onVec (fun v => { v with vstat := v.vstat ||| f.setWidth 64 })

/-- The flags of a list of results together: they record events, not their order (R189). -/
def orFlags : List Flags → Flags
  | [] => 0
  | f :: r => f ||| orFlags r

/-- Sets the sticky bit of a slot in MMFLG (R248). -/
def State.flagSlot (s : State) (e : Nat) : State := s.onMat (fun m => { m with mmflg := m.mmflg ||| (1 <<< e) })

end Sys2Proof.Machine
end

