-- ==== Sys2Proof/Machine/Operands.lean ====
section
/-! DEFINITION. The operand forms of vector words: registers and f32 groups, masks, replication, the checks at issue
(R50, R175, R198–R201), and how element results are written and resumed (R185, R188, R402). -/

namespace Sys2Proof.Machine

/-! ## Vector operands -/

/-- A vector operand: the physical register it begins at, its type, and how many registers it spans (R175, R192). -/
structure VOp where
  base : Nat
  tag : Tag
  frac : Nat
  regs : Nat
  mvl32 : Nat
  deriving DecidableEq, Repr

/-- Registers of a group code (R57). -/
def grpSize (g : BitVec 2) : Nat :=
  match g.toNat with
  | 1 => 4
  | 2 => 8
  | _ => 1

/-- A physical vector register by number, past 31 none is named. -/
def State.physReg (s : State) (i : Nat) : VReg := rget s.core.vec.v (BitVec.ofNat 5 i)

/-- Registers p to p + n − 1 are an f32 group: p is aligned and every member says so (R175). -/
def State.coherent (s : State) (p n : Nat) : Bool :=
  decide (p % n = 0) && (List.range n).all (fun i =>
    let x := s.physReg (p + i)
    x.tag == .f32 && grpSize x.grp == n)

/-- The operand that a vector name designates: the whole group where it names the base of one, else one register
(R175; log 26). -/
def State.vop (s : State) (r : BitVec 5) : VOp :=
  let p := (s.physV r).toNat
  let x := s.vreg r
  let n := grpSize x.grp
  { base := p, tag := x.tag, frac := x.frac.toNat, regs := if n ≠ 1 && s.coherent p n then n else 1
    mvl32 := mvl32Of s.core.vec.vprof }

/-- Capacity of an operand in elements (R200). -/
def VOp.cap (o : VOp) : Nat := if o.regs = 1 then o.mvl32 * 32 / o.tag.width else o.regs * o.mvl32

/-- The register and the position of element e (R175). -/
def VOp.place (o : VOp) (e : Nat) : Nat × Nat := if o.regs = 1 then (o.base, e) else (o.base + e / o.mvl32, e % o.mvl32)

/-- Element position i of a register, as bits of a width. -/
def VReg.bits (x : VReg) (w i : Nat) : Nat := x.data.toNat / 2 ^ (w * i) % 2 ^ w

/-- Bit pattern of element e. -/
def State.vbits (s : State) (o : VOp) (e : Nat) : Nat := (s.physReg (o.place e).1).bits o.tag.width (o.place e).2

/-- widen of element e (R70); an e2m1x element by its block (R83). -/
def State.vval (s : State) (o : VOp) (e : Nat) : XVal :=
  if o.tag = .e2m1x then
    let x := s.physReg o.base
    widenE2m1 (BitVec.ofNat 4 (s.vbits o e)) (getF 8 x.scales (e / 64)) (getF 8 x.extras (e / 64))
  else o.tag.widen o.frac (s.vbits o e)

/-- The element of v[b] that element e reads under a replicate size (R50). -/
def repIx (r : BitVec 2) (e : Nat) : Nat :=
  match r.toNat with
  | 1 => 0
  | 2 => e % 4
  | 3 => e % 16
  | _ => e

/-- Replaces element position i of a register. -/
def VReg.put (x : VReg) (w i : Nat) (v : Nat) : VReg := { x with data := setF x.data i (BitVec.ofNat w v) }

/-- Writes element e of an operand. -/
def State.putElem (s : State) (o : VOp) (e v : Nat) : State :=
  let p := o.place e
  s.onVec (fun c =>
    let i := BitVec.ofNat 5 p.1
    { c with v := rset c.v i ((rget c.v i).put o.tag.width p.2 v) })

/-- Writes elements in the order listed. -/
def State.putElems (s : State) (o : VOp) (l : List (Nat × Nat)) : State := l.foldl (fun t x => t.putElem o x.1 x.2) s

/-! ## Masks (R198, R389) -/

/-- Element e takes part: below VL, and in the current group of a VP block (R198, R389). -/
def State.inPlay (s : State) (e : Nat) : Bool :=
  decide (e < s.core.vec.n) && (!s.core.vp.live || s.core.vp.grp.getLsbD e)

/-- Element e is active under k (R198). -/
def State.act (s : State) (k : BitVec 3) (e : Nat) : Bool := s.inPlay e && (s.kreg k).getLsbD e

/-- Element e is inactive below VL (R198). -/
def State.inact (s : State) (k : BitVec 3) (e : Nat) : Bool := s.inPlay e && !(s.kreg k).getLsbD e

/-- The elements below VL from a group on, ascending. -/
def State.elems (s : State) (g : Nat) : List Nat := List.range' (16 * g) (s.core.vec.n - 16 * g)

/-- The active elements from a group on, ascending. -/
def State.actives (s : State) (k : BitVec 3) (g : Nat) : List Nat := (s.elems g).filter (s.act k)

/-- What a masked element-wise form writes from a group on: results of active elements, the zero encoding of inactive
ones under zeroing (R198). -/
def State.results (s : State) (k : BitVec 3) (z : Bool) (g : Nat) (f : Nat → Nat × Flags) : List (Nat × Nat × Flags) :=
  (s.elems g).filterMap (fun e =>
    if s.act k e then some (e, f e) else if z && s.inact k e then some (e, 0, 0) else none)

/-! ## Progress (R188, R402) -/

/-- PIX fields (R188). -/
def pixV (x : Word) : Bool := x.getLsbD 31
def pixCls (x : Word) : BitVec 2 := fld x 26 2
def pixReg (x : Word) : BitVec 5 := fld x 21 5
def pixG (x : Word) : Nat := (fld x 0 10).toNat

/-- A PIX word with V = 1. -/
def pixWord (cls : BitVec 2) (reg : BitVec 5) (g : Nat) : Word :=
  (1#1 ++ 0#3 ++ cls ++ reg ++ 0#11 ++ BitVec.ofNat 10 g).setWidth 64

/-- Destination classes (R188). -/
def clsV : BitVec 2 := 0
def clsK : BitVec 2 := 1
def clsMem : BitVec 2 := 2
def clsM : BitVec 2 := 3

/-- PIX stands at the form that writes a register of a class. -/
def State.pixAt (s : State) (cls : BitVec 2) (reg : BitVec 5) : Bool :=
  pixV s.core.vec.pix && pixCls s.core.vec.pix == cls && pixReg s.core.vec.pix == reg

/-- The group at which an XU form starts: PIX.G where PIX matches its destination, else 0 (R402). -/
def State.startGroup (s : State) (cls : BitVec 2) (reg : BitVec 5) : Nat :=
  if s.pixAt cls reg then pixG s.core.vec.pix else 0

/-- Any XU form that issues leaves PIX.V = 0 (R402). -/
def State.clearPix (s : State) : State := s.onVec (fun v => { v with pix := putFld v.pix 31 (0#1) })

/-- The oldest incomplete form stands at a group; what belongs to another form goes (R188). -/
def State.markPix (s : State) (cls : BitVec 2) (reg : BitVec 5) (g : Nat) : State :=
  s.onVec (fun v => { v with pix := pixWord cls reg g, mcap := none, rep := [] })

/-- The elements of v[b] that a form replicates and overwrites, as its issue read them: those kept while it stands at a
group (R50, R185, R203). -/
def State.repIndex (s : State) (d b : BitVec 5) (r : BitVec 2) : List Nat :=
  if d ≠ b ∨ r = 0 then []
  else if s.pixAt clsV d && !s.core.vec.rep.isEmpty then s.core.vec.rep.take 16
  else (List.range 16).map (s.vbits (s.vop b))

/-- The registers as such a form reads them: a staging buffer holds the replicated elements for the whole form (R183). -/
def State.withRep (s : State) (d b : BitVec 5) (r : BitVec 2) : State :=
  let l := s.repIndex d b r
  if l.isEmpty then s else s.putElems (s.vop b) (l.zipIdx.map (fun x => (x.2, x.1)))

/-! ## Checks at issue (R199–R201) -/

/-- VL lies above the capacity of some operand (R200). -/
def State.overCap (s : State) (l : List VOp) : Bool := l.any (fun o => decide (o.cap < s.core.vec.n))

/-- The tag differs from the operation tag, F included (R199). -/
def VOp.differs (t o : VOp) : Bool := o.tag != t.tag || o.frac != t.frac

/-- The checks of R201 for operation operand t of an admitted class: same lists the operands that must carry T, all the
operands whose capacity counts. -/
def State.tagTrap (s : State) (cls : Tag → Bool) (t : VOp) (same all : List VOp) : Option Trap :=
  firstTrap [(!cls t.tag, plainTrap 0x43), (same.any t.differs, plainTrap 0x42), (s.overCap all, plainTrap 0x44)]

/-- Tag classes of R199. -/
def clsAll (t : Tag) : Bool := t != .e2m1x
def clsNoAng (t : Tag) : Bool := t != .e2m1x && !t.isAng
def clsInt (t : Tag) : Bool := t.isInt
def clsShift (t : Tag) : Bool := t.isInt || t.isFx || t.isAng

/-! ## Element-wise forms -/

/-- Writes the results of an element-wise form and its flags (R184, R185). -/
def State.writeResults (s : State) (d : VOp) (l : List (Nat × Nat × Flags)) : State :=
  (s.putElems d (l.map (fun x => (x.1, x.2.1)))).flag (orFlags (l.map (fun x => x.2.2)))

/-- An element-wise form into v[d]: starts where PIX says, computes every element from the registers as they stand, and
writes them. -/
def State.elementwise (s : State) (d : BitVec 5) (k : BitVec 3) (z : Bool) (f : Nat → Nat × Flags) : State :=
  (s.clearPix).writeResults (s.vop d) (s.results k z (s.startGroup clsV d) f)

/-- A staging form into v[d]: the same from group 0 (R186). -/
def State.staged (s : State) (d : BitVec 5) (k : BitVec 3) (z : Bool) (f : Nat → Nat × Flags) : State :=
  (s.clearPix).writeResults (s.vop d) (s.results k z 0 f)

/-- A form that writes bits e of k[d] from a group on (R198). -/
def State.maskwise (s : State) (d : BitVec 3) (k : BitVec 3) (z : Bool) (f : Nat → Bool) : State :=
  let g := s.startGroup clsK (d.setWidth 5)
  let new := (s.elems g).foldl (fun m e =>
    if s.act k e then putBit m e (f e) else if z && s.inact k e then putBit m e false else m) (s.kreg d)
  s.clearPix.setK d new

end Sys2Proof.Machine
end

