-- ==== Sys2Proof/Machine/Queue.lean ====
section
/-! DEFINITION. The queue unit: continuation records, join blocks and their signals, queue descriptors, and what is held
for a queue never mapped (R366–R369, R448). -/

namespace Sys2Proof.Machine

/-! ## Accesses of the unit -/

/-- The data refuses an access of n bytes by a unit: a quarantined frame, uncorrectable bytes that a read meets or that a
write narrower than their granule needs (R118, R119), or the host link (R106). -/
def State.unitRefused (s : State) (kind : AccKind) (pa n : Nat) : Bool :=
  (if kind.reads then s.badAt pa n else s.quarantined pa n || (s.narrowBad pa n).isSome)
    || (regionOf pa == .host && s.dev.hostLinkDown)

/-- Physical address at which the queue unit reaches n bytes of the context; none where translation or the data refuses
it (log 32). -/
def State.unitPlace (s : State) (ctx : BitVec 8) (kind : AccKind) (va : Word) (n : Nat) : Option Nat :=
  match translateCtx s ctx kind va with
  | .error _ => none
  | .ok pa => if s.unitRefused kind pa n then none else some pa

/-- A write of the unit; one that cannot be made is lost (log 32). -/
def State.unitWrite (s : State) (ctx : BitVec 8) (va : Word) (l : List Byte) : State :=
  let s := s.unitTouch ctx .xwrite va l.length
  match s.unitPlace ctx .xwrite va l.length with
  | some pa => s.poke pa l
  | none => s

/-! ## Continuation records (R366) -/

/-- A continuation record. -/
structure Record where
  code : Word
  frame : Word
  join : Word
  ctl : Word
  deriving DecidableEq, Repr

/-- The record at a physical address. -/
def State.recordAt (s : State) (pa : Nat) : Record :=
  ⟨s.peek64 pa, s.peek64 (pa + 8), s.peek64 (pa + 16), s.peek64 (pa + 24)⟩

/-- What stands for a record that cannot be read: malformed in every field (log 32). -/
def Record.unreadable : Record := ⟨BitVec.allOnes 64, 0, BitVec.allOnes 64, BitVec.allOnes 64⟩

/-- The bytes of a record. -/
def Record.bytes (r : Record) : List Byte :=
  toBytes 8 r.code.toNat ++ toBytes 8 r.frame.toNat ++ toBytes 8 r.join.toNat ++ toBytes 8 r.ctl.toNat

/-- The words of records, and the records of words. -/
def Record.words (r : Record) : List Word := [r.code, r.frame, r.join, r.ctl]
def recordsOf : List Word → List Record
  | a :: b :: c :: d :: r => ⟨a, b, c, d⟩ :: recordsOf r
  | _ => []

/-- GANG. -/
def Record.size (r : Record) : Nat := (fld r.ctl 0 5).toNat
/-- The queue 4·PRIO + LANE. -/
def Record.queue (r : Record) : BitVec 4 := (fld r.ctl 8 2 : BitVec 2) ++ (fld r.ctl 10 2 : BitVec 2)
/-- HOST, RSV and ABT. -/
def Record.host (r : Record) : Bool := r.ctl.getLsbD 16
def Record.rsv (r : Record) : Bool := r.ctl.getLsbD 17
def Record.abt (r : Record) : Bool := r.ctl.getLsbD 18
/-- LCB. -/
def Record.lcb (r : Record) : BitVec 16 := fld r.ctl 19 16

/-- A gang size (R22). -/
def gangSizeOk (n : Nat) : Bool := n == 1 || n == 2 || n == 4 || n == 8 || n == 16

/-- A JOIN that can be signalled: not 0, a multiple of 64. -/
def joinOk (j : Word) : Bool := j != 0 && fld j 0 6 == 0

/-- The record is malformed (R366). -/
def Record.bad (r : Record) : Bool :=
  fld r.ctl 35 29 != 0 || fld r.ctl 12 4 != 0 || fld r.ctl 5 3 != 0 || r.abt || fld r.join 0 6 != 0
    || (!r.host && (!gangSizeOk r.size || fld r.code 0 2 != 0))

/-! ## Queues (R369, R448) -/

/-- The queue as the unit holds it. -/
def State.queueRaw (s : State) (ctx : BitVec 8) (q : BitVec 4) : Queue := rget (s.ctxAt ctx).queues q

/-- Replaces what the unit holds. -/
def State.setQueueRaw (s : State) (ctx : BitVec 8) (q : BitVec 4) (x : Queue) : State :=
  s.onCtx ctx (fun c => { c with queues := rset c.queues q x })

/-- STATE codes. -/
def QState.code : QState → BitVec 2
  | .unmapped => 0
  | .mapped => 1
  | .draining => 2
  | .aborting => 3

/-- The fields of a descriptor at a physical address. -/
def Queue.load (x : Queue) (s : State) (pa : Nat) : Queue :=
  let w := s.peek64 (pa + 48)
  { x with
    ring := s.peek64 pa
    cap := fld (s.peek64 (pa + 8)) 0 16
    head := fld (s.peek64 (pa + 16)) 0 32
    tail := fld (s.peek64 (pa + 16)) 32 32
    chainH := s.peek64 (pa + 24)
    chainT := s.peek64 (pa + 32)
    cpl := s.peek64 (pa + 40)
    err := w.getLsbD 3
    pnotify := w.getLsbD 2 }

/-- The bytes of a descriptor. -/
def Queue.bytes (x : Queue) : List Byte :=
  toBytes 8 x.ring.toNat ++ toBytes 8 x.cap.toNat ++ toBytes 4 x.head.toNat ++ toBytes 4 x.tail.toNat
    ++ toBytes 8 x.chainH.toNat ++ toBytes 8 x.chainT.toNat ++ toBytes 8 x.cpl.toNat
    ++ toBytes 8 (BitVec.ofBool x.err ++ BitVec.ofBool x.pnotify ++ x.state.code).toNat

/-- The queue as it stands: in memory while UNMAPPED with a known descriptor, else in the unit (R369, R448). -/
def State.queue (s : State) (ctx : BitVec 8) (q : BitVec 4) : Queue :=
  let x := s.queueRaw ctx q
  match x.state, x.desc with
  | .unmapped, some d => match s.unitPlace ctx .xread d 64 with
    | some pa => x.load s pa
    | none => x
  | _, _ => x

/-- A descriptor that stands in memory is read (R116–R118). -/
def State.scrubDesc (s : State) (ctx : BitVec 8) (q : BitVec 4) : State :=
  let x := s.queueRaw ctx q
  match x.state, x.desc with
  | .unmapped, some d => s.unitScrub ctx d 64
  | _, _ => s

/-- The descriptors that stand in memory are read, as a read of QSTAT does. -/
def State.scrubDescs (s : State) (ctx : BitVec 8) : State :=
  if s.dev.softBytes.isEmpty && s.dev.badBytes.isEmpty then s
  else (List.range 16).foldl (fun t i => t.scrubDesc ctx (BitVec.ofNat 4 i)) s

/-- Replaces the queue where it stands. -/
def State.setQueue (s : State) (ctx : BitVec 8) (q : BitVec 4) (x : Queue) : State :=
  let s1 := s.setQueueRaw ctx q x
  match x.state, x.desc with
  | .unmapped, some d => s1.unitWrite ctx d x.bytes
  | _, _ => s1

/-- The queue has not been mapped since its context was created (R448). -/
def Queue.neverMapped (x : Queue) : Bool := x.state == .unmapped && x.desc.isNone

/-- Hardware sets ERR of a queue: QERR is posted to the partition (R369). -/
def State.queueErr (s : State) (ctx : BitVec 8) (q : BitVec 4) : State :=
  let s := s.scrubDesc ctx q
  (s.setQueue ctx q { s.queue ctx q with err := true }).postEvt ctx evtQerr

/-- Tasks dispatched from the queue are still running, saved ones included (R370, R381). -/
def State.queueRuns (s : State) (ctx : BitVec 8) (q : BitVec 4) : Bool :=
  s.gangs.any (fun x => x.ctx == ctx && x.queue == q) || (s.ctxAt ctx).saved.any (fun x => x.gang.queue == q)

/-- QSTAT (R370). -/
def State.qstat (s : State) (ctx : BitVec 8) : Word :=
  BitVec.ofNat 64 ((List.range 16).foldr (fun i n =>
    let q := BitVec.ofNat 4 i
    let x := s.queue ctx q
    16 * n + (BitVec.ofBool (s.queueRuns ctx q) ++ BitVec.ofBool x.err ++ x.state.code).toNat) 0)

/-! ## Signals (R367, R368) -/

/-- Fields of a join block by their offsets: COUNT, STATUS, NEXT, the record. -/
def joinStatus (s : State) (pj : Nat) : Word := s.peek64 (pj + 8)

/-- A host completion written to a CPL address, then its MSI-X vector (R368, R438). One whose write is refused raises no
vector (log 32). -/
def State.sendCpl (s : State) (ctx : BitVec 8) (q : BitVec 4) (cpl v : Word) : State :=
  let s := if fld cpl 0 3 == 0 then s.unitTouch ctx .xwrite cpl 8 else s
  match (if fld cpl 0 3 == 0 then s.unitPlace ctx .xwrite cpl 8 else none) with
  | none => s
  | some pa => (s.poke pa (toBytes 8 v.toNat)).onDev (fun d => { d with
      out := d.out ++ [.msix (4 * ctx.toNat + q.toNat / 4)] })

/-- The host completion of a join block; held for a queue never mapped (R368, R448). -/
def State.hostComplete (s : State) (ctx : BitVec 8) (q : BitVec 4) (j status : Word) : State :=
  let s := s.scrubDesc ctx q
  let x := s.queue ctx q
  if x.neverMapped then s.setQueueRaw ctx q { x with heldCpl := x.heldCpl ++ [j ||| status] }
  else s.sendCpl ctx q x.cpl (j ||| status)

/-- A join block is linked behind a chain: NEXT of the last one names it, and its own NEXT is 0 (R367; log 33). -/
def State.linkNext (s : State) (ctx : BitVec 8) (last j : Word) (pj : Nat) : State :=
  let s1 := s.poke (pj + 16) (toBytes 8 0)
  if last = 0 then s1 else s1.unitWrite ctx (last + 16) (toBytes 8 j.toNat)

/-- The head of a queue is another record: its WAIT starts at 0 (R371). -/
def Context.newHead (c : Context) (q : BitVec 4) : Context :=
  { c with queues := rset c.queues q { rget c.queues q with wait := 0 } }

/-- A reservation ends with the record that it is for: it has been placed or taken (R371, R372), or its queue dispatches
nothing more (log 34). ring: the record of the ring, else that of the chain. -/
def Context.endRes (c : Context) (q : BitVec 4) (ring : Bool) : Context :=
  { c with res := if c.res = some (q, ring) then none else c.res }

/-- A join block is appended to the chain of a queue (R368, R448). -/
def State.chainPush (s : State) (ctx : BitVec 8) (q : BitVec 4) (j : Word) (pj : Nat) : State :=
  let s := s.scrubDesc ctx q
  let x := s.queue ctx q
  if x.neverMapped then
    (s.linkNext ctx (if x.heldH = 0 then 0 else x.heldT) j pj).setQueueRaw ctx q
      { x with heldH := if x.heldH = 0 then j else x.heldH, heldT := j }
  else
    let s1 := (s.linkNext ctx (if x.chainH = 0 then 0 else x.chainT) j pj).setQueue ctx q
      { x with chainH := if x.chainH = 0 then j else x.chainH, chainT := j }
    if x.chainH = 0 then s1.onCtx ctx (fun c => c.newHead q) else s1

/-- discard(J), with the signal that it passes on (R368). -/
def State.discardJoin (signal : Word → BitVec 4 → State → State) (ctx : BitVec 8) (j : Word) (pj : Nat) (s : State) : State :=
  let r := s.recordAt (pj + 32)
  let s1 := s.poke (pj + 56) (toBytes 8 (putBit r.ctl 18 true).toNat)
  let s2 := if joinOk r.join then signal r.join r.queue s1 else s1
  if r.host then s2.hostComplete ctx r.queue j (joinStatus s2 pj ||| 1) else s2

/-- push(J); in an ABORTING queue the block is discarded (R368, R382). -/
def State.pushJoin (signal : Word → BitVec 4 → State → State) (ctx : BitVec 8) (j : Word) (pj : Nat) (s : State) : State :=
  let r := s.recordAt (pj + 32)
  if r.host then s.hostComplete ctx r.queue j (joinStatus s pj)
  else if (s.queueRaw ctx r.queue).state = .aborting then s.discardJoin signal ctx j pj
  else s.chainPush ctx r.queue j pj

/-- A signal to a join block, with the queue whose ERR a COUNT of 0 or less sets (R368). Each further signal of a chain
of discards takes a COUNT from 1 to 0, so that the number of listed bytes bounds their depth. -/
def signalFrom : Nat → BitVec 8 → Bool → Word → BitVec 4 → State → State
  | 0, _, _, _, _, s => s
  | n + 1, ctx, aborted, j, src, s =>
    let s := s.unitScrub ctx j 64
    match s.unitPlace ctx .atomic j 64 with
    | none => s
    | some pj =>
      let c := s.peek64 pj
      let st := joinStatus s pj
      if c.toInt ≤ 0 then (s.poke (pj + 8) (toBytes 8 (putBit st 1 true).toNat)).queueErr ctx src
      else
        let st := if aborted then putBit st 0 true else st
        let s1 := s.poke pj (toBytes 8 (c - 1).toNat ++ toBytes 8 st.toNat)
        if c = 1 then
          if st.getLsbD 0 then s1.discardJoin (signalFrom n ctx true) ctx j pj
          else s1.pushJoin (signalFrom n ctx true) ctx j pj
        else s1

/-- A signal (R368). -/
def State.signal (s : State) (ctx : BitVec 8) (aborted : Bool) (j : Word) (src : BitVec 4) : State :=
  signalFrom (s.mem.length + 2) ctx aborted j src s

/-- A signal to a JOIN, if there is one. -/
def State.signalJoin (s : State) (ctx : BitVec 8) (aborted : Bool) (j : Word) (src : BitVec 4) : State :=
  if joinOk j then s.signal ctx aborted j src else s

/-! ## Notifies (R379, R448) -/

/-- The greatest count of a notify. -/
def Queue.notifyCap (x : Queue) : Nat := if x.neverMapped then 32768 else x.cap.toNat

/-- A notify of n records is applied at the unit. -/
def State.notify (s : State) (ctx : BitVec 8) (q : BitVec 4) (n : Nat) : State :=
  let s := s.scrubDesc ctx q
  let x := s.queue ctx q
  if x.neverMapped then s.setQueueRaw ctx q { x with heldCount := x.heldCount + n }
  else s.setQueue ctx q { x with tail := x.tail + BitVec.ofNat 32 n, pnotify := x.pnotify || x.state != .mapped }

/-! ## Taking heads -/

/-- Records in the ring. -/
def Queue.count (x : Queue) : Nat := (x.tail - x.head).toNat

/-- Virtual address of the slot of an index. -/
def Queue.slot (x : Queue) (i : BitVec 32) : Word := x.ring + BitVec.ofNat 64 (32 * (i.toNat % x.cap.toNat))

/-- The chain head is unlinked (R371). -/
def State.takeChain (s : State) (ctx : BitVec 8) (q : BitVec 4) : State :=
  let s := s.unitScrub ctx (s.queue ctx q).chainH 64
  let x := s.queue ctx q
  let next : Word := if x.chainH = x.chainT then 0 else
    match s.unitPlace ctx .xread x.chainH 64 with
    | some pj => s.peek64 (pj + 16)
    | none => 0
  (s.setQueue ctx q { x with chainH := next, chainT := if next = 0 then 0 else x.chainT }).onCtx ctx
    (fun c => (c.newHead q).endRes q false)

/-- The ring head is taken (R371); a chain head keeps its WAIT. -/
def State.takeRing (s : State) (ctx : BitVec 8) (q : BitVec 4) : State :=
  let x := s.queue ctx q
  (s.setQueue ctx q { x with head := x.head + 1 }).onCtx ctx
    (fun c => (if x.chainH = 0 then c.newHead q else c).endRes q true)

/-- The record at a virtual address, read by the unit. -/
def State.unitRecord (s : State) (ctx : BitVec 8) (va : Word) : Record :=
  match s.unitPlace ctx .xread va 32 with
  | some pa => s.recordAt pa
  | none => Record.unreadable

/-! ## Commands: map, drain, abort (R370, R381, R382, R448) -/

/-- An undefined byte at an offset of a descriptor: the reserved bits of +8 and +48 are zero in any descriptor (R10, R369;
log 12). -/
def descByte (free : Nat → Byte) (k : Nat) : Byte :=
  if (10 ≤ k && k < 16) || 49 ≤ k then 0 else if k == 48 then free k &&& 0x0F else free k

/-- The descriptor's copy in memory is undefined, but for CPL, while the queue is mapped (R369; log 12). -/
def State.blurDesc (s : State) (pa : Nat) : State :=
  let b (i n : Nat) : List Byte := (List.range n).map (fun k => descByte (fun j => Config.freeByte (s.fresh + j)) (i + k))
  let s1 := (s.poke pa (b 0 40)).poke (pa + 48) (b 48 8)
  { s1 with fresh := s.fresh + 56 }

/-- A descriptor that can be mapped. -/
def Queue.mappable (x : Queue) : Bool :=
  let c := x.cap.toNat
  decide (2 ≤ c) && decide (c ≤ 32768) && popCount x.cap == 1 && fld x.ring 0 5 == 0

/-- Map of an UNMAPPED queue: none where the command is refused (R370, R448). -/
def State.mapQueue (s : State) (ctx : BitVec 8) (q : BitVec 4) (desc : Word) : Option State :=
  let x := s.queueRaw ctx q
  if x.state ≠ .unmapped then none
  else match s.unitPlace ctx .atomic desc 64 with
    | none => none
    | some pa =>
      let y := x.load s pa
      if !y.mappable then none
      else
        let chained := x.heldH ≠ 0
        let s1 := if chained ∧ y.chainH ≠ 0 then s.unitWrite ctx (y.chainT + 16) (toBytes 8 x.heldH.toNat) else s
        let t := y.tail + BitVec.ofNat 32 x.heldCount
        let excess := decide (y.cap.toNat < (t - y.head).toNat)
        let z : Queue := { y with
          state := .mapped, desc := some desc, pnotify := false, err := y.err
          chainH := if chained ∧ y.chainH = 0 then x.heldH else y.chainH
          chainT := if chained then x.heldT else y.chainT
          tail := if excess then y.head + BitVec.ofNat 32 y.cap.toNat else t
          heldH := 0, heldT := 0, heldCount := 0, heldCpl := [], wait := 0 }
        let s2 := (s1.blurDesc pa).setQueueRaw ctx q z
        let s3 := x.heldCpl.foldl (fun u v => u.sendCpl ctx q z.cpl v) s2
        some (if excess then s3.queueErr ctx q else s3)

/-- A queue dispatches nothing more: the WAIT of its head and a reservation of it end (log 34). -/
def Context.stopHead (c : Context) (q : BitVec 4) : Context := ((c.newHead q).endRes q true).endRes q false

/-- A queue leaves MAPPED: the cores of its context at which a task.spawn waits for room in it are told (R375). -/
def State.leaveMapped (s : State) (ctx : BitVec 8) (q : BitVec 4) : State :=
  s.mapCores (fun c => !c.fw && s.inPart c.id ctx && (recordsOf c.spawned).any (fun r => r.queue == q))
    (fun c => { c with spawnLost := true })

/-- Drain (R381); none where refused. -/
def State.drainQueue (s : State) (ctx : BitVec 8) (q : BitVec 4) : Option State :=
  let x := s.queueRaw ctx q
  match x.state with
  | .unmapped => none
  | .mapped => some (((s.leaveMapped ctx q).setQueueRaw ctx q { x with state := .draining }).onCtx ctx (fun c => c.stopHead q))
  | _ => some s

/-- The undispatched ring records signal their JOIN as aborted, ascending (R382). -/
def State.abortRing (s : State) (ctx : BitVec 8) (q : BitVec 4) : State :=
  let x := s.queueRaw ctx q
  let n := min x.count x.cap.toNat
  ((List.range n).foldl (fun t i =>
    let va := x.slot (x.head + BitVec.ofNat 32 i)
    let t := t.unitScrub ctx va 32
    t.signalJoin ctx true (t.unitRecord ctx va).join q) s).onCtx ctx
    (fun c => { c with queues := rset c.queues q { rget c.queues q with head := (rget c.queues q).tail } })

/-- Join blocks of the chain are discarded, the first first (R382). -/
def abortChain : Nat → BitVec 8 → BitVec 4 → State → State
  | 0, _, _, s => s
  | n + 1, ctx, q, s =>
    let j := (s.queueRaw ctx q).chainH
    if j = 0 then s
    else
      let s1 := s.takeChain ctx q
      match s1.unitPlace ctx .atomic j 64 with
      | none => abortChain n ctx q s1
      | some pj => abortChain n ctx q (s1.discardJoin (fun k src t => t.signal ctx true k src) ctx j pj)

/-! ### Slots of the save area (R405, R406) -/

/-- SAVEA.BASE, and the number of slots. -/
def saveBase (x : Word) : Word := sext (fld x 12 44 ++ 0#12)
def saveSlots (x : Word) : Nat := min (fld x 0 9).toNat 256

/-- Virtual address of a slot. -/
def Context.slotVa (c : Context) (slot : Nat) : Word := saveBase c.savea + BitVec.ofNat 64 (slot * 0x3400000)

/-- A 64-bit word of the save area; none where it cannot be read. -/
def State.slotWord (s : State) (ctx : BitVec 8) (va : Word) : Option Word :=
  (s.unitPlace ctx .xread va 8).map s.peek64

/-- MAGIC of rank 0 of a slot is not zero: the slot holds an image (R407). -/
def State.slotFull (s : State) (ctx : BitVec 8) (slot : Nat) : Bool :=
  match s.slotWord ctx ((s.ctxAt ctx).slotVa slot) with
  | some w => (fld w 0 32 : BitVec 32) != 0
  | none => false

/-- The identity that the engine records of a member's image carry, one more than the number of the gang (log 17). -/
def State.imageId (s : State) (ctx : BitVec 8) (va : Word) : Nat := ((s.slotWord ctx (va + 0x10000)).getD 0).toNat

/-- What ECC makes of the words by which a unit finds an image in the save area: MAGIC of a slot, and the identity in one
that holds an image (R116–R118). -/
def State.scrubSlotHead (s : State) (ctx : BitVec 8) (slot : Nat) : State :=
  let va := (s.ctxAt ctx).slotVa slot
  let s1 := s.unitScrub ctx va 8
  if s1.slotFull ctx slot then s1.unitScrub ctx (va + 0x10000) 8 else s1

/-- The same of every slot. -/
def State.scrubSlots (s : State) (ctx : BitVec 8) : State :=
  if s.dev.softBytes.isEmpty && s.dev.badBytes.isEmpty then s
  else (List.range (saveSlots (s.ctxAt ctx).savea)).foldl (fun t i => t.scrubSlotHead ctx i) s

/-- A slot falls free: MAGIC of rank 0 is zero (R405, R407). -/
def State.freeSlot (s : State) (ctx : BitVec 8) (slot : Nat) : State :=
  s.unitWrite ctx ((s.ctxAt ctx).slotVa slot) (toBytes 4 0)

/-- The slots that hold the image of a saved gang: those that carry its identity, and the slot of the save where it carries
that of no other save. -/
def State.slotsOf (s : State) (ctx : BitVec 8) (x : SavedGang) : List Nat :=
  let c := s.ctxAt ctx
  (List.range (saveSlots c.savea)).filter (fun i =>
    let id := s.imageId ctx (c.slotVa i)
    s.slotFull ctx i && (id == x.id + 1 || (i == x.slot && !(c.saved ++ c.copies).any (fun y => y.id + 1 == id))))

/-- A saved gang is discarded: its slot falls free, and its task signals as aborted (R382). -/
def State.discardSaved (s : State) (ctx : BitVec 8) (x : SavedGang) : State :=
  let s0 := s.scrubSlots ctx
  let s1 := (s0.slotsOf ctx x).foldl (fun t i => t.freeSlot ctx i) s0
  (s1.onCtx ctx (fun c => { c with saved := c.saved.filter (fun y => y.id != x.id) })).signalJoin ctx true x.gang.join x.gang.queue

/-- A gang is to be discarded, unless it has double-trapped (R382, R399). -/
def Gang.toDiscard (g : Gang) : Gang :=
  match g.due with
  | some (.double _) => g
  | _ => { g with due := some .discard }

/-- Abort: running gangs are to be discarded, saved ones are, then ring and chain are emptied (R382); none where
refused. -/
def State.abortQueue (s : State) (ctx : BitVec 8) (q : BitVec 4) : Option State :=
  let x := s.queueRaw ctx q
  match x.state with
  | .unmapped => none
  | .aborting => some s
  | _ =>
    let s1 := ((s.leaveMapped ctx q).setQueueRaw ctx q { x with state := .aborting }).onCtx ctx (fun c => c.stopHead q)
    let s2 : State := { s1 with gangs := s1.gangs.map (fun g => if g.ctx = ctx ∧ g.queue = q then g.toDiscard else g) }
    let s3 := ((s2.ctxAt ctx).saved.filter (fun g => g.gang.queue == q)).foldl (fun t g => t.discardSaved ctx g) s2
    let s4 := s3.abortRing ctx q
    some (abortChain (s4.mem.length + 2) ctx q s4)

/-- The descriptor that a map names is read, whether or not it can be mapped (R116–R118). -/
def State.qctlScrub (s : State) (ctx : BitVec 8) (v : Word) : State :=
  if fld v 60 4 == 1#4 then s.unitScrub ctx (sext (fld v 6 50 ++ 0#6)) 64 else s

/-- A queue command (R370): none where it takes cause 0x89. -/
def State.qctl (s : State) (ctx : BitVec 8) (v : Word) : Option State :=
  let q : BitVec 4 := fld v 56 4
  match (fld v 60 4 : BitVec 4).toNat with
  | 0 => some s
  | 1 => s.mapQueue ctx q (sext (fld v 6 50 ++ 0#6))
  | 2 => s.drainQueue ctx q
  | 3 => s.abortQueue ctx q
  | _ => none

/-- A queue becomes UNMAPPED, and its descriptor is written back (R369, R381). -/
def State.unmapQueue (s : State) (ctx : BitVec 8) (q : BitVec 4) (x : Queue) : State :=
  s.setQueue ctx q { x with state := .unmapped, wait := 0 }

/-- QUEUE_DRAIN_COMPLETE: RUN of a DRAINING queue is 0 (R381). -/
def execQueueDrainComplete (s : State) : Out :=
  let x := s.queueRaw s.ev.ctx s.ev.q
  if x.state = .draining ∧ !s.queueRuns s.ev.ctx s.ev.q then .next (s.unmapQueue s.ev.ctx s.ev.q x)
  else notDue "QUEUE_DRAIN_COMPLETE"

/-- QUEUE_ABORT_COMPLETE: RUN of an ABORTING queue is 0; records notified since the command signal too (R379, R382). -/
def execQueueAbortComplete (s : State) : Out :=
  if (s.queueRaw s.ev.ctx s.ev.q).state = .aborting ∧ !s.queueRuns s.ev.ctx s.ev.q then
    let s1 := s.abortRing s.ev.ctx s.ev.q
    .next (s1.unmapQueue s.ev.ctx s.ev.q { s1.queueRaw s.ev.ctx s.ev.q with chainH := 0, chainT := 0 })
  else notDue "QUEUE_ABORT_COMPLETE"

/-- A queue command that the host writes through the window of a context, with QRES (R370, R438). -/
def State.hostQctl (s : State) (ctx : BitVec 8) (v : Word) : State :=
  let ok (c : BitVec 8) : Word := (1#1 ++ 0#47 ++ (fld v 60 4 : BitVec 4) ++ (fld v 56 4 : BitVec 4) ++ c : BitVec 64)
  let s := s.qctlScrub ctx v
  match s.qctl ctx v with
  | some s1 => s1.onCtx ctx (fun c => { c with qres := ok 0 })
  | none => s.onCtx ctx (fun c => { c with qres := ok 0x89 })

/-- The word of a queue command of an event. -/
def qctlWord (x : EventArg) (op : BitVec 4) : Word := op ++ x.q ++ x.desc ++ 0#6

/-- QCTL_MAP: the host maps a queue of a context (R370, R438). -/
def execQctlMap (s : State) : Out := .next (s.hostQctl s.ev.ctx (qctlWord s.ev 1))

/-- QCTL_DRAIN (R381). -/
def execQctlDrain (s : State) : Out := .next (s.hostQctl s.ev.ctx (qctlWord s.ev 2))

/-- QCTL_ABORT (R382). -/
def execQctlAbort (s : State) : Out := .next (s.hostQctl s.ev.ctx (qctlWord s.ev 3))

end Sys2Proof.Machine
end

