-- ==== Sys2Proof/Machine/Stream.lean ====
section
/-! DEFINITION. Streams: majors 0x30 to 0x32, the start of commands in Rowan, the elements of a stream, arrivals at
armed channels, and circular buffers (R140–R167, R409). -/

namespace Sys2Proof.Machine

/-! ## Port words (R158) -/

/-- Replaces XSTAT of a port. -/
def State.setXstat (s : State) (p : BitVec 4) (x : Word) : State :=
  s.onPort (fun q => { q with xstat := rset q.xstat p x })

/-- Replaces XCSUM of a port. -/
def State.setXcsum (s : State) (p : BitVec 4) (x : Word) : State :=
  s.onPort (fun q => { q with xcsum := rset q.xcsum p x })

/-- Replaces XFAULT of a port and the XLINFO kept with it. -/
def State.setXfault (s : State) (p : BitVec 4) (x info : Word) : State :=
  s.onPort (fun q => { q with xfault := rset q.xfault p x, xinfo := rset q.xinfo p info })

/-- Replaces CHWIN of the channel of a port; ports 8 to 15 have none. -/
def State.setChwin (s : State) (p : BitVec 4) (x : Word) : State :=
  if p.getLsbD 3 then s else s.onPort (fun q => { q with chwin := rset q.chwin (p.setWidth 3) x })

/-- The window word of a port's channel. -/
def State.portWin (s : State) (p : BitVec 4) : Word := s.chwin (p.setWidth 3)

/-- CNT, with the watermark that follows it: WM = BASE + CNT·nsz; with a ring WM stays at BASE (R152, R158). -/
def State.setCnt (s : State) (p : BitVec 4) (n : Nat) : State :=
  let x := putFld (s.xstat p) 16 (BitVec.ofNat 16 n)
  let b := chBase (s.portWin p)
  (s.setXstat p x).setChwin p (chWord (if x.getLsbD 59 then b else b + n * 2 ^ (xNsz x).toNat) b)

/-- The port is in OVERFILL or ERROR. -/
def State.portBad (s : State) (p : BitVec 4) : Bool :=
  xState (s.xstat p) == stOverfill || xState (s.xstat p) == stError

/-- XLINFO of a failed port (R157): the one kept with the failure; where software has written XFAULT, KIND 6 or 7 by the
direction of the port, and ELEM FELEM (log 72). -/
def State.portInfo (s : State) (p : BitVec 4) : Word :=
  let x := rget s.core.port.xinfo p
  if x != 0 then x
  else xlinfoWord (fld (s.xstat p) 0 16).toNat
    ⟨fld (s.xfault p) 56 8, 0, if (s.xstat p).getLsbD 60 then 7 else 6, 0xF, none, none⟩

/-- The trap of a failed port (R157, R397). -/
def State.portTrap (s : State) (p : BitVec 4) : Trap :=
  { cause := fld (s.xfault p) 56 8, tval := zext (fld (s.xfault p) 0 56 : BitVec 56), xlinfo := some (s.portInfo p) }

/-! ## Rowan's order (R141) -/

/-- The first command of a port, with those before and after it. -/
def splitCmd (p : BitVec 4) : List Cmd → Option (List Cmd × Cmd × List Cmd)
  | [] => none
  | c :: r =>
    if c.port = p then some ([], c, r)
    else match splitCmd p r with
      | none => none
      | some (b, x, a) => some (c :: b, x, a)

/-- The commands of the core. -/
def State.setCmds (s : State) (l : List Cmd) : State := s.onCore (fun c => { c with cmds := l })

/-- A command is active or pending on the port. -/
def Core.busyPort (c : Core) (p : BitVec 4) : Bool := c.cmds.any (fun x => x.port == p)

/-- Stream commands that Rowan holds; that Sloe commands, which stand in Rowan's order too (R288), do not count toward its
16 is the model's choice: R141 speaks of stream commands (log 85). -/
def Core.streams (c : Core) : Nat := (c.cmds.filter (fun x => match x with | .stream _ => true | .sloe _ => false)).length

/-- The ring of a command. -/
def Cmd.ring : Cmd → Option (BitVec 3)
  | .stream c => match c.near with
    | .ring n => some n
    | _ => none
  | .sloe _ => none

/-- The active stream bound to a ring (R164): whether it fills. -/
def Core.boundRing (c : Core) (n : BitVec 3) : Option Bool :=
  (c.cmds.find? (fun x => x.active && x.ring == some n)).map (fun x => match x with
    | .stream y => !y.empties
    | .sloe _ => true)

/-! ## Circular buffers (R163–R166) -/

def cbSlot (x : Word) : Nat := (fld x 0 16).toNat
def cbCount (x : Word) : Nat := (fld x 16 16).toNat
def cbBase (x : Word) : Nat := (fld x 32 22).toNat

/-- The counters of a ring. -/
structure RingCnt where
  free : Nat
  filled : Nat
  heldC : Nat
  heldP : Nat
  head : Nat
  tail : Nat
  deriving DecidableEq, Repr

/-- CBSTAT split. -/
def ringOf (x : Word) : RingCnt :=
  ⟨(fld x 53 11).toNat, (fld x 42 11).toNat, (fld x 31 11).toNat, (fld x 20 11).toNat, (fld x 10 10).toNat,
    (fld x 0 10).toNat⟩

/-- CBSTAT of counters. -/
def RingCnt.word (r : RingCnt) : Word :=
  BitVec.ofNat 11 r.free ++ BitVec.ofNat 11 r.filled ++ BitVec.ofNat 11 r.heldC ++ BitVec.ofNat 11 r.heldP
    ++ BitVec.ofNat 10 r.head ++ BitVec.ofNat 10 r.tail

/-- CBCFG and the counters of a ring. -/
def State.cbCfg (s : State) (n : BitVec 3) : Word := rget s.core.port.cbcfg n
def State.ringCnt (s : State) (n : BitVec 3) : RingCnt := ringOf (rget s.core.port.cbstat n)

/-- Replaces the counters of a ring. -/
def State.setRing (s : State) (n : BitVec 3) (r : RingCnt) : State :=
  s.onPort (fun q => { q with cbstat := rset q.cbstat n r.word })

/-- n slots to a consumer (side false) or a producer, if there are so many (R163–R165). -/
def RingCnt.acquire (r : RingCnt) (side : Bool) (n count : Nat) : Option RingCnt :=
  if side then
    (if n ≤ r.free then some { r with free := r.free - n, heldP := r.heldP + n, head := (r.head + n) % count } else none)
  else
    (if n ≤ r.filled then some { r with filled := r.filled - n, heldC := r.heldC + n, tail := (r.tail + n) % count }
     else none)

/-- n held slots are passed on; none if fewer are held (R165). -/
def RingCnt.release (r : RingCnt) (side : Bool) (n : Nat) : Option RingCnt :=
  if side then (if n ≤ r.heldP then some { r with heldP := r.heldP - n, filled := r.filled + n } else none)
  else (if n ≤ r.heldC then some { r with heldC := r.heldC - n, free := r.free + n } else none)

/-- cb.cfg (R165); that g[a][63:22] and g[b][63:32] are ignored is the model's choice, since the spec names no check of
them (log 103). -/
def execCbCfg (d : BitVec 3) (a b : BitVec 5) (s : State) : Out :=
  let r := s.ringCnt d
  let base : Nat := (fld (s.g a) 0 22).toNat
  let slot : Nat := (fld (s.g b) 0 16).toNat
  let count : Nat := (fld (s.g b) 16 16).toNat
  (Res.check s (firstTrap [
    (decide (r.free ≠ cbCount (s.cbCfg d)) || (s.core.boundRing d).isSome, plainTrap 0x68),
    (decide (slot % 64 ≠ 0) || decide (slot < 64) || decide (count = 0) || decide (1024 < count)
      || decide (2 ^ 21 < base + slot * count), plainTrap 0x64)])
    (.done (s.onPort (fun q => { q with
      cbcfg := rset q.cbcfg d ((BitVec.ofNat 22 base ++ BitVec.ofNat 16 count ++ BitVec.ofNat 16 slot).setWidth 64)
      cbstat := rset q.cbstat d (RingCnt.word ⟨count, 0, 0, 0, 0, 0⟩) })))).finish

/-- The use of a ring by cb.acq or cb.rel is refused: not configured, or n and the reserved bits (R165, R166). -/
def State.ringTrap (s : State) (n : BitVec 3) (x : Word) : Option Trap :=
  firstTrap [
    (decide (cbCount (s.cbCfg n) = 0), plainTrap 0x67),
    (fld x 17 47 != 0 || fld x 0 16 == 0 || decide (cbCount (s.cbCfg n) < (fld x 0 16).toNat), plainTrap 0x60)]

/-- cb.acq (R165). -/
def execCbAcq (d : BitVec 5) (a : BitVec 3) (b : BitVec 5) (s : State) : Out :=
  let x := s.g b
  let side := x.getLsbD 16
  let r := s.ringCnt a
  let cfg := s.cbCfg a
  (Res.check s (s.ringTrap a x) (match r.acquire side (fld x 0 16).toNat (cbCount cfg) with
    | none => .wait s .cbAcq
    | some r' => .done ((s.setRing a r').setG d
        (BitVec.ofNat 64 (cbBase cfg + cbSlot cfg * (if side then r.head else r.tail)))))).finish

/-- cb.rel (R165). -/
def execCbRel (a : BitVec 3) (b : BitVec 5) (s : State) : Out :=
  let x := s.g b
  let side := x.getLsbD 16
  (Res.check s (s.ringTrap a x)
    (if s.core.boundRing a == some side then .trap s (plainTrap 0x67)
    else match (s.ringCnt a).release side (fld x 0 16).toNat with
      | none => .trap s (plainTrap 0x67)
      | some r => .done (s.setRing a r))).finish

/-- cb.stat (R165, R166). -/
def execCbStat (d : BitVec 5) (a : BitVec 3) (s : State) : Out :=
  (if cbCount (s.cbCfg a) = 0 then Res.trap s (plainTrap 0x67)
  else .done (s.setG d (rget s.core.port.cbstat a))).finish

/-! ## Issue: major 0x30 (R142–R148) -/

/-- The near side that g[d] describes (R140, R148, R152); none if the descriptor is malformed. -/
def nearOf (p : BitVec 4) (empties : Bool) (nsz : Nat) (x : Word) : Option Near :=
  if p.ule 7 then
    if x.getLsbD 63 then (if fld x 3 60 == 0 then some (.ring (fld x 0 3)) else none)
    else if fld x 22 41 == 0 && decide ((fld x 0 22).toNat % nsz = 0) then some (.window (fld x 0 22)) else none
  else if p.ule 11 then some .queue
  else if x.getLsbD 63 then
    (if fld x 56 7 == (if x.getLsbD 55 then BitVec.allOnes 7 else 0) then some (.region (sext (fld x 0 56 : BitVec 56)))
     else none)
  else if empties || fld x 32 31 != 0 || fld x 11 5 != 0 then none
  else some (.remote (fld x 0 8) (fld x 8 3) (fld x 16 16))

/-- The command that a word describes, at issue (R142–R145): parameters captured, or the cause. -/
def State.makeStream (s : State) (kind : StreamKind) (p op : BitVec 4) (d b : BitVec 5) (base : Word) (src : BitVec 3) :
    Except Cause StreamCmd :=
  let g0 := s.g b
  let g3 := s.g (b + 3)
  let c : StreamCmd :=
    { kind := kind, port := p, op := op, base := base, src := src, near := .queue
      c0 := fld g0 0 16, c1 := fld g0 16 16, c2 := fld g0 32 16, s1 := s.g (b + 1), s2 := s.g (b + 2)
      b0 := fld g3 32 16, b1 := fld g3 48 16, sc := fld g3 24 8, ctl := fld g3 20 4, ffmt := fld g3 15 5
      nfmt := fld g3 10 5, exp := BitVec.ofNat 16 s.core.vec.n, pl := s.pl, seq := s.core.seq, active := false
      next := 0, srcCrc := crcInit, dstCrc := crcInit, moved := [], sends := [], dcAddr := 0, dcMask := 0
      slots := [], filled := 0, ahead := [], skip := [] }
  let total := c.c0.toNat * c.c1.toNat * (if c.indexed then 1 else c.c2.toNat)
  if fld g0 48 16 != 0 || fld g3 0 10 != 0 || total = 0
    || !streamFmt c.ffmt || !streamFmt c.nfmt || c.ctl.getLsbD 2
    || (!c.cv && (c.ffmt != c.nfmt || c.sc != 0))
    || total < c.exp.toNat || (c.tr && c.exp.toNat != total) || (c.dc && c.c0.toNat % 64 != 0) then .error 0x60
  else match nearOf p c.empties c.nsz (s.g d) with
    | none => .error 0x60
    | some (.ring n) =>
      if cbSlot (s.cbCfg n) % c.nsz != 0 then .error 0x60
      else if cbCount (s.cbCfg n) = 0 then .error 0x67
      else .ok { c with near := .ring n }
    | some (.window w) =>
      if 2 ^ 21 < w.toNat + c.exp.toNat * c.nsz then .error 0x64 else .ok { c with near := .window w }
    | some n => .ok { c with near := n }

/-- The near side in the scratchpad and the source of xs.cp conflict with an incomplete tile form (R277). -/
def State.streamTiles (s : State) (c : StreamCmd) : Bool :=
  (match c.near with
    | .window w => s.core.tile.conflict w.toNat (c.exp.toNat * c.nsz) (!c.empties)
    | .ring n => s.core.tile.conflict (cbBase (s.cbCfg n)) (cbSlot (s.cbCfg n) * cbCount (s.cbCfg n)) (!c.empties)
    | _ => false)
  || (c.kind == .cp && (List.range c.exp.toNat).any (fun e =>
      decide (0 ≤ c.farInt e) && s.core.tile.conflict (c.farInt e).toNat c.fsz false))

/-- The page of an address of a level has DT = 1. -/
def State.dtAt (s : State) (pl : BitVec 2) (va : Word) : Bool :=
  match translate s pl .xwrite va with
  | .ok x => x.attr pteDT
  | .error _ => false

/-- The stream writes to a DT page: it takes a number in the step at its issue (R339). -/
def State.streamDt (s : State) (c : StreamCmd) : Bool :=
  s.core.vec.det && ((c.empties && (s.farRanges c).any (fun r => s.dtAt c.pl (BitVec.ofNat 64 r.1)))
    || (match c.near with
        | .region b => !c.empties && (List.range c.exp.toNat).any (fun n => s.dtAt c.pl (b + BitVec.ofNat 64 (n * c.nsz)))
        | _ => false))

/-- A stream command is issued (R141–R145). -/
def State.issueStream (s : State) (kind : StreamKind) (p op : BitVec 4) (d b : BitVec 5) (base : Word) (src : BitVec 3) :
    Res :=
  match s.makeStream kind p op d b base src with
  | .error c => .trap s (plainTrap c)
  | .ok c =>
    if 16 ≤ s.core.streams || s.streamTiles c then .wait s .dauStall
    else .done ((s.setCmds (s.core.cmds ++ [.stream c])).onCore (fun x => { x with
      seq := if s.streamDt c then x.seq + 1 else x.seq }))

/-- xs.ld (R143). -/
def execXsLd (d a b : BitVec 5) (op p : BitVec 4) (s : State) : Out := (s.issueStream .ld p op d b (s.g a) 0).finish

/-- xs.st (R143). -/
def execXsSt (d a b : BitVec 5) (op p : BitVec 4) (s : State) : Out := (s.issueStream .st p op d b (s.g a) 0).finish

/-- xs.gth (R147). -/
def execXsGth (d a b : BitVec 5) (op p : BitVec 4) (s : State) : Out := (s.issueStream .gth p op d b (s.g a) 0).finish

/-- xs.sct (R147). -/
def execXsSct (d a b : BitVec 5) (op p : BitVec 4) (s : State) : Out := (s.issueStream .sct p op d b (s.g a) 0).finish

/-- xs.cp (R146). That the base of the source window is the one at issue, as the g operands are, is the model's choice
(log 112). -/
def execXsCp (d : BitVec 5) (a : BitVec 3) (b : BitVec 5) (op p : BitVec 4) (s : State) : Out :=
  (s.issueStream .cp p op d b (BitVec.ofNat 64 (chBase (s.chwin a))) a).finish

/-! ## Start and end of a command (R141, R152, R154, R156) -/

/-- Replaces the first command of a port. -/
def State.putCmd (s : State) (p : BitVec 4) (c : Cmd) : State :=
  match splitCmd p s.core.cmds with
  | none => s
  | some (b, _, a) => s.setCmds (b ++ c :: a)

/-- Takes out the first command of a port. -/
def State.dropCmd (s : State) (p : BitVec 4) : State :=
  match splitCmd p s.core.cmds with
  | none => s
  | some (b, _, a) => s.setCmds (b ++ a)

/-- XSTAT of a port whose command begins (R158); SAT and INV are sticky. -/
def startWord (old : Word) (dir ring : Bool) (cb : BitVec 3) (nsz : BitVec 2) (exp : BitVec 16) : Word :=
  (stActive ++ BitVec.ofBool dir ++ BitVec.ofBool ring ++ cb ++ nsz ++ fld old 52 2 ++ 0#4 ++ exp ++ 0#32).setWidth 64

/-- A failure that a port held no longer counts: its next command begins (R297). -/
def State.unfail (s : State) (p : BitVec 4) : State :=
  s.onCore (fun c => { c with sloe := { c.sloe with failed := c.sloe.failed.filter (fun x => x.2 != p) } })

/-- The port of a stream as its command begins (R152, R156, R158); VQRD of a load-data queue starts at 0 (R209). -/
def State.openPort (s : State) (c : StreamCmd) : State :=
  let ring := match c.near with
    | .ring n => some n
    | _ => none
  let base := match c.near with
    | .window w => w.toNat
    | _ => 0
  let s1 := ((s.unfail c.port).setXstat c.port (startWord (s.xstat c.port) c.empties ring.isSome (ring.getD 0)
    (BitVec.ofNat 2 (fmtLog c.nfmt)) c.exp)).setXcsum c.port 0
  let s2 := s1.setChwin c.port (chWord base base)
  match c.near with
  | .queue => (s2.onPort (fun q => { q with ldq := rset q.ldq (c.port.setWidth 2) [] })).onVec (fun v => { v with
      vqrd := putFld v.vqrd (16 * (c.port.setWidth 2).toNat) (0#16) })
  | _ => s2

/-- The destination checksum of near elements in ascending n, or the source checksum of an emptying stream (R151). -/
def StreamCmd.nearCrc (c : StreamCmd) : BitVec 32 :=
  c.moved.foldl (fun x m => crcRun x (toBytes c.nsz m.2.toNat)) crcInit ^^^ 0xFFFFFFFF

/-- Slots that a stream has passed on become filled, or free (R164). -/
def State.passSlots (s : State) (c : StreamCmd) (upTo : Nat) : State × StreamCmd :=
  match c.near with
  | .ring n =>
    let k := min upTo c.slots.length - c.filled
    match (s.ringCnt n).release (!c.empties) k with
    | some r => (s.setRing n r, { c with filled := c.filled + k })
    | none => (s, c)
  | _ => (s, c)

/-- The stream has completed: DONE, with both checksums (R151, R152, R156). -/
def State.finishStream (s : State) (c : StreamCmd) : State :=
  let s1 := (s.passSlots c c.slots.length).1.dropCmd c.port
  let far := (if c.empties then c.dstCrc else c.srcCrc) ^^^ 0xFFFFFFFF
  ((s1.setXstat c.port (putFld (s1.xstat c.port) 61 stDone)).setCnt c.port c.exp.toNat).setXcsum c.port
    (if c.empties then far ++ c.nearCrc else c.nearCrc ++ far)

/-- Bytes of the scratchpad become undefined (R154; log 12). -/
def State.freeBytes (s : State) (off n : Nat) : State :=
  { (s.scrPut s.core.id off ((List.range n).map (fun i => Config.freeByte (s.fresh + i)))) with fresh := s.fresh + n }

/-- The request of a port is held no longer. -/
def State.unhold (s : State) (t : BitVec 8) (p : BitVec 4) : State :=
  if (s.clAt (clusterOf t)).held.isEmpty then s
  else s.onCl (clusterOf t) (fun c => { c with held := c.held.filter (fun h => h != ⟨s.core.id, p⟩) })

/-- The stream fails at element f (R154). Slots of a ring that it holds stay in HELDP or HELDC: that is the model's choice,
since the spec says of a failed stream's ring nothing (log 102). -/
def State.failStream (s : State) (c : StreamCmd) (f : Nat) (m : MemFault) : State :=
  let s := ((s.quarantineFault m.bad).repairMiss m.walked).dropCmd c.port
  let s := match c.near with
    | .remote t _ _ => s.unhold t c.port
    | _ => s
  let cnt := (List.range' f (c.exp.toNat - f)).foldl (fun n e => min n (c.nearIx e)) c.exp.toNat
  let x := putFld (putFld (s.xstat c.port) 61 stError) 0 (BitVec.ofNat 16 f)
  let s1 := ((s.setXstat c.port x).setCnt c.port cnt).setXfault c.port
    (m.cause ++ (if m.cause = 0x65 || m.cause = 0x66 then (0 : BitVec 56) else fld m.va 0 56)) (xlinfoWord f m)
  let s2 := (s1.setXcsum c.port (Config.freeWord s1.fresh)).freshen
  match c.near with
  | .window w => s2.freeBytes (w.toNat + cnt * c.nsz) ((c.exp.toNat - cnt) * c.nsz)
  | .queue => s2.onPort (fun q => { q with
      ldq := rset q.ldq (c.port.setWidth 2) ((rget q.ldq (c.port.setWidth 2)).take cnt) })
  | _ => s2

/-- Rowan may start the command (R141, R156, R164). -/
def State.mayStart (s : State) (c : Cmd) : Bool :=
  !c.active && !s.portBad c.port && !xArm (s.xstat c.port)
    && (match c.ring with
      | some n => (s.core.boundRing n).isNone
      | none => true)

/-- The command is the first of its port. -/
def Core.isHead (c : Core) (x : Cmd) : Bool := match splitCmd x.port c.cmds with
  | some (_, y, _) => y == x
  | none => false

/-- A command that starts as soon as it may: a stream or Sloe command at the head of its port, and a Sloe command there
that has been removed and takes its failure (R141, R288, R298). -/
def State.startDue (s : State) : Option Cmd := s.core.cmds.find? (fun x => s.core.isHead x && (s.mayStart x || match x with
  | .sloe c => c.removed
  | .stream _ => false))

/-- STREAM_START: Rowan starts the next command of a port; one with E = 0 completes at once (R141, R145). -/
def execStreamStart (s : State) : Out :=
  let s := s.focus s.ev.c
  match splitCmd s.ev.p s.core.cmds with
  | some (_, .stream c, _) =>
    if s.mayStart (.stream c) then
      let c1 := { c with active := true }
      let s1 := (s.openPort c1).putCmd c.port (.stream c1)
      .next (if c.exp = 0 then s1.finishStream c1 else s1)
    else notDue "STREAM_START"
  | _ => notDue "STREAM_START"

/-! ## The transform chain (R149) -/

/-- Conversion of a value between formats, scaled by 2^k (R149 stage 2). -/
def StreamCmd.convert (c : StreamCmd) (src dst : BitVec 5) (k : Int) (v : Nat) : Nat × Flags :=
  if !c.cv then (v, 0)
  else match Tag.ofCode src, Tag.ofCode dst, Ctl.ofCode c.ctl with
    | some t, some u, some ctl => u.round 0 ctl 0 ((t.widen 0 v).scale k)
    | _, _, _ => (v, 0)

/-- SAT and INV of a conversion stick in XSTAT (R149). -/
def State.portFlags (s : State) (p : BitVec 4) (f : Flags) : State :=
  if f &&& 3 = 0 then s
  else
    let x := s.xstat p
    s.setXstat p (x ||| (BitVec.ofBool (f.getLsbD 0) ++ BitVec.ofBool (f.getLsbD 1) ++ 0#52).setWidth 64)

/-! ## Far reads -/

/-- What a far access gives: the state, the command, the bits read, the bytes that count for the checksum, whether the
element is inside, and whether the leaf has WK (R107). -/
structure Fetched where
  s : State
  c : StreamCmd
  raw : Nat
  bytes : List Byte
  inside : Bool
  wk : Bool

/-- A walk read of a stream fails with KIND 6 or 7, as R157 states of its port, not with the 8 of a walk read (R114). -/
def Stop.asStream (k : BitVec 4) : Stop → Stop
  | .fault m => .fault { m with kind := k }
  | .wait w => .wait w

/-- What the steps of a stream's element give: a result, or the state that they leave and why they stop. -/
abbrev ElemRes (α : Type) : Type := Except (State × Stop) α

/-- A stream read of memory (R105, R160): the page's CS must agree with DC. WK acts on a scratchpad page only (R102). Data
that cannot be delivered is found before CS is checked: the order of the two is the model's choice (log 95). -/
def streamRead (s : State) (earlier : List Cmd) (c : StreamCmd) (va : Word) (n : Nat) (dc : Bool) :
    Except Stop (Word × State × Bool) :=
  match reach s earlier c.pl .xread va n with
  | .error e => .error (e.asStream 6)
  | .ok x =>
    if x.attr pteCS != dc then .error (.fault ⟨0x2B, va, 6, 0xF, none, x.walked va⟩)
    else .ok (wordOfBytes (s.readAt x .xread 0 va n), (s.correct x.pa n).fill x,
      x.attr pteWK && (match regionOf x.pa with | .scratch _ => true | _ => false))

/-- A source read of xs.cp (R146, R153); an element both misaligned and outside the scratchpad takes 0x2A, an order of the
two that is the model's choice (log 97). -/
def copyRead (s : State) (c : StreamCmd) (e : Nat) : Except Stop (Nat × State) :=
  let o := c.farInt e
  let flt (cause : BitVec 8) : Except Stop (Nat × State) := .error (.fault ⟨cause, BitVec.ofInt 64 o, 6, 0xF, none, none⟩)
  if o % (c.fsz : Int) ≠ 0 then flt 0x2A
  else if o < 0 || (2 ^ 21 : Int) < o + c.fsz then flt 0x64
  else match s.core.port.window o.toNat c.fsz false with
    | .stall => .error (.wait .watermark)
    | .failed ch => .error (.fault ⟨0x63, zext (fld (s.xfault (0#1 ++ ch)) 0 56), 6, 0xF, none, none⟩)
    | .ok =>
      let pa := scratchBase s.core.id.toNat + o.toNat
      match s.dataFault .xread pa c.fsz with
      | some (cause, bad) => .error (.fault ⟨cause, BitVec.ofNat 64 pa, 6, 0xF, bad, none⟩)
      | none => .ok (ofBytes (s.scr s.core.id o.toNat c.fsz), s.correct pa c.fsz)

/-- The index of an element, 0 for a pattern stream (R147). -/
def streamIndex (s : State) (earlier : List Cmd) (c : StreamCmd) (e : Nat) : ElemRes (BitVec 32 × State) :=
  if !c.indexed then .ok (0, s)
  else match streamRead s earlier c (c.indexAddr e) 4 false with
    | .error x => .error (s, x)
    | .ok (w, s1, _) => .ok (w.setWidth 32, s1)

/-- Far address of an element (R146, R147). -/
def StreamCmd.far (c : StreamCmd) (e : Nat) (x : BitVec 32) : Word :=
  if c.indexed then c.indexedFar x else BitVec.ofInt 64 (c.farInt e)

/-- Padding bytes of a sparse block from an address up to the next multiple of 8 (R150): fuel counts the bytes. -/
def readPadding (earlier : List Cmd) (c : StreamCmd) : Nat → Word → State → List Byte → ElemRes (State × List Byte)
  | 0, _, s, l => .ok (s, l)
  | n + 1, va, s, l =>
    if va.toNat % 8 = 0 then .ok (s, l)
    else match streamRead s earlier c va 1 true with
      | .error x => .error (s, x)
      | .ok (w, s1, _) =>
        if w != 0 then .error (s1, .fault ⟨0x65, 0, 6, 0xF, none, none⟩)
        else readPadding earlier c n (va + 1) s1 (l ++ [w.setWidth 8])

/-- Element e of a sparse stream (R150): the mask at the first element of a block, the element if it is stored, the
padding after the last. That a stream whose E ends inside a block reads and checks no more of it is the model's choice
(log 86). -/
def sparseRead (s : State) (earlier : List Cmd) (c : StreamCmd) (e : Nat) : ElemRes Fetched :=
  let j := c.i0 e % 64
  let begin : ElemRes (State × StreamCmd × List Byte × Bool) :=
    if j ≠ 0 then .ok (s, c, [], false)
    else
      let a := if c.i0 e = 0 then c.row e else c.dcAddr
      if a.toNat % 8 ≠ 0 then .error (s, .fault ⟨0x2A, a, 6, 0xF, none, none⟩)
      else match streamRead s earlier c a 8 true with
        | .error x => .error (s, x)
        | .ok (w, s1, wk) => .ok (s1, { c with dcAddr := a + 8, dcMask := w }, toBytes 8 w.toNat, wk)
  match begin with
  | .error x => .error x
  | .ok (s1, c1, l, wk) =>
    let stored : ElemRes (State × StreamCmd × Nat × List Byte) :=
      if !c1.dcMask.getLsbD j then .ok (s1, c1, 0, l)
      else match streamRead s1 earlier c1 c1.dcAddr c1.fsz true with
        | .error x => .error (s1, x)
        | .ok (w, s2, _) =>
          .ok (s2, { c1 with dcAddr := c1.dcAddr + BitVec.ofNat 64 c1.fsz }, w.toNat, l ++ toBytes c1.fsz w.toNat)
    match stored with
    | .error x => .error x
    | .ok (s2, c2, raw, l2) =>
      if j ≠ 63 then .ok ⟨s2, c2, raw, l2, c.inside e 0, wk⟩
      else match readPadding earlier c2 8 c2.dcAddr s2 l2 with
        | .error x => .error x
        | .ok (s3, l3) => .ok ⟨s3, { c2 with dcAddr := (c2.dcAddr + 7) &&& ~~~7 }, raw, l3, c.inside e 0, wk⟩

/-- The far read of element e of a filling stream; 0 and no bytes where inside = 0 (R146, R147). With DC the stored bytes of
an element that is not inside are among the compressed bytes as read: R151 also excludes elements with inside = 0, and
that the former holds here is the model's choice (log 100). -/
def farRead (s : State) (earlier : List Cmd) (c : StreamCmd) (e : Nat) : ElemRes Fetched :=
  match streamIndex s earlier c e with
  | .error x => .error x
  | .ok (ix, s1) =>
    if c.dc then (match sparseRead s1 earlier c e with
      | .error x => .error x
      | .ok f => .ok { f with inside := c.inside e ix })
    else if !c.inside e ix then .ok ⟨s1, c, 0, [], false, false⟩
    else if c.kind == .cp then match copyRead s1 c e with
      | .error x => .error (s1, x)
      | .ok (v, s2) => .ok ⟨s2, c, v, toBytes c.fsz v, true, false⟩
    else match streamRead s1 earlier c (c.far e ix) c.fsz false with
      | .error x => .error (s1, x)
      | .ok (w, s2, wk) => .ok ⟨s2, c, w.toNat, toBytes c.fsz w.toNat, true, wk⟩

/-! ## The near side -/

/-- Takes ring slots until slot k is held; none while the ring has none to give (R164). -/
def takeSlots (n : BitVec 3) (k : Nat) : Nat → State → StreamCmd → Option (State × StreamCmd)
  | 0, s, c => if k < c.slots.length then some (s, c) else none
  | fuel + 1, s, c =>
    if k < c.slots.length then some (s, c)
    else
      let r := s.ringCnt n
      match r.acquire (!c.empties) 1 (cbCount (s.cbCfg n)) with
      | none => none
      | some r' => takeSlots n k fuel (s.setRing n r') { c with slots := c.slots ++ [if c.empties then r.tail else r.head] }

/-- Scratchpad offset of near index m in a ring, once its slot is held (R164). -/
def ringPlace (n : BitVec 3) (s : State) (c : StreamCmd) (m : Nat) : Option (State × StreamCmd × Nat) :=
  let cfg := s.cbCfg n
  let k := m * c.nsz / cbSlot cfg
  match takeSlots n k (k + 1) s c with
  | none => none
  | some (s1, c1) => (c1.slots[k]?).map (fun pos => (s1, c1, cbBase cfg + cbSlot cfg * pos + m * c.nsz % cbSlot cfg))

/-- Insertion of a near element, ascending in near index. -/
def insertNear (n : Nat) (v : Word) : List (Nat × Word) → List (Nat × Word)
  | [] => [(n, v)]
  | x :: r => if n < x.1 then (n, v) :: x :: r else x :: insertNear n v r

/-- An index that is not in a rising list yet is put in its place. -/
def insertIx (n : Nat) : List Nat → List Nat
  | [] => [n]
  | x :: r => if n < x then n :: x :: r else if n = x then x :: r else x :: insertIx n r

/-- Leading contiguous indices from k on (R152, R155). -/
def leadFrom : Nat → List Nat → Nat
  | k, [] => k
  | k, x :: r => if x = k then leadFrom (k + 1) r else k

/-- The near element whose turn it is: the first that has neither been moved nor failed (R164). -/
def StreamCmd.lead (c : StreamCmd) : Nat :=
  leadFrom 0 (c.skip.foldl (fun l x => insertIx x.1 l) (c.moved.map (fun m => m.1)))

/-- A near element has landed or has been read out: CNT, WM, the queue of the port and the ring follow (R152, R159,
R164). -/
def State.landed (s : State) (c : StreamCmd) (n : Nat) (v : Word) : State × StreamCmd :=
  let c1 := { c with moved := insertNear n v c.moved }
  let cnt := leadFrom 0 (c1.moved.map (fun m => m.1))
  let s1 := s.setCnt c.port cnt
  match c.near with
  | .ring r => s1.passSlots c1 ((if c.empties then c1.lead else cnt) * c.nsz / cbSlot (s.cbCfg r))
  | .queue => (s1.onPort (fun q => { q with
      ldq := rset q.ldq (c.port.setWidth 2) ((c1.moved.take cnt).map (fun m => m.2)) }), c1)
  | _ => (s1, c1)

/-- What the data of a scratchpad refuses to a write by a stream (R118, R119). -/
def State.scrFault (s : State) (core : BitVec 8) (off n : Nat) (kind : AccKind) : Option MemFault :=
  let pa := scratchBase core.toNat + off
  (s.dataFault kind pa n).map (fun x => ⟨x.1, BitVec.ofNat 64 pa, kind.code, 0xF, x.2, none⟩)

/-- A transposing stream of a ring visits far elements in ascending e and the slots in near order, so that it holds one slot
at a time (R146, R164; log 58): what it has read on one side waits for its turn on the other. -/
def StreamCmd.buffered (c : StreamCmd) : Bool :=
  c.tr && (match c.near with
    | .ring _ => true
    | _ => false)

/-- A near element is written (R148, R152, R164); a remote one is sent, and one of a transposing stream of a ring waits. One of a MODE 1 region at an address that is no
multiple of nsz takes 0x2A, as a far one does: the spec asks alignment of far elements only (log 98). -/
def nearWrite (s : State) (earlier : List Cmd) (c : StreamCmd) (e n : Nat) (v : Word) : Except Stop (State × StreamCmd) :=
  let put (s : State) (c : StreamCmd) (off : Nat) : Except Stop (State × StreamCmd) :=
    match s.scrFault s.core.id off c.nsz .xwrite with
    | some m => .error (.fault m)
    | none => .ok ((s.scrPut s.core.id off (toBytes c.nsz v.toNat)).landed c n v)
  match c.near with
  | .window w => put s c (w.toNat + n * c.nsz)
  | .ring r => if c.buffered then .ok (s, { c with sends := c.sends ++ [(n, v)] }) else match ringPlace r s c n with
    | none => .error (.wait .cbAcq)
    | some (s1, c1, off) => put s1 c1 off
  | .queue => .ok (s.landed c n v)
  | .remote _ _ _ => .ok (s, { c with sends := c.sends ++ [(n, v)] })
  | .away _ _ _ _ => .error (.wait .xsWait)
  | .region b => match store s earlier c.pl .xwrite c.seq e (b + BitVec.ofNat 64 (n * c.nsz)) c.nsz v with
    | .error x => .error (x.asStream 7)
    | .ok s1 => .ok (s1.landed c n v)

/-- A near element of an emptying stream is read. -/
def nearRead (s : State) (earlier : List Cmd) (c : StreamCmd) (n : Nat) : Except Stop (Nat × State × StreamCmd) :=
  let scrRead (s : State) (c : StreamCmd) (off : Nat) : Except Stop (Nat × State × StreamCmd) :=
    match s.scrFault s.core.id off c.nsz .xread with
    | some m => .error (.fault m)
    | none => .ok (ofBytes (s.scr s.core.id off c.nsz), s.correct (scratchBase s.core.id.toNat + off) c.nsz, c)
  match c.near with
  | .window w => scrRead s c (w.toNat + n * c.nsz)
  | .ring r => match ringPlace r s c n with
    | none => .error (.wait .cbAcq)
    | some (s1, c1, off) => scrRead s1 c1 off
  | .region b => match streamRead s earlier c (b + BitVec.ofNat 64 (n * c.nsz)) c.nsz false with
    | .error x => .error x
    | .ok (w, s1, _) => .ok (w.toNat, s1, c)
  | _ => .error (.wait .dauStall)

/-! ## One element (R146–R152) -/

/-- Elements that were performed ahead of the next one pass when their turn comes: their flags stick, their far bytes
count for the source checksum (R149, R151). -/
def passAhead : Nat → State × StreamCmd → State × StreamCmd
  | 0, x => x
  | n + 1, (s, c) => match c.ahead.find? (fun a => a.1 == c.next) with
    | none => (s, c)
    | some (_, f, l) => passAhead n (s.portFlags c.port f, { c with
        next := c.next + 1, srcCrc := crcRun c.srcCrc l, ahead := c.ahead.filter (fun a => a.1 != c.next) })

/-- Element e of a filling stream, the next one or one ahead of it (R171). Conversion stands before
padding: an element that is read and not inside leaves its flags (R149). -/
def fillElem (s : State) (earlier : List Cmd) (c : StreamCmd) (e : Nat) : ElemRes (State × StreamCmd) :=
  match farRead s earlier c e with
  | .error x => .error x
  | .ok f =>
    let v := if f.inside || c.dc then f.c.convert c.ffmt c.nfmt c.sc.toInt f.raw else (0, 0)
    let near := BitVec.ofNat 64 (if f.inside then v.1 else 0)
    if e = c.next then
      match nearWrite (f.s.portFlags c.port v.2) earlier
          { f.c with srcCrc := crcRun f.c.srcCrc f.bytes, next := e + 1 } e (c.nearIx e) near with
      | .error x => .error (f.s, x)
      | .ok x => .ok (passAhead c.ahead.length x)
    else match nearWrite f.s earlier { f.c with ahead := f.c.ahead ++ [(e, v.2, f.bytes)] } e (c.nearIx e) near with
      | .error x => .error (f.s, x)
      | .ok x => .ok x

/-- The far side of element e of an emptying stream, whose near element is raw (R146, R147, R149, R151): outside its bounds
nothing is written. -/
def farWrite (s : State) (earlier : List Cmd) (c : StreamCmd) (e : Nat) (ix : BitVec 32) (raw : Nat) :
    Except Stop (State × StreamCmd) :=
  let v := c.convert c.nfmt c.ffmt (-c.sc.toInt) raw
  if !c.inside e ix then .ok (s.portFlags c.port v.2, { c with next := e + 1 })
  else match store s earlier c.pl .xwrite c.seq e (c.far e ix) c.fsz (BitVec.ofNat 64 v.1) with
    | .error x => .error (x.asStream 7)
    | .ok s1 => .ok (s1.portFlags c.port v.2, { c with next := e + 1, dstCrc := crcRun c.dstCrc (toBytes c.fsz v.1) })

/-- Element e of an emptying stream. -/
def emptyElem (s : State) (earlier : List Cmd) (c : StreamCmd) (e : Nat) : ElemRes (State × StreamCmd) :=
  match streamIndex s earlier c e with
  | .error x => .error x
  | .ok (ix, s1) => match nearRead s1 earlier c (c.nearIx e) with
    | .error x => .error (s1, x)
    | .ok (raw, s2, c1) => match farWrite s2 earlier c1 e ix raw with
      | .error x => .error ({ s2 with core := s1.core }, x)
      | .ok (s3, c2) => .ok (s3.landed c2 (c.nearIx e) (BitVec.ofNat 64 raw))

/-- Element e of a stream. -/
def streamElem (s : State) (earlier : List Cmd) (c : StreamCmd) (e : Nat) : ElemRes (State × StreamCmd) :=
  if c.empties then emptyElem s earlier c e else fillElem s earlier c e

/-- Where a sender of a MODE 0 stream stands toward its target's cluster (R107, R409, R434). -/
inductive Gate where
  /-- ingress is open -/
  | open
  /-- held, and the request is not yet counted -/
  | hold
  /-- held already -/
  | held
  /-- refused with 0x2C -/
  | refused
  deriving DecidableEq, Repr

/-- The gate of a new remote access through a leaf with the WK given: once ingress opens, held requests proceed in their
order of arrival, and others after them (R434). -/
def State.gate (s : State) (t : BitVec 8) (p : BitVec 4) (wk : Bool) : Gate :=
  let cl := s.clAt (clusterOf t)
  let me : HeldAccess := ⟨s.core.id, p⟩
  let l := s.heldAt (clusterOf t)
  if cl.isolated then .refused
  else if cl.open then (match l with
    | [] => .open
    | h :: _ => if h = me then .open else .held)
  else if l.contains me then .held
  else if !wk then .refused
  else .hold

/-- A request is held at a cluster's ingress and wakes it (R434). -/
def State.holdAt (s : State) (t : BitVec 8) (p : BitVec 4) : State :=
  (s.onCl (clusterOf t) (fun c => { c with held := s.heldAt (clusterOf t) ++ [⟨s.core.id, p⟩] })).wakeCluster (clusterOf t)

/-- All elements of a stream have been moved. -/
def StreamCmd.complete (c : StreamCmd) : Bool := decide (c.exp.toNat ≤ c.next) && c.sends.isEmpty

/-- Elements of a stream may be performed out of their order within a group of 16: those of a filling stream whose near
side is a window or a queue of the core (R162, R171; log 9). -/
def StreamCmd.unordered (c : StreamCmd) : Bool :=
  !c.empties && !c.dc && (match c.near with
    | .window _ | .queue => true
    | _ => false)

/-- The element that an event performs: the k-th of those of the present group of 16 still to be performed. -/
def StreamCmd.pick (c : StreamCmd) (k : Nat) : Option Nat :=
  if k = 0 then some c.next
  else if !c.unordered then none
  else (c.rest.filter (fun e => e / 16 == c.next / 16))[k]?

/-- The next element of an active stream is performed, or the stream fails at it, once what it has sent has arrived
(R154). -/
def State.stepNext (s : State) (earlier : List Cmd) (c : StreamCmd) : Out :=
  match streamElem s earlier c c.next with
  | .error (_, .wait _) => notDue "STREAM_ELEMENT_COMPLETE"
  | .error (s1, .fault m) =>
    if c.sends.isEmpty then .next (s1.failStream c c.next m) else notDue "STREAM_ELEMENT_COMPLETE"
  | .ok (s1, c1) => .next (if c1.complete then s1.finishStream c1 else s1.putCmd c.port (.stream c1))

/-- An element of an active stream is performed. A stream fails at its next element only (R154). -/
def State.stepStream (s : State) (earlier : List Cmd) (c : StreamCmd) (e : Nat) : Out :=
  if e == c.next then s.stepNext earlier c
  else match streamElem s earlier c e with
    | .error _ => notDue "STREAM_ELEMENT_COMPLETE"
    | .ok (s1, c1) => .next (s1.putCmd c.port (.stream c1))

/-! ### Transposing streams of a ring (R146, R164; log 58) -/

/-- The turn of near element k at its place in the ring, where the ring has a slot for it: it is read, or written with v;
where its scratchpad refuses, that is noted. -/
def State.nearTurn (s : State) (c : StreamCmd) (r : BitVec 3) (k : Nat) (v : Word) : Option (State × StreamCmd) :=
  (ringPlace r s c k).map (fun x =>
    let off := x.2.2
    let pa := scratchBase s.core.id.toNat + off
    match x.1.scrFault s.core.id off c.nsz (if c.empties then .xread else .xwrite) with
    | some m =>
      let c1 := { x.2.1 with skip := x.2.1.skip ++ [(k, m.cause, pa, m.bad)], sends := x.2.1.sends.filter (fun y => y.1 != k) }
      if c.empties then x.1.passSlots c1 (c1.lead * c.nsz / cbSlot (s.cbCfg r)) else (x.1, c1)
    | none =>
      if c.empties then
        let raw := BitVec.ofNat 64 (ofBytes (x.1.scr s.core.id off c.nsz))
        (x.1.correct pa c.nsz).landed { x.2.1 with sends := x.2.1.sends ++ [(k, raw)] } k raw
      else (x.1.scrPut s.core.id off (toBytes c.nsz v.toNat)).landed
        { x.2.1 with sends := x.2.1.sends.filter (fun y => y.1 != k) } k v)

/-- The stream fails at the lowest element whose near side has failed (R154). -/
def State.failSkip (s : State) (c : StreamCmd) : Out :=
  match (List.range c.exp.toNat).findSome? (fun e => (c.skip.find? (fun x => x.1 == c.nearIx e)).map (fun x => (e, x.2))) with
  | some (e, cause, pa, bad) => .next (s.failStream c e ⟨cause, BitVec.ofNat 64 pa, if c.empties then 6 else 7, 0xF, bad, none⟩)
  | none => notDue "STREAM_ELEMENT_COMPLETE"

/-- A step of a producer: the element whose near turn has come goes into its slot, or the next far element is read. -/
def State.stepProducer (s : State) (earlier : List Cmd) (c : StreamCmd) (r : BitVec 3) : Out :=
  match c.sends.find? (fun x => x.1 == c.lead) with
  | some (k, v) => (match s.nearTurn c r k v with
    | some (s1, c1) => .next (if c1.complete && c1.skip.isEmpty then s1.finishStream c1 else s1.putCmd c.port (.stream c1))
    | none => s.failSkip c)
  | none =>
    if c.exp.toNat ≤ c.next then s.failSkip c
    else match fillElem s earlier c c.next with
      | .error (_, .wait _) => notDue "STREAM_ELEMENT_COMPLETE"
      | .error (s1, .fault m) => if c.skip.isEmpty then .next (s1.failStream c c.next m) else s.failSkip c
      | .ok (s1, c1) => .next (s1.putCmd c.port (.stream c1))

/-- A step of a consumer: the next far element is written once its near element has been read, or the next near element is
read. -/
def State.stepConsumer (s : State) (earlier : List Cmd) (c : StreamCmd) (r : BitVec 3) : Out :=
  let n := c.nearIx c.next
  match c.sends.find? (fun x => x.1 == n) with
  | some (_, v) => (match streamIndex s earlier c c.next with
    | .error (_, .wait _) => notDue "STREAM_ELEMENT_COMPLETE"
    | .error (s1, .fault m) => .next (s1.failStream c c.next m)
    | .ok (ix, s1) => match farWrite s1 earlier { c with sends := c.sends.filter (fun x => x.1 != n) } c.next ix v.toNat with
      | .error (.wait _) => notDue "STREAM_ELEMENT_COMPLETE"
      | .error (.fault m) => .next (s1.failStream c c.next m)
      | .ok (s2, c1) => .next (if c1.complete then s2.finishStream c1 else s2.putCmd c.port (.stream c1)))
  | none =>
    if c.skip.any (fun x => x.1 == n) then s.failSkip c
    else match s.nearTurn c r c.lead 0 with
      | some (s1, c1) => .next (s1.putCmd c.port (.stream c1))
      | none => notDue "STREAM_ELEMENT_COMPLETE"

/-- A step of a transposing stream of a ring. -/
def State.stepBuffered (s : State) (earlier : List Cmd) (c : StreamCmd) : Out :=
  match c.near with
  | .ring r => if c.empties then s.stepConsumer earlier c r else s.stepProducer earlier c r
  | _ => notDue "STREAM_ELEMENT_COMPLETE"

/-- Far address of the next element, as memory holds its index. -/
def State.nextFar (s : State) (c : StreamCmd) : Word := c.far c.next ((s.peekIndex c c.next).getD 0)

/-- The next element of a MODE 0 stream: it is read, and sent through the gate of the target's cluster (R107, R148, R434).
A MODE 0 delivery names no page of its target: that the WK of the leaf through which the element is read decides, and
counts as 0 where it reads no memory, is the model's choice (log 87), and so is that the gate is asked before the target
may refuse the stream with 0x66 (log 99). -/
def State.sendElem (s : State) (earlier : List Cmd) (c : StreamCmd) (t : BitVec 8) : Out :=
  match farRead s earlier c c.next with
  | .error _ => s.stepStream earlier c c.next
  | .ok f => match s.gate t c.port f.wk with
    | .open => (s.unhold t c.port).stepStream earlier c c.next
    | .held => notDue "STREAM_ELEMENT_COMPLETE"
    | .hold => .next (s.holdAt t c.port)
    | .refused =>
      if c.sends.isEmpty then .next (s.failStream c c.next ⟨0x2C, s.nextFar c, 7, 0xF, none, none⟩)
      else notDue "STREAM_ELEMENT_COMPLETE"

/-- STREAM_ELEMENT_COMPLETE: an element of the active stream of a port moves, or the stream fails at it (R146–R154). -/
def execStreamElementComplete (s : State) : Out :=
  let s := s.focus s.ev.c
  match splitCmd s.ev.p s.core.cmds with
  | some (b, .stream c, _) =>
    if !c.active then notDue "STREAM_ELEMENT_COMPLETE"
    else if c.buffered && s.ev.chunk == 0 then s.stepBuffered b c
    else if c.exp.toNat ≤ c.next then notDue "STREAM_ELEMENT_COMPLETE"
    else match c.pick s.ev.chunk.toNat with
      | none => notDue "STREAM_ELEMENT_COMPLETE"
      | some e => match c.near with
        | .remote t _ _ => s.sendElem b c t
        | _ => s.stepStream b c e
  | _ => notDue "STREAM_ELEMENT_COMPLETE"

/-! ## Arrivals (R148, R155, R409) -/

/-- What a target says to an arrival. -/
inductive Arrival where
  | lands
  /-- the context is not resident: the sender holds it -/
  | held
  | refused
  /-- the target is retired (R409) -/
  | retired
  deriving DecidableEq, Repr

/-- The target's answer to an arrival of elements of 2^nsz bytes at a channel (R148, R409). -/
def State.arrival (s : State) (t : BitVec 8) (ch : BitVec 3) (nsz : Nat) : Arrival :=
  match s.coreAt (numbered t) with
  | none => .refused
  | some x =>
    if (s.quadOf t).getLsbD 63 && s.partOf t == s.ctxIx then .retired
    else if !s.inPart t s.ctxIx then .refused
    else if x.run == .idle && x.gang.isNone && !(s.ctxAt s.ctxIx).saved.isEmpty then .held
    else
      let w := rget x.port.xstat (0#1 ++ ch)
      if xArm w && xNsz w == BitVec.ofNat 2 nsz then .lands else .refused

/-- An element lands in an armed channel, or overfills it (R155). That XFAULT.FVA is then 0 and KIND 7 is the model's choice
(log 111). -/
def Core.arrive (c : Core) (ch : BitVec 3) (ix : Nat) : Core :=
  let p : BitVec 4 := 0#1 ++ ch
  let x := rget c.port.xstat p
  let q := c.port
  if xExp x ≤ ix then
    { c with port := { q with
      xstat := rset q.xstat p (putFld x 61 stOverfill)
      xfault := rset q.xfault p ((0x61#8 ++ 0#56 : BitVec 64))
      xinfo := rset q.xinfo p (xlinfoWord 0 ⟨0x61, 0, 7, 0xF, none, none⟩) } }
  else
    let l := insertIx ix (rget q.arrived ch)
    let cnt := leadFrom 0 l
    let st := if xState x == stRecv && cnt = xExp x then stDone else xState x
    let w := rget q.chwin ch
    { c with port := { q with
      xstat := rset q.xstat p (putFld (putFld x 16 (BitVec.ofNat 16 cnt)) 61 st)
      chwin := rset q.chwin ch (chWord (chBase w + cnt * 2 ^ (xNsz x).toNat) (chBase w))
      arrived := rset q.arrived ch l } }

/-- A core discards an arrival (R409). -/
def Core.discard (c : Core) : Core :=
  let n : BitVec 32 := fld c.sys.dsig 0 32
  { c with sys := { c.sys with dsig := if n == BitVec.allOnes 32 then c.sys.dsig else zext (n + 1) } }

/-- A discarded arrival counts in DSIG, and marks the queue that dispatched the target's last task (R409). -/
def State.discardAt (s : State) (t : BitVec 8) : State :=
  let s1 := s.mapCore (numbered t) Core.discard
  match (s.coreAt (numbered t)).bind (fun c => c.lastTask) with
  | none => s1
  | some (ctx, q) => s1.queueErr ctx q

/-- REMOTE_ARRIVAL: the oldest element on its way from a port arrives (R155). -/
def execRemoteArrival (s : State) : Out :=
  let s := s.focus s.ev.c
  match splitCmd s.ev.p s.core.cmds with
  | some (_, .stream c, _) =>
    match c.near, c.sends with
    | .remote t ch off, (n, v) :: r =>
      let e := c.next - c.sends.length
      if !(s.clAt (clusterOf t)).admits then notDue "REMOTE_ARRIVAL"
      else match s.arrival t ch (fmtLog c.nfmt) with
      | .held => notDue "REMOTE_ARRIVAL"
      | .refused => .next (s.failStream c e ⟨0x66, 0, 7, 0xF, none, none⟩)
      | .retired => .next ((s.discardAt t).failStream c e ⟨0x66, 0, 7, 0xF, none, none⟩)
      | .lands =>
        let ix := off.toNat + n
        let x := match s.coreAt (numbered t) with
          | some y => y
          | none => s.core
        let fits := ix < xExp (rget x.port.xstat (0#1 ++ ch))
        let place := chBase (rget x.port.chwin ch) + ix * c.nsz
        match (if fits then s.scrFault t place c.nsz .xwrite else none) with
        | some m => .next (s.failStream c e m)
        | none =>
          let s1 := if fits then s.scrPut t place (toBytes c.nsz v.toNat) else s
          let s2 := (s1.mapCore (numbered t) (fun y => y.arrive ch ix)).landed { c with sends := r } n v
          .next (if s2.2.complete then s2.1.finishStream s2.2 else s2.1.putCmd c.port (.stream s2.2))
    | .away g _ _ _, _ :: _ =>
      if (s.ctxAt s.ctxIx).saved.any (fun x => x.gang.id == g) then notDue "REMOTE_ARRIVAL"
      else .next (s.failStream c (c.next - c.sends.length) ⟨0x66, 0, 7, 0xF, none, none⟩)
    | _, _ => notDue "REMOTE_ARRIVAL"
  | _ => notDue "REMOTE_ARRIVAL"

/-! ## Port forms: major 0x31 (R157) -/

/-- xs.wait (R157). -/
def execXsWait (a : BitVec 4) (b : BitVec 5) (s : State) : Out :=
  let x := s.xstat a
  (if s.portBad a then Res.trap s (s.portTrap a)
  else if (b != 0 && decide ((fld (s.g b) 0 16).toNat ≤ xCnt x)) || (!s.core.busyPort a && xState x != stRecv) then .done s
  else .wait s .xsWait).finish

/-- xs.cnt (R157). -/
def execXsCnt (d : BitVec 5) (a : BitVec 4) (s : State) : Out := (Res.done (s.setG d (s.xstat a))).finish

/-- xs.wm (R157). -/
def execXsWm (d : BitVec 5) (a : BitVec 3) (s : State) : Out := (Res.done (s.setG d (s.chwin a))).finish

/-- xs.csum (R157). -/
def execXsCsum (d : BitVec 5) (a : BitVec 4) (s : State) : Out :=
  (Res.done (s.setG d (rget s.core.port.xcsum a))).finish

/-- A port is reset (R156, R157): not armed, nothing arrived, WM at BASE; a failure it held no longer counts (R297). -/
def State.resetPort (s : State) (a : BitVec 4) : State :=
  let s1 := ((s.setXstat a 0).setXcsum a 0).setXfault a 0 0
  let b := chBase (s.portWin a)
  let s2 := (s1.setChwin a (chWord b b)).unfail a
  s2.onPort (fun q => { q with
    ldq := if a.ule 11 && !a.ule 7 then rset q.ldq (a.setWidth 2) [] else q.ldq
    arrived := if a.ule 7 then rset q.arrived (a.setWidth 3) [] else q.arrived })

/-- A channel is armed to receive VL elements (R155, R157); with none to come it is DONE. -/
def State.armPort (s : State) (a : BitVec 4) (x : Word) : State :=
  let base : Nat := (fld x 0 22).toNat
  let n := s.core.vec.n
  ((s.resetPort a).setXstat a ((((if n = 0 then stDone else stRecv) ++ 0#5 ++ (fld x 24 2 : BitVec 2) ++ 0#2 ++ 1#1 ++ 0#3
    ++ BitVec.ofNat 16 n ++ 0#32 : BitVec 64)))).setChwin a (chWord base base)

/-- xs.rst (R156, R157). -/
def execXsRst (a : BitVec 4) (b : BitVec 5) (s : State) : Out :=
  let x := s.g b
  (if xState (s.xstat a) == stActive then Res.wait s .dauStall
  else if b = 0 then .done (s.resetPort a)
  else Res.check s (firstTrap [
    (a.getLsbD 3, wordTrap (.xsRst a b) 0x07),
    (fld x 26 38 != 0 || fld x 22 2 != 0, plainTrap 0x60),
    (decide (2 ^ 21 < (fld x 0 22).toNat + s.core.vec.n * 2 ^ (fld x 24 2).toNat), plainTrap 0x64)])
    (.done (s.armPort a x))).finish

/-! ## What a release waits for (R161, R327) -/

/-- The command writes memory, or from gang scope on a channel of another core (R161, R326). -/
def Cmd.writesAt (scope : Nat) : Cmd → Bool
  | .stream c => c.empties || (match c.near with
      | .region _ => true
      | .remote _ _ _ | .away _ _ _ _ => decide (2 ≤ scope)
      | _ => false)
  | .sloe _ => false

/-- The command still reads memory: a stream its far or near side or its indices, a Sloe command its list or the length
array (R160, R289). -/
def Cmd.readsMem : Cmd → Bool
  | .stream c => !c.empties || c.indexed || (match c.near with
      | .region _ => true
      | _ => false)
  | .sloe c => c.kind == .dec || c.kind == .bm25

/-- A form that acts as an acquire at a scope waits for the memory reads of earlier commands of the core, so that none
is performed after a later read (R327; log 88). One held behind a failed port is no access yet. -/
def State.acquire (s : State) (scope : Nat) (k : Res) : Res :=
  if scope = 0 || !s.core.cmds.any (fun c => c.readsMem && (c.active || !s.portBad c.port)) then k else .wait s .fence

/-- A form that acts as a release at a scope: it waits for the memory writes of earlier commands; one held behind a
failed port makes it trap as xs.wait would (R161, R326, R327). -/
def State.release (s : State) (scope : Nat) (k : Res) : Res :=
  if scope = 0 then k
  else
    let w := s.core.cmds.filter (Cmd.writesAt scope)
    match w.find? (fun c => !c.active && s.portBad c.port) with
    | some c => .trap s (s.portTrap c.port)
    | none => if w.isEmpty then k else .wait s .fence

end Sys2Proof.Machine
end

