-- ==== Sys2Proof/Machine/Reserve.lean ====
section
/-! DEFINITION. Reserving loops and the Quince wave former: major 0x36 (R306–R320). -/

namespace Sys2Proof.Machine

/-! ## Claims (R307) -/

/-- rotl9. -/
def rotl9 (x r : Nat) : Nat := (x * 2 ^ r + x / 2 ^ (9 - r)) % 512

/-- rsv_hash of an address (R307). -/
def rsvHash (a : Word) : Nat × Nat × Nat :=
  let g : Nat := (fld a 5 51).toNat
  let s (j : Nat) : Nat := g / 2 ^ (9 * j) % 512
  (List.range 6).foldl (fun (t : Nat × Nat × Nat) j =>
    (t.1 ^^^ s j, t.2.1 ^^^ rotl9 (s j) ((j + 1) % 9), t.2.2 ^^^ rotl9 (s j) ((4 + 3 * j) % 9))) (0, 0, 0)

/-- A claim posted to an item (R307, R314). -/
def RsvItem.claim (x : RsvItem) (a : Word) : RsvItem :=
  let h := rsvHash a
  { x with
    sig := x.sig ||| (1 <<< h.1) ||| (1 <<< h.2.1) ||| (1 <<< h.2.2)
    granules := x.granules ++ [fld a 5 51]
    count := x.count + 1 }

/-! ## Waves (R309) -/

/-- Admission of live items in ascending index, given the union of the signatures before. -/
def letIn : BitVec 512 → List RsvItem → List RsvItem
  | _, [] => []
  | u, x :: r =>
    if x.live then { x with admitted := x.sig &&& u == 0 } :: letIn (u ||| x.sig) r
    else { x with admitted := false } :: letIn u r

/-- The next wave of a session (R309, R315, R317). -/
def Session.form (x : Session) : Session :=
  let items := letIn 0 x.items
  { x with
    items := items
    waved := true
    liveAt := (items.filter (fun i => i.live)).length
    waves := x.waves + (if items.any (fun i => i.live && i.admitted) then 1 else 0)
    earlier := (x.present.reverse.map (fun p => p.2)) ++ x.earlier
    present := [] }

/-! ## RSVSTAT (R316) -/

/-- An RSVSTAT word. -/
def rsvWord (isOpen : Bool) (ni live wave first nloc : Nat) : Word :=
  (BitVec.ofBool isOpen ++ 0#3 ++ BitVec.ofNat 12 ni ++ BitVec.ofNat 12 live ++ BitVec.ofNat 12 wave
    ++ BitVec.ofNat 12 first ++ BitVec.ofNat 12 nloc).setWidth 64

/-- FIRST and NLOC of the core. -/
def Core.rsvFirst (c : Core) : Nat := (fld c.rsvstat 12 12).toNat
def Core.rsvNloc (c : Core) : Nat := (fld c.rsvstat 0 12).toNat

/-- Replaces RSVSTAT. -/
def State.setRsvstat (s : State) (x : Word) : State := s.onCore (fun c => { c with rsvstat := x })

/-! ## Rendezvous (R312, R313) -/

/-- The Quince of a cluster can take another session of ni items (R306). -/
def Cluster.quinceRoom (c : Cluster) (ni : Nat) : Bool :=
  decide (c.quince.length < 4) && decide (c.quince.foldl (fun n x => n + x.ni) 0 + ni ≤ 2048)

/-- Two ranges of items overlap. -/
def rangesMeet : List RsvArrival → Bool
  | [] => false
  | x :: r => r.any (fun y => decide (0 < x.nloc) && decide (0 < y.nloc) && meets x.first x.nloc y.first y.nloc) || rangesMeet r

/-- The items that arrivals at rsv.open cover. -/
def openItems (l : List RsvArrival) (ni : Nat) : List RsvItem :=
  (List.range ni).filterMap (fun i =>
    (l.find? (fun x => decide (x.first ≤ i) && decide (i < x.first + x.nloc))).map (fun x =>
      (⟨i, 0, [], 0, x.live.getLsbD (i - x.first), false⟩ : RsvItem)))

/-- The meeting ends for every member, with a cause or none. -/
def State.rsvVerdict (s : State) (cause : Option (BitVec 8)) : State :=
  s.onShare (fun h => { h with rendez := [], rdone := h.rdone ++ h.rendez.map (fun x => ⟨x.rank, cause, none⟩) })

/-- All members have arrived: the meeting takes effect (R312, R313, R315); none while rsv.open waits for room. -/
def State.rsvMeet (s : State) : Option State :=
  let l := s.share.rendez
  if l.length < s.gangSize then none
  else match l with
    | [] => none
    | x :: r =>
      if r.any (fun y => y.form != x.form) then some (s.rsvVerdict (some 0x76))
      else
        let cl := clusterOf s.core.id
        match x.form with
        | .openS =>
          if r.any (fun y => y.ni != x.ni) || rangesMeet l then some (s.rsvVerdict (some 0x76))
          else if (s.clAt cl).quinceRoom x.ni then
            let items := openItems l x.ni
            some ((s.onCl cl (fun c => { c with quince := c.quince ++
              [⟨s.owner, x.ni, items, false, (items.filter (fun i => i.live)).length, 0, [], []⟩] })).rsvVerdict none)
          else none
        | .wave => some ((s.onSession Session.form).rsvVerdict none)
        | .close =>
          some ((s.onCl cl (fun c => { c with quince := c.quince.filter (fun q => q.owner != s.owner) })).rsvVerdict none)

/-- RSV_RENDEZVOUS: the members of a waiting gang have all arrived (R312). -/
def execRsvRendezvous (s : State) : Out :=
  let s := s.focus s.ev.c
  match s.rsvMeet with
  | some s1 => .next s1
  | none => notDue "RSV_RENDEZVOUS"

/-- How the meeting ended for the core. -/
def State.rsvEnd (s : State) : Option Verdict := s.share.rdone.find? (fun v => v.rank == s.core.rank)

/-- The core goes on from a meeting that has ended. -/
def State.rsvLeave (s : State) (v : Verdict) (fin : State → State) : Res :=
  let s1 := s.onShare (fun h => { h with rdone := h.rdone.filter (fun w => w.rank != s.core.rank) })
  match v.cause with
  | some c => .trap s1 (plainTrap c)
  | none => .done (fin s1)

/-- A rendezvous form (R312): its end if the meeting has ended, its wait if it has arrived, else its checks and its
arrival; a gang of one meets itself at once. -/
def State.rendezvous (s : State) (check : Option Trap) (x : RsvArrival) (fin : State → State) : Res :=
  match s.rsvEnd with
  | some v => s.rsvLeave v fin
  | none =>
    if s.share.rendez.any (fun y => y.rank == s.core.rank) then .wait s .rendezvous
    else Res.check s check (
      let s1 := s.onShare (fun h => { h with rendez := h.rendez ++ [x] })
      if s.gangSize ≠ 1 then .wait s1 .rendezvous
      else match s1.rsvMeet with
        | none => .wait s1 .rendezvous
        | some s2 => match s2.rsvEnd with
          | some v => s2.rsvLeave v fin
          | none => .wait s2 .rendezvous)

/-- An arrival of a form without operands. -/
def State.rsvArrival (s : State) (f : RsvForm) : RsvArrival := ⟨s.core.rank, f, 0, 0, 0, 0⟩

/-! ## The forms (R311–R316) -/

/-- No session is open for the gang. -/
def State.noSession (s : State) : Bool := s.session.isNone

/-- rsv.open (R313). -/
def execRsvOpen (a b : BitVec 5) (k : BitVec 3) (s : State) : Out :=
  let ni := (s.g a).toNat
  let first := (s.g b).toNat
  let nloc := s.core.vec.n
  (s.rendezvous
    (firstTrap [(!s.noSession, plainTrap 0x77),
      (ni == 0 || decide (2048 < ni) || decide (ni < first + nloc), plainTrap 0x76)])
    ⟨s.core.rank, .openS, ni, first, nloc, s.kreg k⟩
    (fun t => t.setRsvstat (rsvWord true ni ((t.session.map (fun x => x.liveAt)).getD 0) 0 first nloc))).finish

/-- The claims of rsv.claim in ascending element: the item's index and the address (R314). -/
def State.claims (s : State) (a b : BitVec 5) (sh : Nat) (k : BitVec 3) : List (Nat × Nat × Word) :=
  let o := s.vop a
  let v (e : Nat) : Int := if o.tag.isSInt then sInt o.tag.width (s.vbits o e) else (s.vbits o e : Int)
  (s.actives k 0).map (fun e => (e, s.core.rsvFirst + e, s.g b + BitVec.ofInt 64 (v e * 2 ^ sh)))

/-- Posts claims to a session; the first that overflows its item ends it with none (R314). -/
def postClaims : List (Nat × Nat × Word) → List RsvItem → Option (List RsvItem)
  | [], l => some l
  | (_, i, a) :: r, l =>
    if l.any (fun x => x.idx == i && x.live && decide (16 ≤ x.count)) then none
    else postClaims r (l.map (fun x => if x.idx = i && x.live then x.claim a else x))

/-- rsv.claim (R314). At cause 0x75 PIX stands at group 0, in the class of stores: that a form which writes no register
counts there is the model's choice (log 91). -/
def execRsvClaim (d : BitVec 3) (a b : BitVec 5) (k : BitVec 3) (s : State) : Out :=
  let o := s.vop a
  match s.session with
  | none => (Res.trap s (plainTrap 0x77)).finish
  | some x =>
    (Res.check s (firstTrap [
      (x.waved, plainTrap 0x77),
      ((s.actives k 0).any (fun e => decide (s.core.rsvNloc ≤ e)), plainTrap 0x76),
      (!o.tag.isInt, plainTrap 0x42), (s.overCap [o], plainTrap 0x44)])
      (match postClaims (s.claims a b d.toNat k) x.items with
        | none => .trap (s.markPix clsMem 0 0) (plainTrap 0x75)
        | some items => .done (s.clearPix.onSession (fun y => { y with items := items })))).finish

/-- k[d] after a wave: admitted(FIRST + e) for e below NLOC, 0 up to VL (R315). -/
def State.waveMask (s : State) (d : BitVec 3) : BitVec 8192 :=
  let items := (s.session.map (fun x => x.items)).getD []
  (List.range s.core.vec.n).foldl (fun m e =>
    putBit m e (decide (e < s.core.rsvNloc) && items.any (fun i => i.idx == s.core.rsvFirst + e && i.admitted))) (s.kreg d)

/-- rsv.wave (R309, R315). -/
def execRsvWave (d : BitVec 3) (s : State) : Out :=
  (s.rendezvous (firstTrap [(s.noSession, plainTrap 0x77)]) (s.rsvArrival .wave) (fun t =>
    let x := t.session
    (t.setK d (t.waveMask d)).setRsvstat (putFld (putFld t.core.rsvstat 36 (BitVec.ofNat 12 ((x.map (fun y => y.liveAt)).getD 0)))
      24 (BitVec.ofNat 12 ((x.map (fun y => y.waves)).getD 0))))).finish

/-- rsv.retire (R312, R315). -/
def execRsvRetire (k : BitVec 3) (s : State) : Out :=
  (Res.check s (firstTrap [(s.noSession, plainTrap 0x77)])
    (s.release 2 (.done (s.onSession (fun x => { x with
      items := x.items.map (fun i =>
        let e := i.idx - s.core.rsvFirst
        if decide (s.core.rsvFirst ≤ i.idx) && decide (e < s.core.rsvNloc) && s.act k e && i.admitted then
          { i with live := false } else i) }))))).finish

/-- rsv.stat (R316). -/
def execRsvStat (d : BitVec 5) (s : State) : Out := (Res.done (s.setG d s.core.rsvstat)).finish

/-- rsv.close (R315). -/
def execRsvClose (s : State) : Out :=
  (s.rendezvous (firstTrap [(s.noSession, plainTrap 0x77)]) (s.rsvArrival .close)
    (fun t => t.setRsvstat (putFld t.core.rsvstat 63 (0#1)))).finish

end Sys2Proof.Machine
end

