-- ==== Sys2Proof/Machine/Scalar.lean ====
section
/-! DEFINITION. Scalar arithmetic, immediates, and scalar loads and stores: majors 0x01 to 0x09, 0x0C and 0x0D (R120–R129). -/

namespace Sys2Proof.Machine

/-! ## Register operations (R120–R122) -/

/-- A form that writes one value to g[d] and goes on. -/
def State.scalar (s : State) (d : BitVec 5) (v : Word) : Out := (Res.done (s.setG d v)).finish

/-- Quotient and remainder of a signed division (R121). -/
def quotS (a b : Word) : Word := if b = 0 then BitVec.allOnes 64 else BitVec.ofInt 64 (a.toInt.tdiv b.toInt)
def remS (a b : Word) : Word := if b = 0 then a else BitVec.ofInt 64 (a.toInt.tmod b.toInt)

/-- Quotient and remainder of an unsigned division (R121). -/
def quotU (a b : Word) : Word := if b = 0 then BitVec.allOnes 64 else BitVec.ofNat 64 (a.toNat / b.toNat)
def remU (a b : Word) : Word := if b = 0 then a else BitVec.ofNat 64 (a.toNat % b.toNat)

/-- The shift count of R120: bits [5:0]. -/
def count6 (b : Word) : Nat := (fld b 0 6 : BitVec 6).toNat

/-- add (R120). -/
def execAdd (d a b : BitVec 5) (s : State) : Out := s.scalar d (s.g a + s.g b)

/-- sub (R120). -/
def execSub (d a b : BitVec 5) (s : State) : Out := s.scalar d (s.g a - s.g b)

/-- and (R120). -/
def execAnd (d a b : BitVec 5) (s : State) : Out := s.scalar d (s.g a &&& s.g b)

/-- or (R120). -/
def execOr (d a b : BitVec 5) (s : State) : Out := s.scalar d (s.g a ||| s.g b)

/-- xor (R120). -/
def execXor (d a b : BitVec 5) (s : State) : Out := s.scalar d (s.g a ^^^ s.g b)

/-- sll (R120). -/
def execSll (d a b : BitVec 5) (s : State) : Out := s.scalar d (s.g a <<< count6 (s.g b))

/-- srl (R120). -/
def execSrl (d a b : BitVec 5) (s : State) : Out := s.scalar d (s.g a >>> count6 (s.g b))

/-- sra (R120). -/
def execSra (d a b : BitVec 5) (s : State) : Out := s.scalar d ((s.g a).sshiftRight (count6 (s.g b)))

/-- slt (R120). -/
def execSlt (d a b : BitVec 5) (s : State) : Out := s.scalar d (if (s.g a).toInt < (s.g b).toInt then 1 else 0)

/-- sltu (R120). -/
def execSltu (d a b : BitVec 5) (s : State) : Out := s.scalar d (if (s.g a).toNat < (s.g b).toNat then 1 else 0)

/-- min (R120). -/
def execMin (d a b : BitVec 5) (s : State) : Out := s.scalar d (if (s.g a).toInt ≤ (s.g b).toInt then s.g a else s.g b)

/-- max (R120). -/
def execMax (d a b : BitVec 5) (s : State) : Out := s.scalar d (if (s.g a).toInt ≤ (s.g b).toInt then s.g b else s.g a)

/-- minu (R120). -/
def execMinu (d a b : BitVec 5) (s : State) : Out := s.scalar d (if (s.g a).toNat ≤ (s.g b).toNat then s.g a else s.g b)

/-- maxu (R120). -/
def execMaxu (d a b : BitVec 5) (s : State) : Out := s.scalar d (if (s.g a).toNat ≤ (s.g b).toNat then s.g b else s.g a)

/-- mul (R120). -/
def execMul (d a b : BitVec 5) (s : State) : Out := s.scalar d (s.g a * s.g b)

/-- mulh (R120). -/
def execMulh (d a b : BitVec 5) (s : State) : Out := s.scalar d (BitVec.ofInt 64 ((s.g a).toInt * (s.g b).toInt / 2 ^ 64))

/-- mulhu (R120). -/
def execMulhu (d a b : BitVec 5) (s : State) : Out := s.scalar d (BitVec.ofNat 64 ((s.g a).toNat * (s.g b).toNat / 2 ^ 64))

/-- div (R121). -/
def execDiv (d a b : BitVec 5) (s : State) : Out := s.scalar d (quotS (s.g a) (s.g b))

/-- divu (R121). -/
def execDivu (d a b : BitVec 5) (s : State) : Out := s.scalar d (quotU (s.g a) (s.g b))

/-- rem (R121). -/
def execRem (d a b : BitVec 5) (s : State) : Out := s.scalar d (remS (s.g a) (s.g b))

/-- remu (R121). -/
def execRemu (d a b : BitVec 5) (s : State) : Out := s.scalar d (remU (s.g a) (s.g b))

/-- clz: from 0 to 64 (R120). -/
def execClz (d a : BitVec 5) (s : State) : Out := s.scalar d (BitVec.ofNat 64 (leadZeros (s.g a) 64))

/-- popc (R120). -/
def execPopc (d a : BitVec 5) (s : State) : Out := s.scalar d (BitVec.ofNat 64 (popCount (s.g a)))

/-! ## Immediates (R123–R125) -/

/-- addi (R123). -/
def execAddi (d a : BitVec 5) (imm : BitVec 16) (s : State) : Out := s.scalar d (s.g a + sext imm)

/-- andi (R123). -/
def execAndi (d a : BitVec 5) (imm : BitVec 16) (s : State) : Out := s.scalar d (s.g a &&& zext imm)

/-- ori (R123). -/
def execOri (d a : BitVec 5) (imm : BitVec 16) (s : State) : Out := s.scalar d (s.g a ||| zext imm)

/-- xori (R123). -/
def execXori (d a : BitVec 5) (imm : BitVec 16) (s : State) : Out := s.scalar d (s.g a ^^^ zext imm)

/-- slli (R124). -/
def execSlli (d a : BitVec 5) (n : BitVec 6) (s : State) : Out := s.scalar d (s.g a <<< n.toNat)

/-- srli (R124). -/
def execSrli (d a : BitVec 5) (n : BitVec 6) (s : State) : Out := s.scalar d (s.g a >>> n.toNat)

/-- srai (R124). -/
def execSrai (d a : BitVec 5) (n : BitVec 6) (s : State) : Out := s.scalar d ((s.g a).sshiftRight n.toNat)

/-- lui (R53, R125). -/
def execLui (d : BitVec 5) (imm : BitVec 21) (s : State) : Out := s.scalar d (sext imm <<< 16)

/-- auipc: PC is its own address, or that of the blk.run that issues it (R125, R135). -/
def execAuipc (d : BitVec 5) (imm : BitVec 21) (s : State) : Out := s.scalar d (s.core.pc + (sext imm <<< 16))

/-! ## Loads and stores (R126–R129) -/

/-- A scalar load of n bytes, extended, into g[d] (R126–R128). -/
def scalarLoad (n : Nat) (ext : Word → Word) (ea : Word) (d : BitVec 5) (s : State) : Res :=
  match s.ld .sread 0 ea n with
  | .ok (w, s1) => .done (s1.setG d (ext w))
  | .error e => e.res s 0

/-- A scalar store of the low n bytes of g[d] (R126, R127). -/
def scalarStore (n : Nat) (ea : Word) (d : BitVec 5) (s : State) : Res :=
  match s.st .swrite 0 ea n (s.g d) with
  | .ok s1 => .done s1
  | .error e => e.res s 0

/-- The end of a scalar store: a write of DIERST that resets the dies ends the program of the writing core, which has
no next word (R450). -/
def Res.finishStore (s0 : State) : Res → Out
  | .done s => if !s0.dev.inReset && s.dev.inReset then .next s else .next s.next
  | r => r.finish

/-- ldx.b (R126). -/
def execLdxB (d a b : BitVec 5) (s : State) : Out := (scalarLoad 1 (fun w => sext (w.setWidth 8)) (s.g a + s.g b) d s).finish

/-- ldx.bu (R126). -/
def execLdxBu (d a b : BitVec 5) (s : State) : Out := (scalarLoad 1 id (s.g a + s.g b) d s).finish

/-- ldx.h (R126). -/
def execLdxH (d a b : BitVec 5) (s : State) : Out := (scalarLoad 2 (fun w => sext (w.setWidth 16)) (s.g a + s.g b) d s).finish

/-- ldx.hu (R126). -/
def execLdxHu (d a b : BitVec 5) (s : State) : Out := (scalarLoad 2 id (s.g a + s.g b) d s).finish

/-- ldx.w (R126). -/
def execLdxW (d a b : BitVec 5) (s : State) : Out := (scalarLoad 4 (fun w => sext (w.setWidth 32)) (s.g a + s.g b) d s).finish

/-- ldx.wu (R126). -/
def execLdxWu (d a b : BitVec 5) (s : State) : Out := (scalarLoad 4 id (s.g a + s.g b) d s).finish

/-- ldx.d (R126). -/
def execLdxD (d a b : BitVec 5) (s : State) : Out := (scalarLoad 8 id (s.g a + s.g b) d s).finish

/-- stx.b (R126). -/
def execStxB (d a b : BitVec 5) (s : State) : Out := (scalarStore 1 (s.g a + s.g b) d s).finishStore s

/-- stx.h (R126). -/
def execStxH (d a b : BitVec 5) (s : State) : Out := (scalarStore 2 (s.g a + s.g b) d s).finishStore s

/-- stx.w (R126). -/
def execStxW (d a b : BitVec 5) (s : State) : Out := (scalarStore 4 (s.g a + s.g b) d s).finishStore s

/-- stx.d (R126). -/
def execStxD (d a b : BitVec 5) (s : State) : Out := (scalarStore 8 (s.g a + s.g b) d s).finishStore s

/-- ld.d (R126). -/
def execLdD (d a : BitVec 5) (imm : BitVec 16) (s : State) : Out := (scalarLoad 8 id (s.g a + sext imm) d s).finish

/-- st.d (R126). -/
def execStD (d a : BitVec 5) (imm : BitVec 16) (s : State) : Out := (scalarStore 8 (s.g a + sext imm) d s).finishStore s

end Sys2Proof.Machine
end

