-- ==== Sys2Proof/Machine/VecArith.lean ====
section
/-! DEFINITION. Vector arithmetic, logic, compares, conversions, permutation, generation, mask forms, reductions, scans
and the ARX-10 generator: majors 0x18 to 0x21 (R198–R203, R211–R222). -/

namespace Sys2Proof.Machine

/-- fin (R211): the result by tag class. Integer and fx saturate, ang wraps, floating rounds once under RNE. -/
def VOp.fin (t : VOp) (x : XVal) : Nat × Flags := t.tag.roundRne t.frac x

/-- The value −0 lies below +0 in min and max (R211). -/
def below (x y : XVal) : Bool := x.lt y || (x.eq y && x.sign && !y.sign)

/-- The lesser of two values; nan if either is (R211). -/
def lesser (x y : XVal) : XVal := if x.isNan || y.isNan then .nan else if below y x then y else x

/-- The greater of two values; nan if either is (R211). -/
def greater (x y : XVal) : XVal := if x.isNan || y.isNan then .nan else if below x y then y else x

/-- min(max(z, x), y) (R211). -/
def clampOp (x y z : XVal) : XVal := lesser (greater z x) y

/-- floor(x·y / 2^w) of integers (R211). -/
def mulhOp (w : Nat) (x y _z : XVal) : XVal :=
  match x, y with
  | .fin a _, .fin b _ => .fin (a * b / (2 ^ w : Nat)) 0
  | _, _ => .zero

/-- A form of major 0x18 with three operands: op of a[e], b[e′] and d[e], finished into T (R199, R211). -/
def arith3 (cls : Tag → Bool) (op : XVal → XVal → XVal → XVal) (d a b : BitVec 5) (k : BitVec 3) (z : Bool) (r : BitVec 2)
    (s : State) : Res :=
  let t := s.vop a
  Res.check s (s.tagTrap cls t [s.vop b, s.vop d] [t, s.vop b, s.vop d])
    (let u := s.withRep d b r
    .done (s.elementwise d k z (fun e => t.fin (op (s.vval t e) (u.vval (s.vop b) (repIx r e)) (s.vval (s.vop d) e)))))

/-- A form of major 0x18 with one source (R211). -/
def arith1 (cls : Tag → Bool) (op : XVal → XVal) (d a : BitVec 5) (k : BitVec 3) (z : Bool) (s : State) : Res :=
  let t := s.vop a
  Res.check s (s.tagTrap cls t [s.vop d] [t, s.vop d])
    (.done (s.elementwise d k z (fun e => t.fin (op (s.vval t e)))))

/-- A form of major 0x19 on bit patterns of width w (R212). -/
def logic3 (cls : Tag → Bool) (op : Nat → Nat → Nat → Nat) (d a b : BitVec 5) (k : BitVec 3) (z : Bool) (r : BitVec 2)
    (s : State) : Res :=
  let t := s.vop a
  Res.check s (s.tagTrap cls t [s.vop b, s.vop d] [t, s.vop b, s.vop d])
    (let u := s.withRep d b r
    .done (s.elementwise d k z (fun e => (op t.tag.width (s.vbits t e) (u.vbits (s.vop b) (repIx r e)), 0))))

/-- v.not's shape (R212). -/
def logic1 (op : Nat → Nat → Nat) (d a : BitVec 5) (k : BitVec 3) (z : Bool) (s : State) : Res :=
  let t := s.vop a
  Res.check s (s.tagTrap clsAll t [s.vop d] [t, s.vop d])
    (.done (s.elementwise d k z (fun e => (op t.tag.width (s.vbits t e), 0))))

/-- A compare into k[d] (R213). -/
def compare3 (op : XVal → XVal → Bool) (d : BitVec 3) (a b : BitVec 5) (k : BitVec 3) (z : Bool) (r : BitVec 2)
    (s : State) : Res :=
  let t := s.vop a
  Res.check s (s.tagTrap clsAll t [s.vop b] [t, s.vop b])
    (.done (s.maskwise d k z (fun e => op (s.vval t e) (s.vval (s.vop b) (repIx r e)))))

/-! ## Major 0x18 (R211) -/

/-- v.add (R211). -/
def execVAdd (d a b : BitVec 5) (k : BitVec 3) (z : Bool) (r : BitVec 2) (s : State) : Out :=
  (arith3 clsAll (fun x y _ => x.add y) d a b k z r s).finish

/-- v.sub (R211). -/
def execVSub (d a b : BitVec 5) (k : BitVec 3) (z : Bool) (r : BitVec 2) (s : State) : Out :=
  (arith3 clsAll (fun x y _ => x.sub y) d a b k z r s).finish

/-- v.mul (R211). -/
def execVMul (d a b : BitVec 5) (k : BitVec 3) (z : Bool) (r : BitVec 2) (s : State) : Out :=
  (arith3 clsNoAng (fun x y _ => x.mul y) d a b k z r s).finish

/-- v.mulh: floor of the product over 2^w, integer tags only (R211). -/
def execVMulh (d a b : BitVec 5) (k : BitVec 3) (z : Bool) (r : BitVec 2) (s : State) : Out :=
  (arith3 clsInt (mulhOp (s.vop a).tag.width) d a b k z r s).finish

/-- v.madd: one rounding of the exact x·y + z (R211). -/
def execVMadd (d a b : BitVec 5) (k : BitVec 3) (z : Bool) (r : BitVec 2) (s : State) : Out :=
  (arith3 clsNoAng (fun x y z => (x.mul y).add z) d a b k z r s).finish

/-- v.msub: one rounding of the exact z − x·y (R211). -/
def execVMsub (d a b : BitVec 5) (k : BitVec 3) (z : Bool) (r : BitVec 2) (s : State) : Out :=
  (arith3 clsNoAng (fun x y z => z.sub (x.mul y)) d a b k z r s).finish

/-- v.min (R211). -/
def execVMin (d a b : BitVec 5) (k : BitVec 3) (z : Bool) (r : BitVec 2) (s : State) : Out :=
  (arith3 clsNoAng (fun x y _ => lesser x y) d a b k z r s).finish

/-- v.max (R211). -/
def execVMax (d a b : BitVec 5) (k : BitVec 3) (z : Bool) (r : BitVec 2) (s : State) : Out :=
  (arith3 clsNoAng (fun x y _ => greater x y) d a b k z r s).finish

/-- v.abs (R73, R211). -/
def execVAbs (d a : BitVec 5) (k : BitVec 3) (z : Bool) (s : State) : Out :=
  (arith1 clsNoAng XVal.abs d a k z s).finish

/-- v.neg (R73, R211). -/
def execVNeg (d a : BitVec 5) (k : BitVec 3) (z : Bool) (s : State) : Out :=
  (arith1 clsAll XVal.neg d a k z s).finish

/-- v.clamp: y wins where x > y (R211). -/
def execVClamp (d a b : BitVec 5) (k : BitVec 3) (z : Bool) (r : BitVec 2) (s : State) : Out :=
  (arith3 clsNoAng clampOp d a b k z r s).finish

/-! ## Major 0x19 (R212) -/

/-- v.and (R212). -/
def execVAnd (d a b : BitVec 5) (k : BitVec 3) (z : Bool) (r : BitVec 2) (s : State) : Out :=
  (logic3 clsAll (fun _ x y => x &&& y) d a b k z r s).finish

/-- v.or (R212). -/
def execVOr (d a b : BitVec 5) (k : BitVec 3) (z : Bool) (r : BitVec 2) (s : State) : Out :=
  (logic3 clsAll (fun _ x y => x ||| y) d a b k z r s).finish

/-- v.xor (R212). -/
def execVXor (d a b : BitVec 5) (k : BitVec 3) (z : Bool) (r : BitVec 2) (s : State) : Out :=
  (logic3 clsAll (fun _ x y => x ^^^ y) d a b k z r s).finish

/-- v.not (R212). -/
def execVNot (d a : BitVec 5) (k : BitVec 3) (z : Bool) (s : State) : Out :=
  (logic1 (fun w x => 2 ^ w - 1 - x) d a k z s).finish

/-- v.sll: the count is the low log2(w) bits of b′ (R212). -/
def execVSll (d a b : BitVec 5) (k : BitVec 3) (z : Bool) (r : BitVec 2) (s : State) : Out :=
  (logic3 clsShift (fun w x y => x * 2 ^ (y % w) % 2 ^ w) d a b k z r s).finish

/-- v.srl (R212). -/
def execVSrl (d a b : BitVec 5) (k : BitVec 3) (z : Bool) (r : BitVec 2) (s : State) : Out :=
  (logic3 clsShift (fun w x y => x / 2 ^ (y % w)) d a b k z r s).finish

/-- v.sra: copies of bit w − 1 enter (R212). -/
def execVSra (d a b : BitVec 5) (k : BitVec 3) (z : Bool) (r : BitVec 2) (s : State) : Out :=
  (logic3 clsShift (fun w x y => wrapBits w (sInt w x / (2 ^ (y % w) : Nat))) d a b k z r s).finish

/-! ## Major 0x1A (R213) -/

/-- v.ceq (R213). -/
def execVCeq (d : BitVec 3) (a b : BitVec 5) (k : BitVec 3) (z : Bool) (r : BitVec 2) (s : State) : Out :=
  (compare3 (fun x y => !x.isNan && !y.isNan && x.eq y) d a b k z r s).finish

/-- v.cne (R213). -/
def execVCne (d : BitVec 3) (a b : BitVec 5) (k : BitVec 3) (z : Bool) (r : BitVec 2) (s : State) : Out :=
  (compare3 (fun x y => !(!x.isNan && !y.isNan && x.eq y)) d a b k z r s).finish

/-- v.clt (R213). -/
def execVClt (d : BitVec 3) (a b : BitVec 5) (k : BitVec 3) (z : Bool) (r : BitVec 2) (s : State) : Out :=
  (compare3 (fun x y => !x.isNan && !y.isNan && x.lt y) d a b k z r s).finish

/-- v.cle (R213). -/
def execVCle (d : BitVec 3) (a b : BitVec 5) (k : BitVec 3) (z : Bool) (r : BitVec 2) (s : State) : Out :=
  (compare3 (fun x y => !x.isNan && !y.isNan && !y.lt x) d a b k z r s).finish

/-- v.cun (R213). -/
def execVCun (d : BitVec 3) (a b : BitVec 5) (k : BitVec 3) (z : Bool) (r : BitVec 2) (s : State) : Out :=
  (compare3 (fun x y => x.isNan || y.isNan) d a b k z r s).finish

/-! ## Conversions and widening accumulation: major 0x1B (R82, R86, R214, R215) -/

/-- Encodes block j of an e2m1x register whole, from its members (R86). -/
def State.putE2 (s : State) (d : VOp) (c : Ctl) (j : Nat) (ms : List (Nat × XVal × BitVec 32)) : State :=
  let blk := toE2m1x c ms
  let i := BitVec.ofNat 5 d.base
  (s.onVec (fun v =>
    let x := rget v.v i
    let data := blk.codes.foldl (fun b p => setF b p.1 p.2) (setF x.data j (0 : BitVec 256))
    { v with v := rset v.v i
              { x with data := data, scales := setF x.scales j blk.b, extras := setF x.extras j blk.x8 } })).flag blk.flags

/-- Writes e2m1x blocks: every block that holds a member among the elements listed is encoded whole (R86, R198). zs are
elements that zeroing writes: that a block which holds such elements and no member is written, with b and x8 zero as R86
has it for a block without members, is the model's choice (log 51). -/
def State.putBlocks (s : State) (d : VOp) (c : Ctl) (ms : List (Nat × XVal × BitVec 32)) (zs : List Nat) : State :=
  (List.range 128).foldl (fun t j =>
    let mine := ms.filter (fun m => m.1 / 64 == j)
    if mine.isEmpty && !zs.any (fun e => e / 64 == j) then t else t.putE2 d c j mine) s

/-- A conversion of T into the tag of v[d] with draws u (R214). -/
def convert (c : Ctl) (u : Nat → BitVec 32) (d a : BitVec 5) (k : BitVec 3) (z : Bool) (s : State) : State :=
  let t := s.vop a
  let o := s.vop d
  if o.tag = .e2m1x then
    let g := s.startGroup clsV d / 4 * 4
    s.clearPix.putBlocks o c ((s.actives k g).map (fun e => (e, s.vval t e, u e))) ((s.elems g).filter (fun e => z && s.inact k e))
  else s.elementwise d k z (fun e => o.tag.round o.frac c (u e) (s.vval t e))

/-- The directed conversions (R214). -/
def convertForm (mode : RMode) (sat : Bool) (d a : BitVec 5) (k : BitVec 3) (z : Bool) (s : State) : Res :=
  Res.check s (s.tagTrap (fun _ => true) (s.vop a) [] [s.vop a, s.vop d]) (.done (convert ⟨mode, sat⟩ (fun _ => 0) d a k z s))

/-- v.cvt (R214). -/
def execVCvt (d a : BitVec 5) (sat : Bool) (k : BitVec 3) (z : Bool) (s : State) : Out :=
  (convertForm .rne sat d a k z s).finish

/-- v.cvtz (R214). -/
def execVCvtz (d a : BitVec 5) (sat : Bool) (k : BitVec 3) (z : Bool) (s : State) : Out :=
  (convertForm .rtz sat d a k z s).finish

/-- v.cvtp (R214). -/
def execVCvtp (d a : BitVec 5) (sat : Bool) (k : BitVec 3) (z : Bool) (s : State) : Out :=
  (convertForm .rup sat d a k z s).finish

/-- v.cvtm (R214). -/
def execVCvtm (d a : BitVec 5) (sat : Bool) (k : BitVec 3) (z : Bool) (s : State) : Out :=
  (convertForm .rdn sat d a k z s).finish

/-- v.cvts: stochastic rounding with draws from v[b], which must be n32 (R81, R214). -/
def execVCvts (d a b : BitVec 5) (k : BitVec 3) (z : Bool) (r : BitVec 2) (s : State) : Out :=
  (Res.check s (firstTrap [((s.vop b).tag != .n32, plainTrap 0x42), (s.overCap [s.vop a, s.vop b, s.vop d], plainTrap 0x44)])
    (let u := s.withRep d b r
    .done (convert ⟨.sr, false⟩ (fun e => BitVec.ofNat 32 (u.vbits (s.vop b) (repIx r e))) d a k z s))).finish

/-- v.wacc: products accumulate into an f32 group, one rounding an element (R215). The group of v[d] is a literal check
of R62, which stands before those of R199 and R200 (R201). Which group it asks where T is neither an 8-bit float nor
e2m1x R215 does not say: a group of 4 is the model's choice (log 92). -/
def execVWacc (d a b : BitVec 5) (k : BitVec 3) (z : Bool) (r : BitVec 2) (s : State) : Out :=
  let t := s.vop a
  let o := s.vop b
  let eight (x : Tag) : Bool := x == .e4m3 || x == .e5m2
  let n := if t.tag = .e2m1x then 8 else 4
  (Res.check s (firstTrap
      [((s.vop d).regs != n, wordTrap (.vWacc d a b k z r) 0x08),
        (!(eight t.tag || t.tag == .e2m1x), plainTrap 0x43),
        (!(if t.tag = .e2m1x then o.tag == .e2m1x else eight o.tag), plainTrap 0x42),
        (s.overCap [t, o, s.vop d], plainTrap 0x44)])
    (let u := s.withRep d b r
    .done (s.elementwise d k z (fun e =>
      rF32 ((s.vval (s.vop d) e).add ((s.vval t e).mul (u.vval o (repIx r e)))))))).finish

/-! ## Permutation: major 0x1C (R202, R216, R217) -/

/-- A cross-lane read of element i of v[a]: outside VL it reads zero and sets OOR (R202). -/
def crossRead (s : State) (t : VOp) (i : Int) : Nat × Flags :=
  if i < 0 || (s.core.vec.n : Int) ≤ i then (0, flagOor) else (s.vbits t i.toNat, 0)

/-- An integer element as an integer. -/
def intVal (x : XVal) : Int :=
  match x with
  | .fin m _ => m
  | _ => 0

/-- v.perm: the index from v[b] of any integer tag (R216). -/
def execVPerm (d a b : BitVec 5) (k : BitVec 3) (z : Bool) (r : BitVec 2) (s : State) : Out :=
  let t := s.vop a
  (Res.check s (firstTrap
      [(!clsAll t.tag, plainTrap 0x43), (!(s.vop b).tag.isInt || t.differs (s.vop d), plainTrap 0x42),
        (s.overCap [t, s.vop b, s.vop d], plainTrap 0x44)])
    (.done (s.staged d k z (fun e => crossRead s t (intVal (s.vval (s.vop b) (repIx r e))))))).finish

/-- v.slup: elements below g[b] are treated as inactive (R216). -/
def execVSlup (d a b : BitVec 5) (k : BitVec 3) (z : Bool) (s : State) : Out :=
  let t := s.vop a
  let sh := (s.g b).toNat
  (Res.check s (s.tagTrap clsAll t [s.vop d] [t, s.vop d])
    (.done (s.clearPix.writeResults (s.vop d) ((s.elems 0).filterMap (fun e =>
      if s.act k e && decide (sh ≤ e) then some (e, s.vbits t (e - sh), 0)
      else if z && s.inPlay e then some (e, 0, 0) else none))))).finish

/-- v.sldn (R216). -/
def execVSldn (d a b : BitVec 5) (k : BitVec 3) (z : Bool) (s : State) : Out :=
  let t := s.vop a
  (Res.check s (s.tagTrap clsAll t [s.vop d] [t, s.vop d])
    (.done (s.staged d k z (fun e => crossRead s t (e + (s.g b).toNat))))).finish

/-- v.comp packs its active elements and sets VL.N to their count (R217). In a VP block a position outside the group is
not written (R389). -/
def execVComp (d a : BitVec 5) (k : BitVec 3) (z : Bool) (s : State) : Out :=
  let t := s.vop a
  let act := s.actives k 0
  let packed := (List.range act.length).filterMap (fun j =>
    if s.inPlay j then some (j, s.vbits t (act.getD j 0), (0 : Flags)) else none)
  let rest := (s.elems 0).filterMap (fun e =>
    if z && decide (act.length ≤ e) && s.inPlay e then some (e, 0, (0 : Flags)) else none)
  (Res.check s (s.tagTrap clsAll t [s.vop d] [t, s.vop d])
    (.done ((s.clearPix.writeResults (s.vop d) (packed ++ rest)).onVec
      (fun v => { v with vl := vlWord v.w act.length })))).finish

/-- v.expd: the j-th active element receives a[j] (R216). -/
def execVExpd (d a : BitVec 5) (k : BitVec 3) (z : Bool) (s : State) : Out :=
  let t := s.vop a
  (Res.check s (s.tagTrap clsAll t [s.vop d] [t, s.vop d])
    (.done (s.staged d k z (fun e => (s.vbits t (((List.range e).filter (s.act k)).length), 0))))).finish

/-- v.mrg: b′ where k is set, else a, for every element below VL (R216). -/
def execVMrg (d a b : BitVec 5) (k : BitVec 3) (r : BitVec 2) (s : State) : Out :=
  let t := s.vop a
  (Res.check s (s.tagTrap clsAll t [s.vop b, s.vop d] [t, s.vop b, s.vop d])
    (let u := s.withRep d b r
    .done (s.elementwise d 0 false (fun e =>
      (if (s.kreg k).getLsbD e then u.vbits (s.vop b) (repIx r e) else s.vbits t e, 0))))).finish

/-! ## Conflict detection, generation, extraction: major 0x1D (R218) -/

/-- v.cdet: the number of active earlier elements of the same pattern; v[d] is n32 or i32 (R218). -/
def execVCdet (d a : BitVec 5) (k : BitVec 3) (z : Bool) (s : State) : Out :=
  let t := s.vop a
  (Res.check s (firstTrap
      [(!clsAll t.tag, plainTrap 0x43), ((s.vop d).tag != .n32 && (s.vop d).tag != .i32, plainTrap 0x42),
        (s.overCap [t, s.vop d], plainTrap 0x44)])
    (.done (s.staged d k z (fun e =>
      (((List.range e).filter (fun j => s.act k j && s.vbits t j == s.vbits t e)).length, 0))))).finish

/-- v.iota: fin(g[a] signed + e), of the tag of v[d] (R218). -/
def execVIota (d a : BitVec 5) (k : BitVec 3) (z : Bool) (s : State) : Out :=
  let t := s.vop d
  (Res.check s (s.tagTrap clsNoAng t [] [t])
    (.done (s.elementwise d k z (fun e => t.fin (.ofInt ((s.g a).toInt + e)))))).finish

/-- v.splat: the low w bits of g[a] (R218). -/
def execVSplat (d a : BitVec 5) (k : BitVec 3) (z : Bool) (s : State) : Out :=
  let t := s.vop d
  (Res.check s (s.tagTrap clsAll t [] [t])
    (.done (s.elementwise d k z (fun _ => ((s.g a).toNat % 2 ^ t.tag.width, 0))))).finish

/-- The encoding of an element in a g register: sign-extended for signed integer and fx tags (R218, R220). -/
def extendElem (t : Tag) (x : Nat) : Word :=
  if t.signed then BitVec.ofInt 64 (sInt t.width x) else BitVec.ofNat 64 (x % 2 ^ t.width)

/-- v.extr (R202, R218). -/
def execVExtr (d a b : BitVec 5) (s : State) : Out :=
  let t := s.vop a
  let x := crossRead s t ((s.g b).toNat : Int)
  (Res.check s (s.tagTrap clsAll t [] [t]) (.done ((s.clearPix.flag x.2).setG d (extendElem t.tag x.1)))).finish

/-! ## Mask forms: major 0x1E (R219) -/

/-- A mask operation on bits below VL (R219). -/
def maskOp (op : Bool → Bool → Bool) (d a b : BitVec 3) (s : State) : Res :=
  .done (s.maskwise d 0 false (fun e => op ((s.kreg a).getLsbD e) ((s.kreg b).getLsbD e)))

/-- v.kand (R219). -/
def execVKand (d a b : BitVec 3) (s : State) : Out := (maskOp (fun x y => x && y) d a b s).finish

/-- v.kor (R219). -/
def execVKor (d a b : BitVec 3) (s : State) : Out := (maskOp (fun x y => x || y) d a b s).finish

/-- v.kxor (R219). -/
def execVKxor (d a b : BitVec 3) (s : State) : Out := (maskOp (fun x y => x != y) d a b s).finish

/-- v.kandn (R219). -/
def execVKandn (d a b : BitVec 3) (s : State) : Out := (maskOp (fun x y => x && !y) d a b s).finish

/-- v.kpop: set bits below VL, of the group in a VP block (R219, R389). -/
def execVKpop (d : BitVec 5) (a : BitVec 3) (s : State) : Out :=
  (Res.done (s.clearPix.setG d (BitVec.ofNat 64 (s.actives a 0).length))).finish

/-- v.kfirst: the least set bit below VL, or all ones (R219). -/
def execVKfirst (d : BitVec 5) (a : BitVec 3) (s : State) : Out :=
  (Res.done (s.clearPix.setG d (match (s.actives a 0).head? with
    | some e => BitVec.ofNat 64 e
    | none => BitVec.allOnes 64))).finish

/-! ## Reductions and scans: majors 0x1F, 0x20 (R220) -/

/-- One level of the fold tree: neighbours combine. -/
def pairUp {α : Type} (op : α → α → α) : List α → List α
  | x :: y :: r => op x y :: pairUp op r
  | l => l

/-- The fold tree; fuel is log2 of the number of parts. -/
def foldTree {α : Type} (op : α → α → α) : Nat → List α → List α
  | 0, l => l
  | n + 1, l => foldTree op n (pairUp op l)

/-- fold (R220) over elements in ascending order: P partial results, then the tree. -/
def foldLanes {α : Type} (op : α → α → α) (ident : α) (P : Nat) (xs : List (Nat × α)) : α :=
  let parts := (List.range P).map (fun j => (xs.filter (fun x => x.1 % P == j)).foldl (fun p x => op p x.2) ident)
  ((foldTree op P.log2 parts).head?).getD ident

/-- A value with the flags its making set. -/
abbrev FVal := XVal × Flags

/-- Addition of a reduction: exact, but each floating op rounds into f32 (R220). -/
def sumOp (t : Tag) (x y : FVal) : FVal :=
  if t.isFloat then let r := rF32 (x.1.add y.1); (wF32 r.1, x.2 ||| y.2 ||| r.2) else (x.1.add y.1, x.2 ||| y.2)

/-- Greater and lesser of a reduction. -/
def maxOp (x y : FVal) : FVal := (greater x.1 y.1, x.2 ||| y.2)
def minOp (x y : FVal) : FVal := (lesser x.1 y.1, x.2 ||| y.2)

/-- The most negative and the most positive value of a tag (R220). -/
def lowest (t : Tag) (frac : Nat) : XVal :=
  if t = .e4m3 then .fin (-448) 0 else if t.isFloat then .inf true else .fin t.qMin (-(if t.isFx then (frac : Int) else 0))
def highest (t : Tag) (frac : Nat) : XVal :=
  if t = .e4m3 then .fin 448 0 else if t.isFloat then .inf false else .fin t.qMax (-(if t.isFx then (frac : Int) else 0))

/-- A reduction of values into g[d] (R220): fin once, EMPTY with no active element. -/
def reduceVal (cls : Tag → Bool) (op : Tag → FVal → FVal → FVal) (ident : Tag → Nat → XVal) (d a : BitVec 5) (k : BitVec 3)
    (s : State) : Res :=
  let t := s.vop a
  let act := s.actives k 0
  let r := foldLanes (op t.tag) (ident t.tag t.frac, 0) (foldOf s.core.vec.vprof) (act.map (fun e => (e, s.vval t e, (0 : Flags))))
  let x := t.fin r.1
  Res.check s (s.tagTrap cls t [] [t])
    (.done ((s.clearPix.flag (r.2 ||| x.2 ||| (if act.isEmpty then flagEmpty else 0))).setG d (extendElem t.tag x.1)))

/-- A reduction of bit patterns into g[d] (R220). -/
def reduceBits (op : Nat → Nat → Nat) (ident : Nat → Nat) (d a : BitVec 5) (k : BitVec 3) (s : State) : Res :=
  let t := s.vop a
  let act := s.actives k 0
  let r := foldLanes op (ident t.tag.width) (foldOf s.core.vec.vprof) (act.map (fun e => (e, s.vbits t e)))
  Res.check s (s.tagTrap clsAll t [] [t])
    (.done ((s.clearPix.flag (if act.isEmpty then flagEmpty else 0)).setG d (extendElem t.tag r)))

/-- v.rsum (R220). -/
def execVRsum (d a : BitVec 5) (k : BitVec 3) (s : State) : Out :=
  (reduceVal clsAll sumOp (fun _ _ => .zero) d a k s).finish

/-- v.rmax (R220). -/
def execVRmax (d a : BitVec 5) (k : BitVec 3) (s : State) : Out :=
  (reduceVal clsNoAng (fun _ => maxOp) lowest d a k s).finish

/-- v.rmin (R220). -/
def execVRmin (d a : BitVec 5) (k : BitVec 3) (s : State) : Out :=
  (reduceVal clsNoAng (fun _ => minOp) highest d a k s).finish

/-- v.rall (R220). -/
def execVRall (d a : BitVec 5) (k : BitVec 3) (s : State) : Out :=
  (reduceBits (fun x y => x &&& y) (fun w => 2 ^ w - 1) d a k s).finish

/-- v.rany (R220). -/
def execVRany (d a : BitVec 5) (k : BitVec 3) (s : State) : Out :=
  (reduceBits (fun x y => x ||| y) (fun _ => 0) d a k s).finish

/-- v.rxor (R220). -/
def execVRxor (d a : BitVec 5) (k : BitVec 3) (s : State) : Out :=
  (reduceBits (fun x y => x ^^^ y) (fun _ => 0) d a k s).finish

/-- A scan into v[d]: element e receives the fold of the active elements up to e (R220). -/
def scan (cls : Tag → Bool) (op : Tag → FVal → FVal → FVal) (ident : Tag → Nat → XVal) (d a : BitVec 5) (k : BitVec 3)
    (z : Bool) (s : State) : Res :=
  let t := s.vop a
  Res.check s (s.tagTrap cls t [s.vop d] [t, s.vop d])
    (.done (s.staged d k z (fun e =>
      let act := (List.range (e + 1)).filter (s.act k)
      let r := foldLanes (op t.tag) (ident t.tag t.frac, 0) (foldOf s.core.vec.vprof)
        (act.map (fun j => (j, s.vval t j, (0 : Flags))))
      let x := t.fin r.1
      (x.1, r.2 ||| x.2))))

/-- v.psum (R220). -/
def execVPsum (d a : BitVec 5) (k : BitVec 3) (z : Bool) (s : State) : Out :=
  (scan clsAll sumOp (fun _ _ => .zero) d a k z s).finish

/-- v.pmax (R220). -/
def execVPmax (d a : BitVec 5) (k : BitVec 3) (z : Bool) (s : State) : Out :=
  (scan clsNoAng (fun _ => maxOp) lowest d a k z s).finish

/-- v.pmin (R220). -/
def execVPmin (d a : BitVec 5) (k : BitVec 3) (z : Bool) (s : State) : Out :=
  (scan clsNoAng (fun _ => minOp) highest d a k z s).finish

/-! ## ARX-10: major 0x21 (R221, R222) -/

/-- The four words of a generator state. -/
structure Arx where
  x0 : BitVec 32
  x1 : BitVec 32
  x2 : BitVec 32
  x3 : BitVec 32
  deriving DecidableEq, Repr

/-- Rotation amounts RA and RB of a round (R221). -/
def arxRa (n : Nat) : Nat :=
  match n % 4 with
  | 0 => 16
  | 1 => 12
  | 2 => 8
  | _ => 24
def arxRb (n : Nat) : Nat :=
  match n % 4 with
  | 0 => 12
  | 1 => 8
  | 2 => 16
  | _ => 4

/-- One round, with the key injection of odd rounds (R221). -/
def arxRound (kw : Nat → BitVec 32) (n : Nat) (t : Arx) : Arx :=
  let a := t.x0 + t.x1
  let d := (t.x3 ^^^ a).rotateLeft (arxRa n)
  let c := t.x2 + d
  let b := (t.x1 ^^^ c).rotateLeft (arxRb n)
  if n % 2 = 1 then
    let j := (n + 1) / 2
    ⟨a + kw (j % 3), b, c, d + BitVec.ofNat 32 j⟩
  else ⟨a, b, c, d⟩

/-- Key words (R221). -/
def arxKey (key : Word) (i : Nat) : BitVec 32 :=
  match i with
  | 0 => fld key 0 32
  | 1 => fld key 32 32
  | _ => fld key 0 32 ^^^ fld key 32 32 ^^^ 0x9E3779B9

/-- arx10 (R221). -/
def arx10 (key : Word) (ctr : BitVec 128) : Arx :=
  let kw := arxKey key
  let init : Arx := ⟨fld ctr 0 32 + kw 0, fld ctr 32 32 + kw 1, fld ctr 64 32 + kw 2, fld ctr 96 32⟩
  (List.range 10).foldl (fun t n => arxRound kw n t) init

/-- A word of a draw. -/
def Arx.word (t : Arx) (i : Nat) : BitVec 32 :=
  match i % 4 with
  | 0 => t.x0
  | 1 => t.x1
  | 2 => t.x2
  | _ => t.x3

/-- The word that element e takes: key g[a], base counter g[b+1]:g[b] (R222). -/
def State.drawAt (s : State) (a b : BitVec 5) (e : Nat) : BitVec 32 :=
  (arx10 (s.g a) ((s.g (b + 1) ++ s.g b) + BitVec.ofNat 128 (e / 4))).word e

/-- v.rng (R222). -/
def execVRng (d a b : BitVec 5) (k : BitVec 3) (z : Bool) (s : State) : Out :=
  let t := s.vop d
  (Res.check s (s.tagTrap (fun x => x == .n32 || x == .i32) t [] [t])
    (.done (s.elementwise d k z (fun e => ((s.drawAt a b e).toNat, 0))))).finish

/-- v.rngf: the upper 24 bits as an f32 in [0, 1) (R222). -/
def execVRngf (d a b : BitVec 5) (k : BitVec 3) (z : Bool) (s : State) : Out :=
  let t := s.vop d
  (Res.check s (s.tagTrap (fun x => x == .f32) t [] [t])
    (.done (s.elementwise d k z (fun e => rF32 (.fin ((s.drawAt a b e).toNat / 256 : Nat) (-24)))))).finish

end Sys2Proof.Machine
end

