-- ==== Sys2Proof/Machine/VecCfg.lean ====
section
/-! DEFINITION. Vector configuration: vcfg, the vector length grant, the profile, the memory format control, and spill
and fill of vector registers: majors 0x10 and 0x11 (R174–R180, R190, R194–R196). -/

namespace Sys2Proof.Machine

/-! ## Groups -/

/-- Physical register i becomes a member of no group; its tag stays (R174). -/
def State.ungroup (s : State) (i : Nat) : State :=
  s.onVec (fun v =>
    let r := BitVec.ofNat 5 i
    { v with v := rset v.v r { rget v.v r with grp := 0 } })

/-- The group that physical register i belongs to is dissolved (R174). -/
def State.dissolve (s : State) (i : Nat) : State :=
  let n := grpSize (s.physReg i).grp
  if n = 1 then s else (List.range n).foldl (fun t j => t.ungroup (i / n * n + j)) s

/-- Physical register i receives a tag: its bits stay where the width stays, else its elements are undefined (R174). -/
def State.retag (s : State) (i : Nat) (tag : Tag) (frac : BitVec 5) (grp : BitVec 2) : State :=
  let x := s.physReg i
  let r := BitVec.ofNat 5 i
  if x.tag.width = tag.width && x.tag != .e2m1x && tag != .e2m1x then
    s.onVec (fun v => { v with v := rset v.v r { x with tag := tag, frac := frac, grp := grp } })
  else
    let y : VReg := ⟨Config.freeElems s.fresh, freeScales s.fresh, freeX8 (s.fresh + 1), tag, frac, grp⟩
    (s.onVec (fun v => { v with v := rset v.v r y })).freshen.freshen

/-- vcfg (R174). The literal checks stand at decoding; loop mode adds that no group reaches v16 to v31. -/
def execVcfg (d tag frac : BitVec 5) (grp : BitVec 2) (s : State) : Out :=
  let n := grpSize grp
  let p := (s.physV d).toNat
  (Res.check s (firstTrap [(s.core.blk.loopMode && n != 1 && decide (16 < d.toNat + n), wordTrap (.vcfg d tag frac grp) 0x08)])
    (match Tag.ofCode tag with
      | some t =>
        let s1 := (List.range n).foldl (fun u j => u.dissolve (p + j)) s.clearPix
        .done ((List.range n).foldl (fun u j => u.retag (p + j) t frac grp) s1)
      | none => .trap s (wordTrap (.vcfg d tag frac grp) 0x07))).finish

/-! ## Vector length and profile -/

/-- The grant of vsetvl (R177). -/
def grant (v : VecState) (width : Nat) (req : Word) : Nat := min req.toNat (v.mvl width)

/-- vsetvl (R177). -/
def execVsetvl (d a b : BitVec 5) (s : State) : Out :=
  (match Tag.ofCode b with
    | some t =>
      let n := grant s.core.vec t.width (s.g a)
      Res.done ((s.onVec (fun v => { v with vl := vlWord (codeOfWidth t.width) n })).setG d (BitVec.ofNat 64 n))
    | none => .trap s (wordTrap (.vsetvl d a b) 0x07)).finish

/-- No reserved code and no reserved bit of VPROF (R178, R179). -/
def vprofOk (x : Word) : Bool := fld x 5 59 == 0 && fld x 2 2 != 3 && fld x 0 2 != 3

/-- A stream on a port of the load-data queues is active or pending (R159, R178). -/
def Core.queueStreams (c : Core) : Bool :=
  c.cmds.any (fun x => match x with
    | .stream y => decide (8 ≤ y.port.toNat) && decide (y.port.toNat ≤ 11)
    | .sloe _ => false)

/-- Every element of every vector register is undefined; tags and groups are kept (R178). -/
def State.undefineElems (s : State) : State :=
  let f := s.fresh
  { s.onVec (fun v => { v with v := v.v.mapIdx (fun i x =>
      { x with data := Config.freeElems (f + i), scales := freeScales (f + 2 * i)
               extras := freeX8 (f + 2 * i + 1) }) }) with fresh := f + 64 }

/-- VPROF is written by vprof: a change of MVLC undefines the elements and lowers VL.N (R178). -/
def State.setProfile (s : State) (x : Word) : State :=
  if fld s.core.vec.vprof 0 2 = fld x 0 2 then s.onVec (fun v => { v with vprof := x })
  else
    let s1 := s.undefineElems
    s1.onVec (fun v => { v with
      vprof := x
      vl := vlWord v.w (min v.n (mvl32Of x * 32 / widthOfCode v.w)) })

/-- vprof (R178). -/
def execVprof (d a : BitVec 5) (s : State) : Out :=
  (if !vprofOk (s.g a) then Res.trap s (plainTrap 0x48)
    else if s.core.queueStreams then .wait s .dauStall
    else .done ((s.setProfile (s.g a)).setG d s.core.vec.vprof)).finish

/-! ## MFC (R190) -/

/-- MFC.EN. -/
def mfcEn (x : Word) : Bool := x.getLsbD 0

/-- No refused value and no reserved bit of MFC (R190). -/
def mfcOk (x : Word) : Bool := fld x 1 14 == 0 && (Tag.ofCode (fld x 15 5)).isSome && decide ((fld x 20 3).toNat < 4)

/-- vmfc (R159, R190). That a refused value takes 0x48 also where a stream is under way on ports 8 to 11 is the model's
choice (log 114). -/
def execVmfc (d a : BitVec 5) (s : State) : Out :=
  (if !mfcOk (s.g a) then Res.trap s (plainTrap 0x48)
    else if s.core.queueStreams then .trap s (plainTrap 0x62)
    else .done ((s.onVec (fun v => { v with mfc := s.g a })).setG d s.core.vec.mfc)).finish

/-! ## Groups of elements one after another (R112) -/

/-- Why an element group does not go through: an access at an element, or a trap. -/
inductive GErr where
  | access (elem : Nat) (e : Stop)
  | trap (t : Trap)
  /-- failing pivots of small-matrix slots (R249) -/
  | pivot (slots : List Nat) (t : Trap)
  deriving DecidableEq, Repr

/-- The end of a form that stops at a group. -/
def GErr.res (s : State) : GErr → Res
  | .access e x => x.res s e
  | .trap t => .trap s t
  | .pivot l t => .trap (l.foldl State.flagSlot s) t

/-- The group stands at a wait point. -/
def GErr.waits : GErr → Bool
  | .access _ (.wait _) => true
  | _ => false

/-- A form stops at a group, with PIX there (R112, R188). At its first group it waits or traps; a trap of a later group
is left to the boundary before that group: what falls due there goes first, and the group is tried afresh (R113). -/
def GErr.stop (cls : BitVec 2) (reg : BitVec 5) (j : Nat) (first : Bool) (s : State) (e : GErr) : Res :=
  if first || e.waits then e.res (s.markPix cls reg j) else .wait (s.markPix cls reg j) .xuGroup

/-- Runs element groups in ascending order, each with translations of its own (R111); one that does not go through leaves
nothing (R112, R185). -/
def runGroupsFrom (first : Bool) (cls : BitVec 2) (reg : BitVec 5) (f : State → Nat → Except GErr State) :
    List Nat → State → Res
  | [], s => .done s
  | j :: r, s =>
    match f s.beginGroup j with
    | .ok s1 => runGroupsFrom false cls reg f r (s1.pinsOf s)
    | .error e => e.stop cls reg j first s

/-- The element groups of a form, from the one at which it starts. -/
def runGroups (cls : BitVec 2) (reg : BitVec 5) (f : State → Nat → Except GErr State) (l : List Nat) (s : State) : Res :=
  runGroupsFrom true cls reg f l s

/-- Performs a list of accesses in turn, all or none of them. -/
def foldAccess (f : State → Nat → Except GErr State) : List Nat → State → Except GErr State
  | [], s => .ok s
  | e :: r, s =>
    match f s e with
    | .ok s1 => foldAccess f r s1
    | .error x => .error x

/-- A load as part of a group. -/
def gload (s : State) (e : Nat) (va : Word) (n : Nat) : Except GErr (Word × State) :=
  match s.ld .vread e va n with
  | .ok x => .ok (x.1, x.2.pin va)
  | .error x => .error (.access e x)

/-- A store as part of a group. -/
def gstore (s : State) (e : Nat) (va : Word) (n : Nat) (v : Word) : Except GErr State :=
  match s.st .vwrite e va n v with
  | .ok u => .ok (u.pin va)
  | .error x => .error (.access e x)

/-- A load of what a frame holds beside its elements, which is the access of no element (R194, R317). -/
def frameLoad (s : State) (e : Nat) (va : Word) (n : Nat) : Except GErr (Word × State) :=
  match s.ld .lread e va n with
  | .ok x => .ok (x.1, x.2.pin va)
  | .error x => .error (.access e x)

/-- A store of what a frame holds beside its elements. -/
def frameStore (s : State) (e : Nat) (va : Word) (n : Nat) (v : Word) : Except GErr State :=
  match s.st .lwrite e va n v with
  | .ok u => .ok (u.pin va)
  | .error x => .error (.access e x)

/-- Element groups of n elements from a group on, in steps of m groups. -/
def groupList (n g m : Nat) : List Nat :=
  (List.range ((n + 15) / 16)).filter (fun j => decide (g / m * m ≤ j) && j % m == 0)

/-- Elements of the m groups from j on that lie below n. -/
def groupElems (n j m : Nat) : List Nat := List.range' (16 * j) (min n (16 * (j + m)) - 16 * j)

/-! ## Spill and fill (R194–R196) -/

/-- The count that a vspill of v[a] stores. -/
def State.spillCount (s : State) (a : BitVec 5) : Nat :=
  let p := (s.physV a).toNat
  let n := grpSize (s.vreg a).grp
  if n = 1 then s.core.vec.n else min (s.core.vec.n - p % n * mvl32Of s.core.vec.vprof) (mvl32Of s.core.vec.vprof)

/-- VL lies above the capacity of v[a], the whole group for a member (R200). -/
def State.spillOver (s : State) (a : BitVec 5) : Bool :=
  let n := grpSize (s.vreg a).grp
  decide ((if n = 1 then s.core.vec.mvl (s.vreg a).tag.width else n * mvl32Of s.core.vec.vprof) < s.core.vec.n)

/-- The size of a frame of c elements (R195). -/
def frameSize (t : Tag) (c : Nat) : Nat :=
  16 + (if t = .e2m1x then (((c + 63) / 64) * 34 + 15) / 16 * 16 else (c * t.width + 127) / 128 * 16)

/-- vlq (R195). -/
def execVlq (d a : BitVec 5) (s : State) : Out :=
  (Res.check s (firstTrap [(s.spillOver a, plainTrap 0x44)])
    (.done (s.clearPix.setG d (BitVec.ofNat 64 (frameSize (s.vreg a).tag (s.spillCount a)))))).finish

/-- Header word 0 of a frame (R194). -/
def frameHeader (x : VReg) (c : Nat) : Word :=
  (BitVec.ofNat 16 c ++ 0#4 ++ x.grp ++ x.frac ++ x.tag.code).setWidth 64

/-- Plane i of block k: bit j is bit i of the code of element j (R84). -/
def planeOf (codes : BitVec 256) (i : Nat) : Word :=
  (List.range 64).foldl (fun w j => if codes.getLsbD (4 * j + i) then w ||| (1 <<< j) else w) 0

/-- The codes of a block from its planes (R84). -/
def codesOf (planes : List Word) : BitVec 256 :=
  (planes.zipIdx).foldl (fun c p => (List.range 64).foldl (fun c j =>
    if p.1.getLsbD j then c ||| (1 <<< (4 * j + p.2)) else c) c) 0

/-- The 34 bytes of block k of a register as a frame holds them (R194). -/
def VReg.blockBytes (x : VReg) (k : Nat) : List Byte :=
  ((List.range 4).flatMap (fun i => toBytes 8 (planeOf (getF 256 x.data k) i).toNat)) ++ [getF 8 x.scales k, getF 8 x.extras k]

/-- Stores bytes by twos. -/
def storePairs (e : Nat) (va : Word) : List Byte → State → Except GErr State
  | a :: b :: r, s =>
    match gstore s e va 2 (wordOfBytes [a, b]) with
    | .ok s1 => storePairs e (va + 2) r s1
    | .error x => .error x
  | _, s => .ok s

/-- Loads 2·n bytes by twos. -/
def loadPairs (e : Nat) (va : Word) : Nat → State → Except GErr (List Byte × State)
  | 0, s => .ok ([], s)
  | n + 1, s =>
    match gload s e va 2 with
    | .error x => .error x
    | .ok (w, s1) =>
      match loadPairs e (va + 2) n s1 with
      | .error x => .error x
      | .ok (l, s2) => .ok (toBytes 2 w.toNat ++ l, s2)

/-- The words of zeros that pad a frame, as pairs of bytes; elements of one byte may leave an odd byte. -/
def padFrame (e : Nat) (va : Word) : Nat → State → Except GErr State
  | 0, s => .ok s
  | n + 1, s =>
    match frameStore s e va 1 0 with
    | .ok s1 => padFrame e (va + 1) n s1
    | .error x => .error x

/-- Bytes of the elements of a frame before its padding. -/
def frameData (t : Tag) (c : Nat) : Nat := if t = .e2m1x then ((c + 63) / 64) * 34 else c * (t.width / 8)

/-- An element of a frame that vspill or vfill moves: in a VP block one of the current group (R389). -/
def State.fills (s : State) (e : Nat) : Bool := !s.core.vp.live || s.inPlay e

/-- One group of vspill: the header with group 0, elements or blocks, and the padding with the last group (R196). -/
def spillGroup (x : VReg) (c : Nat) (base : Word) (s : State) (j : Nat) : Except GErr State :=
  let hdr : Except GErr State :=
    if j = 0 then
      match frameStore s 0 base 8 (frameHeader x c) with
      | .error e => .error e
      | .ok s1 => frameStore s1 0 (base + 8) 8 0
    else .ok s
  match hdr with
  | .error e => .error e
  | .ok s1 =>
    let body : Except GErr State :=
      if x.tag = .e2m1x then
        if j % 4 = 0 && decide (16 * j < c) && (List.range 64).any (fun i => s.fills (16 * j + i)) then
          storePairs (16 * j) (base + 16 + BitVec.ofNat 64 (34 * (j / 4))) (x.blockBytes (j / 4)) s1
        else .ok s1
      else foldAccess (fun t e =>
        gstore t e (base + 16 + BitVec.ofNat 64 (e * (x.tag.width / 8))) (x.tag.width / 8)
          (BitVec.ofNat 64 (x.bits x.tag.width e))) ((groupElems c j 1).filter s.inPlay) s1
    match body with
    | .error e => .error e
    | .ok s2 =>
      if c ≤ 16 * (j + 1) then
        padFrame (c - 1) (base + 16 + BitVec.ofNat 64 (frameData x.tag c)) (frameSize x.tag c - 16 - frameData x.tag c) s2
      else .ok s2

/-- Groups of a frame of c elements; the header needs one even where c is 0. -/
def frameGroups (c : Nat) : Nat := max 1 ((c + 15) / 16)

/-- A vector memory fault found before any group, at element 0. -/
def frameTrap (va : Word) (k : AccKind) : Trap := (⟨0x2A, va, k.code, 0xF, none, none⟩ : MemFault).trap 0

/-- vspill (R196). -/
def execVspill (a b : BitVec 5) (s : State) : Out :=
  let c := s.spillCount a
  let g := s.startGroup clsMem 0
  (Res.check s (firstTrap [(s.spillOver a, plainTrap 0x44)])
    (Res.check (s.markPix clsMem 0 g) (firstTrap [(fld (s.g b) 0 4 != 0, frameTrap (s.g b) .vwrite)])
      (runGroups clsMem 0 (spillGroup (s.vreg a) c (s.g b)) (List.range' g (frameGroups c - g)) s.clearPix))).finish

/-- The codes of block j after vfill: in a VP block those outside the current group stay (R389). -/
def State.fillCodes (s : State) (j : Nat) (old new : BitVec 256) : BitVec 256 :=
  (List.range 64).foldl (fun c i => if s.fills (64 * j + i) then c else setF c i (getF 4 old i)) new

/-- One group of vfill: its elements or the block that begins there (R196, R389). A frame restores what a vspill has taken from
a register: that its blocks are not checked as R85 checks the data of loads is the model's choice (log 89). -/
def fillGroup (p : Nat) (t : Tag) (n : Nat) (base : Word) (s : State) (j : Nat) : Except GErr State :=
  let r := BitVec.ofNat 5 p
  if t = .e2m1x then
    if j % 4 = 0 && decide (16 * j < n) && (List.range 64).any (fun i => s.fills (16 * j + i)) then
      match loadPairs (16 * j) (base + 16 + BitVec.ofNat 64 (34 * (j / 4))) 17 s with
      | .error e => .error e
      | .ok (l, s1) =>
        let planes := (List.range 4).map (fun i => wordOfBytes ((l.drop (8 * i)).take 8))
        .ok (s1.onVec (fun v =>
          let x := rget v.v r
          { v with v := rset v.v r { x with
              data := setF x.data (j / 4) (s.fillCodes (j / 4) (getF 256 x.data (j / 4)) (codesOf planes))
              scales := setF x.scales (j / 4) (l.getD 32 0)
              extras := setF x.extras (j / 4) (l.getD 33 0) } }))
    else .ok s
  else foldAccess (fun u e =>
    match gload u e (base + 16 + BitVec.ofNat 64 (e * (t.width / 8))) (t.width / 8) with
    | .error x => .error x
    | .ok (w, u1) => .ok (u1.onVec (fun v => { v with v := rset v.v r ((rget v.v r).put t.width e w.toNat) })))
    ((groupElems n j 1).filter s.fills) s

/-- Elements of w bits from n on that vfill writes are undefined; every other bit stays (R196, R389). -/
def State.undefAbove {m : Nat} (s : State) (w n : Nat) (writes : Nat → Bool) (x y : BitVec m) : BitVec m :=
  if !s.core.vp.live then (x &&& lowMask m (n * w)) ||| (y &&& ~~~lowMask m (n * w))
  else (List.range' n (m / w - n)).foldl (fun z e => if writes e then setF z e (getF w y e) else z) x

/-- After the last group of vfill: the tag, and undefined elements above the count (R196). -/
def State.fillDone (s : State) (p : Nat) (t : Tag) (frac : BitVec 5) (grp : BitVec 2) (n : Nat) : State :=
  let r := BitVec.ofNat 5 p
  let block (j : Nat) : Bool := (List.range 64).any (fun i => s.fills (64 * j + i))
  (s.onVec (fun v =>
    let x := rget v.v r
    let y : VReg := ⟨s.undefAbove t.width n s.fills x.data (Config.freeElems s.fresh),
      s.undefAbove 8 ((n + 63) / 64) block x.scales (freeScales s.fresh),
      s.undefAbove 8 ((n + 63) / 64) block x.extras (freeX8 (s.fresh + 1)), t, frac, grp⟩
    { v with v := rset v.v r y })).freshen.freshen

/-- A header of a frame that vfill refuses (R196). -/
def headerBad (s : State) (w0 w1 : Word) : Bool :=
  w1 != 0 || fld w0 12 4 != 0 || fld w0 32 32 != 0 || !vcfgLitOk (fld w0 0 5) (fld w0 5 5) (fld w0 10 2)
    || (match Tag.ofCode (fld w0 0 5) with
        | some t => decide (s.core.vec.mvl t.width < (fld w0 16 16).toNat)
        | none => true)

/-- v[d] cannot take the group code of a frame: it is no base of that size and no member of such a group, or loop mode
forbids the group (R175, R196; log 26). -/
def State.fillGroupBad (s : State) (d : BitVec 5) (grp : BitVec 2) : Bool :=
  let n := grpSize grp
  let p := (s.physV d).toNat
  n != 1 && ((p % n != 0 && (s.vreg d).grp != grp) || (s.core.blk.loopMode && decide (16 < d.toNat / n * n + n)))

/-- The group that v[d] belongs to is dissolved where the frame's group code differs (R174). -/
def State.regroup (s : State) (p : Nat) (grp : BitVec 2) : State := if (s.physReg p).grp = grp then s else s.dissolve p

/-- vfill (R196). -/
def execVfill (d b : BitVec 5) (s : State) : Out :=
  let base := s.g b
  let g := s.startGroup clsV d
  let p := (s.physV d).toNat
  (Res.check (s.markPix clsV d g) (firstTrap [(fld base 0 4 != 0, frameTrap base .vread)])
    (match frameLoad s 0 base 8 with
      | .error e => e.stop clsV d g true s
      | .ok (w0, s1) =>
        match frameLoad s1 0 (base + 8) 8 with
        | .error e => e.stop clsV d g true s
        | .ok (w1, s2) =>
          let n := (fld w0 16 16).toNat
          let grp : BitVec 2 := fld w0 10 2
          if headerBad s w0 w1 then .trap s (plainTrap 0x49)
          else if s.fillGroupBad d grp then .trap s (wordTrap (.vfill d b) 0x08)
          else
            match Tag.ofCode (fld w0 0 5) with
            | none => .trap s (plainTrap 0x49)
            | some t =>
              (runGroups clsV d (fillGroup p t n base) (List.range' g ((n + 15) / 16 - g)) (s2.pinsOf s).clearPix).andThen
                (fun u => .done ((u.regroup p grp).fillDone p t (fld w0 5 5) grp n)))).finish

end Sys2Proof.Machine
end

