-- ==== Sys2Proof/Machine/VecMem.lean ====
section
/-! DEFINITION. Vector loads, stores and scatter updates: majors 0x12 to 0x16 (R191, R198, R204–R210). -/

namespace Sys2Proof.Machine

/-! ## The memory format (R190, R191, R204) -/

/-- The format M of a memory access: its tag, and the conversion of MFC where EN = 1. -/
structure MemFmt where
  tag : Tag
  en : Bool
  ctl : Ctl
  sc : Int
  scd : Word
  deriving DecidableEq, Repr

/-- M of a form whose register has tag t (R204). -/
def memFmt (v : VecState) (t : Tag) : MemFmt :=
  { tag := if mfcEn v.mfc then (Tag.ofCode (fld v.mfc 15 5)).getD t else t
    en := mfcEn v.mfc
    ctl := (Ctl.ofCode (fld v.mfc 20 4)).getD ctlRne
    sc := (fld v.mfc 24 8 : BitVec 8).toInt
    scd := sext (fld v.mfc 32 32 : BitVec 32) }

/-- msz (R204). -/
def MemFmt.msz (m : MemFmt) : Nat := m.tag.width / 8

/-- A memory element as the value that a load converts (R191). -/
def MemFmt.value (m : MemFmt) (raw : Nat) : XVal := (m.tag.widen 0 raw).scale m.sc

/-- A memory element into a register of an operand's tag (R191). -/
def MemFmt.toReg (m : MemFmt) (t : VOp) (raw : Nat) : Nat × Flags :=
  if m.en then t.tag.round t.frac m.ctl 0 (m.value raw) else (raw, 0)

/-- A register element into memory: raw bits, or its value scaled and rounded (R191). -/
def MemFmt.toMem (m : MemFmt) (raw : Nat) (x : XVal) : Nat × Flags :=
  if m.en then m.tag.round 0 m.ctl 0 (x.scale (-m.sc)) else (raw, 0)

/-- The checks of R201 of a memory form on v[d] with an index operand; e2 allows e2m1x memory. -/
def State.memTrap (s : State) (d : BitVec 5) (ix : Option (BitVec 5)) (e2 : Bool) : Option Trap :=
  let t := s.vop d
  let ops := t :: (match ix with
    | some b => [s.vop b]
    | none => [])
  firstTrap [((match ix with
      | some b => !(s.vop b).tag.isInt
      | none => false), plainTrap 0x42),
    (s.overCap ops, plainTrap 0x44), ((memFmt s.core.vec t.tag).tag == .e2m1x && !e2, plainTrap 0x45)]

/-! ## Addresses (R205) -/

/-- Element e of a form at a fixed step. -/
def linearAddr (base : Word) (msz e : Nat) : Word := base + BitVec.ofNat 64 (e * msz)

/-- v.lds and v.sts. -/
def stridedAddr (base stride : Word) (e : Nat) : Word := base + BitVec.ofNat 64 e * stride

/-- v.ldx, v.stx and v.sx*: the index from v[b], replicated (R50). -/
def State.indexedAddr (s : State) (base : Word) (b : BitVec 5) (r : BitVec 2) (msz e : Nat) : Word :=
  base + BitVec.ofInt 64 (intVal (s.vval (s.vop b) (repIx r e)) * msz)

/-- v.ldc and v.stc: by the rank of e among the active elements. -/
def State.rankAddr (s : State) (base : Word) (k : BitVec 3) (msz e : Nat) : Word :=
  base + BitVec.ofNat 64 (((List.range e).filter (s.act k)).length * msz)

/-! ## Loads -/

/-- One element group of a load into a register that is not e2m1x. s0 is the state at issue. -/
def loadGroup (s0 : State) (m : MemFmt) (t : VOp) (k : BitVec 3) (z : Bool) (addr : Nat → Word) (s : State) (j : Nat) :
    Except GErr State :=
  foldAccess (fun u e =>
    if s0.act k e then
      match gload u e (addr e) m.msz with
      | .error x => .error x
      | .ok (w, u1) =>
        let x := m.toReg t w.toNat
        .ok ((u1.putElem t e x.1).flag x.2)
    else if z && s0.inact k e then .ok (u.putElem t e 0)
    else .ok u) (groupElems s0.core.vec.n j 1) s

/-- The bits of a list of elements, loaded in turn. -/
def loadRaw (m : MemFmt) (addr : Nat → Word) : List Nat → State → Except GErr (List (Nat × Nat) × State)
  | [], s => .ok ([], s)
  | e :: r, s =>
    match gload s e (addr e) m.msz with
    | .error x => .error x
    | .ok (w, s1) =>
      match loadRaw m addr r s1 with
      | .error x => .error x
      | .ok (l, s2) => .ok ((e, w.toNat) :: l, s2)

/-- Element group j is the last one of its block that the form writes. -/
def lastOfBlock (n j : Nat) : Bool := j % 4 == 3 || decide (n ≤ 16 * (j + 1))

/-- The groups of a block up to group j, written as a block of the members that they hold. Its flags are set with its last
group, when all members are known (R86, R112, R184; log 96). -/
def State.blockSoFar (s : State) (s0 : State) (m : MemFmt) (t : VOp) (k : BitVec 3) (z last : Bool) (j : Nat)
    (ms : List (Nat × Nat)) : State :=
  let es := groupElems s0.core.vec.n (j / 4 * 4) (j % 4 + 1)
  if ms.isEmpty && !(z && es.any (s0.inact k)) then s
  else
    let u := s.putE2 t m.ctl (j / 4) (ms.map (fun x => (x.1, m.value x.2, 0)))
    if last then u else u.onVec (fun v => { v with vstat := s.core.vec.vstat })

/-- One group of a load from another format into an e2m1x register (R86, R112, R191): its elements join those that the
form has read of the block. -/
def loadIntoBlock (s0 : State) (m : MemFmt) (t : VOp) (k : BitVec 3) (z : Bool) (addr : Nat → Word) (s : State) (j : Nat) :
    Except GErr State :=
  match loadRaw m addr ((groupElems s0.core.vec.n j 1).filter (s0.act k)) s with
  | .error x => .error x
  | .ok (l, s1) =>
    let ms := s.core.vec.part ++ l
    let last := lastOfBlock s0.core.vec.n j
    .ok ((s1.blockSoFar s0 m t k z last j ms).onVec (fun v => { v with part := if last then [] else ms }))

/-- Where a load into an e2m1x register starts, and what it has read of the block there: at PIX where that is known, else
at the first group of the block. -/
def State.blockStart (s : State) (d : BitVec 5) : Nat × List (Nat × Nat) :=
  let g := s.startGroup clsV d
  let p := s.core.vec.part
  if !p.isEmpty && p.all (fun x => decide (g / 4 * 64 ≤ x.1) && decide (x.1 < 16 * g)) then (g, p) else (g / 4 * 4, [])

/-- What a load into an e2m1x register has read of the block at which it stands. -/
def State.setPart (s : State) (l : List (Nat × Nat)) : State := s.onVec (fun v => { v with part := l })

/-- Reads words one after another. -/
def loadWords (e : Nat) (va : Word) : Nat → State → Except GErr (List Word × State)
  | 0, s => .ok ([], s)
  | n + 1, s =>
    match gload s e va 8 with
    | .error x => .error x
    | .ok (w, s1) =>
      match loadWords e (va + 8) n s1 with
      | .error x => .error x
      | .ok (l, s2) => .ok (w :: l, s2)

/-- A block in memory: codes, scale byte, extra byte, checked as R85 says. -/
def loadBlock (m : MemFmt) (base : Word) (e b : Nat) (s : State) : Except GErr (BitVec 256 × Byte × Byte × State) :=
  match loadWords e (base + BitVec.ofNat 64 (32 * b)) 4 s with
  | .error x => .error x
  | .ok (planes, s1) =>
    match gload s1 e (base + m.scd + BitVec.ofNat 64 (2 * b)) 1 with
    | .error x => .error x
    | .ok (sc, s2) =>
      match gload s2 e (base + m.scd + BitVec.ofNat 64 (2 * b + 1)) 1 with
      | .error x => .error x
      | .ok (x8, s3) =>
        match blockCause (sc.setWidth 8) (x8.setWidth 8) with
        | some c => .error (.trap (plainTrap c))
        | none => .ok (codesOf planes, sc.setWidth 8, x8.setWidth 8, s3)

/-- The four groups of a block of e2m1x memory (R84, R85, R191). -/
def loadFromBlock (s0 : State) (m : MemFmt) (t : VOp) (base : Word) (s : State) (j : Nat) : Except GErr State :=
  match (groupElems s0.core.vec.n j 4).filter s0.inPlay with
  | [] => .ok s
  | e0 :: r =>
    match loadBlock m base e0 (j / 4) s with
    | .error x => .error x
    | .ok (codes, sc, x8, s1) =>
      let code (e : Nat) : BitVec 4 := getF 4 codes (e % 64)
      let val (e : Nat) : XVal := (widenE2m1 (code e) sc x8).scale m.sc
      if t.tag = .e2m1x then
        if m.en then .ok (s1.putBlocks t m.ctl ((e0 :: r).map (fun e => (e, val e, 0))) [])
        else
          let i := BitVec.ofNat 5 t.base
          .ok (s1.onVec (fun v =>
            let x := rget v.v i
            let data := (e0 :: r).foldl (fun b e => setF b e (code e)) (setF x.data (j / 4) (0 : BitVec 256))
            { v with v := rset v.v i { x with
                data := data, scales := setF x.scales (j / 4) sc, extras := setF x.extras (j / 4) x8 } }))
      else
        .ok ((e0 :: r).foldl (fun u e =>
          let x := t.tag.round t.frac m.ctl 0 (val e)
          (u.putElem t e x.1).flag x.2) s1)

/-- A load into v[d] at the address of each element (R112, R191, R205). -/
def loadForm (d : BitVec 5) (k : BitVec 3) (z : Bool) (addr : Nat → Word) (s : State) : Res :=
  let t := s.vop d
  let m := memFmt s.core.vec t.tag
  let g := s.startGroup clsV d
  if t.tag = .e2m1x then
    runGroups clsV d (loadIntoBlock s m t k z addr) (groupList s.core.vec.n (s.blockStart d).1 1)
      (s.clearPix.setPart (s.blockStart d).2)
  else runGroups clsV d (loadGroup s m t k z addr) (groupList s.core.vec.n g 1) s.clearPix

/-- v.ld (R205, R206). -/
def execVLd (d a : BitVec 5) (imm : BitVec 16) (s : State) : Out :=
  let t := s.vop d
  let m := memFmt s.core.vec t.tag
  let base := s.g a + sext imm
  (Res.check s (s.memTrap d none true)
    (if m.tag = .e2m1x then
      runGroups clsV d (loadFromBlock s m t base) (groupList s.core.vec.n (s.startGroup clsV d) 4) s.clearPix
    else loadForm d 0 false (linearAddr base m.msz) s)).finish

/-- v.lds (R205). -/
def execVLds (d a b : BitVec 5) (k : BitVec 3) (z : Bool) (s : State) : Out :=
  (Res.check s (s.memTrap d none false) (loadForm d k z (stridedAddr (s.g a) (s.g b)) s)).finish

/-- A form that has not completed keeps the index elements of its issue. -/
def Res.keepRep (l : List Nat) : Res → Res
  | .trap s t => .trap (s.onVec (fun v => { v with rep := l })) t
  | .wait s w => .wait (s.onVec (fun v => { v with rep := l })) w
  | r => r

/-- v.ldx (R205). -/
def execVLdx (d a b : BitVec 5) (k : BitVec 3) (z : Bool) (r : BitVec 2) (s : State) : Out :=
  let m := memFmt s.core.vec (s.vop d).tag
  (Res.check s (s.memTrap d (some b) false)
    ((loadForm d k z ((s.withRep d b r).indexedAddr (s.g a) b r m.msz) s).keepRep (s.repIndex d b r))).finish

/-- v.ldb: every active element from one address (R205). -/
def execVLdb (d a : BitVec 5) (k : BitVec 3) (z : Bool) (s : State) : Out :=
  (Res.check s (s.memTrap d none false) (loadForm d k z (fun _ => s.g a) s)).finish

/-- v.ldc (R208). -/
def execVLdc (d a : BitVec 5) (k : BitVec 3) (z : Bool) (s : State) : Out :=
  let m := memFmt s.core.vec (s.vop d).tag
  (Res.check s (s.memTrap d none false) (loadForm d k z (s.rankAddr (s.g a) k m.msz) s)).finish

/-- v.ldk (R205, R206): bytes g[a] + floor(e/8) that hold a bit below VL. -/
def execVLdk (d : BitVec 3) (a : BitVec 5) (s : State) : Out :=
  (runGroups clsK (d.setWidth 5) (fun u j =>
    foldAccess (fun u e =>
      if s.inPlay e then
        match gload u e (s.g a + BitVec.ofNat 64 (e / 8)) 1 with
        | .error x => .error x
        | .ok (w, u1) => .ok (u1.setK d (putBit (u1.kreg d) e (w.getLsbD (e % 8))))
      else .ok u) (groupElems s.core.vec.n j 1) u)
    (groupList s.core.vec.n (s.startGroup clsK (d.setWidth 5)) 1) s.clearPix).finish

/-- The causes that v.ldff turns into a count (R207). -/
def firstFaultCause (e : GErr) : Bool :=
  match e with
  | .access _ (.fault f) => f.early
  | _ => false

/-- Some active element of group j fails with a cause that v.ldff counts (R207). -/
def ffStop (s0 : State) (msz : Nat) (k : BitVec 3) (addr : Nat → Word) (s : State) (j : Nat) : Bool :=
  ((groupElems s0.core.vec.n j 1).filter (s0.act k)).any (fun e =>
    match gload s e (addr e) msz with
    | .error x => firstFaultCause x
    | .ok _ => false)

/-- The groups of v.ldff: how far it got, or how it stopped (R207). shut ends a block that the count cuts off. -/
def ffGroups (reg : BitVec 5) (stop : State → Nat → Bool) (f : State → Nat → Except GErr State) (shut : State → Nat → State)
    (n : Nat) : Bool → List Nat → State → Res × Nat
  | _, [], s => (.done s, n)
  | first, j :: r, s =>
    if j ≠ 0 && stop s j then (.done (shut s j), 16 * j)
    else match f s.beginGroup j with
      | .ok s1 => ffGroups reg stop f shut n false r (s1.pinsOf s)
      | .error e => (e.stop clsV reg j first s, 0)

/-- The block of which group j has not been read is complete with what has been read (R207). -/
def State.shutBlock (s0 : State) (m : MemFmt) (t : VOp) (k : BitVec 3) (s : State) (j : Nat) : State :=
  (s.blockSoFar s0 m t k false true (j - 1) s.core.vec.part).setPart []

/-- v.ldff (R207). -/
def execVLdff (d a b : BitVec 5) (k : BitVec 3) (z : Bool) (s : State) : Out :=
  let t := s.vop d
  let m := memFmt s.core.vec t.tag
  let n := s.core.vec.n
  let addr := linearAddr (s.g a) m.msz
  let x :=
    if t.tag = .e2m1x then
      ffGroups d (ffStop s m.msz k addr) (loadIntoBlock s m t k z addr) (State.shutBlock s m t k) n true
        (groupList n (s.blockStart d).1 1) (s.clearPix.setPart (s.blockStart d).2)
    else
      ffGroups d (ffStop s m.msz k addr) (loadGroup s m t k z addr) (fun u _ => u) n true
        (groupList n (s.startGroup clsV d) 1) s.clearPix
  (Res.check s (s.memTrap d none false) (x.1.andThen (fun u => .done (u.setG b (BitVec.ofNat 64 x.2))))).finish

/-! ## Load-data queues (R159, R209) -/

/-- A stream command for a port, active or pending. -/
def Core.hasStream (c : Core) (p : BitVec 4) (active : Bool) : Bool :=
  c.cmds.any (fun x => x.port == p && x.active == active)

/-- VQRD[q]. -/
def VecState.qrd (v : VecState) (q : Nat) : Nat := (fld v.vqrd (16 * (q - 8)) 16).toNat

/-- What keeps group j of v.ldq from queue q, of which n elements were consumed before: a wait, or a trap there (R209).
That of a failed queue shows XFAULT.FVA (R167, R397; log 50). -/
def State.queueStop (s : State) (q n j : Nat) : Option GErr :=
  let p := BitVec.ofNat 4 q
  let x := s.xstat p
  if n + min (16 * (j + 1)) s.core.vec.n ≤ xCnt x then none
  else if xState x = stError then
    some (.access (max (16 * j) (xCnt x - n)) (.fault ⟨0x63, zext (fld (s.xfault p) 0 56), AccKind.vread.code, 0xF, none, none⟩))
  else if s.core.hasStream p true || s.core.hasStream p false || xState x == stRecv then
    some (.access (16 * j) (.wait .xuGroup))
  else some (.trap (plainTrap 0x69))

/-- Group j of v.ldq, once its elements are there (R209); of an e2m1x register the block so far, from its elements in the
queue. -/
def queueGroup (s0 : State) (q n : Nat) (m : MemFmt) (t : VOp) (k : BitVec 3) (z : Bool) (s : State) (j : Nat) :
    Except GErr State :=
  let data := (rget s.core.port.ldq (BitVec.ofNat 2 (q - 8)))
  let raw (e : Nat) : Nat := (data.getD (n + e) 0).toNat
  match s.queueStop q n j with
  | some e => .error e
  | none =>
    if t.tag = .e2m1x then
      let es := groupElems s0.core.vec.n (j / 4 * 4) (j % 4 + 1)
      .ok (s.blockSoFar s0 m t k z (lastOfBlock s0.core.vec.n j) j ((es.filter (s0.act k)).map (fun e => (e, raw e))))
    else .ok ((groupElems s0.core.vec.n j 1).foldl (fun u e =>
      if s0.act k e then let y := m.toReg t (raw e); (u.putElem t e y.1).flag y.2
      else if z && s0.inact k e then u.putElem t e 0 else u) s)

/-- v.ldq (R209). A command that has not yet started on the port gives XSTAT no element size: the form waits for it, but
for one held behind a failure (log 27). -/
def execVLdq (d a : BitVec 5) (k : BitVec 3) (z : Bool) (s : State) : Out :=
  let t := s.vop d
  let m := memFmt s.core.vec t.tag
  let q := a.toNat
  let p := BitVec.ofNat 4 q
  let n := s.core.vec.qrd q
  let g := s.startGroup clsV d
  (Res.check s (s.memTrap d none false)
    (if !s.core.hasStream p true && s.core.hasStream p false && xState (s.xstat p) != stError then
      .wait (s.markPix clsV d g) .xuGroup
    else if !streamFmt m.tag.code || m.msz ≠ 2 ^ (xNsz (s.xstat p)).toNat then .trap s (plainTrap 0x6A)
    else (runGroups clsV d (queueGroup s q n m t k z) (groupList s.core.vec.n g 1) s.clearPix).andThen
      (fun u => .done (u.onVec (fun v => { v with
        vqrd := putFld v.vqrd (16 * (q - 8)) (BitVec.ofNat 16 (n + s.core.vec.n)) }))))).finish

/-! ## Stores -/

/-- One element group of a store whose memory format is not e2m1x. -/
def storeGroup (s0 : State) (m : MemFmt) (t : VOp) (k : BitVec 3) (addr : Nat → Word) (s : State) (j : Nat) :
    Except GErr State :=
  foldAccess (fun u e =>
    if s0.act k e then
      let x := m.toMem (s0.vbits t e) (s0.vval t e)
      match gstore u e (addr e) m.msz (BitVec.ofNat 64 x.1) with
      | .error y => .error y
      | .ok u1 => .ok (u1.flag x.2)
    else .ok u) (groupElems s0.core.vec.n j 1) s

/-- The block that v.st writes to e2m1x memory from the elements in play (R86, R191). -/
def storeBlockOf (s0 : State) (m : MemFmt) (t : VOp) (b : Nat) (es : List Nat) : E2Block :=
  if m.en then toE2m1x m.ctl (es.map (fun e => (e, (s0.vval t e).scale (-m.sc), 0)))
  else
    let x := s0.physReg t.base
    ⟨es.map (fun e => (e, BitVec.ofNat 4 (s0.vbits t e))), getF 8 x.scales b, getF 8 x.extras b, 0⟩

/-- The four groups of a block stored to e2m1x memory (R84, R191). -/
def storeToBlock (s0 : State) (m : MemFmt) (t : VOp) (base : Word) (s : State) (j : Nat) : Except GErr State :=
  match (groupElems s0.core.vec.n j 4).filter s0.inPlay with
  | [] => .ok s
  | e0 :: r =>
    let b := storeBlockOf s0 m t (j / 4) (e0 :: r)
    let codes := b.codes.foldl (fun x p => setF x (p.1 % 64) p.2) (0 : BitVec 256)
    let planes := foldAccess (fun u i =>
      gstore u e0 (base + BitVec.ofNat 64 (32 * (j / 4) + 8 * i)) 8 (planeOf codes i)) (List.range 4) s
    match planes with
    | .error x => .error x
    | .ok s1 =>
      match gstore s1 e0 (base + m.scd + BitVec.ofNat 64 (2 * (j / 4))) 1 (zext b.b) with
      | .error x => .error x
      | .ok s2 =>
        match gstore s2 e0 (base + m.scd + BitVec.ofNat 64 (2 * (j / 4) + 1)) 1 (zext b.x8) with
        | .error x => .error x
        | .ok s3 => .ok (s3.flag b.flags)

/-- A store of v[d] at the address of each element (R112, R191, R205). -/
def storeForm (d : BitVec 5) (k : BitVec 3) (addr : Nat → Word) (s : State) : Res :=
  let t := s.vop d
  runGroups clsMem 0 (storeGroup s (memFmt s.core.vec t.tag) t k addr)
    (groupList s.core.vec.n (s.startGroup clsMem 0) 1) s.clearPix

/-- v.st (R205, R206). -/
def execVSt (d a : BitVec 5) (imm : BitVec 16) (s : State) : Out :=
  let t := s.vop d
  let m := memFmt s.core.vec t.tag
  let base := s.g a + sext imm
  (Res.check s (s.memTrap d none true)
    (if m.tag = .e2m1x then
      runGroups clsMem 0 (storeToBlock s m t base) (groupList s.core.vec.n (s.startGroup clsMem 0) 4) s.clearPix
    else storeForm d 0 (linearAddr base m.msz) s)).finish

/-- v.sts (R205). -/
def execVSts (d a b : BitVec 5) (k : BitVec 3) (s : State) : Out :=
  (Res.check s (s.memTrap d none false) (storeForm d k (stridedAddr (s.g a) (s.g b)) s)).finish

/-- v.stx (R205). -/
def execVStx (d a b : BitVec 5) (k : BitVec 3) (r : BitVec 2) (s : State) : Out :=
  let m := memFmt s.core.vec (s.vop d).tag
  (Res.check s (s.memTrap d (some b) false) (storeForm d k (s.indexedAddr (s.g a) b r m.msz) s)).finish

/-- v.stc (R208). -/
def execVStc (d a : BitVec 5) (k : BitVec 3) (s : State) : Out :=
  let m := memFmt s.core.vec (s.vop d).tag
  (Res.check s (s.memTrap d none false) (storeForm d k (s.rankAddr (s.g a) k m.msz) s)).finish

/-- One byte of v.stk, from element e = 8·i up: a full byte is stored; one with bits that are not written is an
indivisible read-modify-write (R206, R330). -/
def stkByte (s0 : State) (d : BitVec 3) (base : Word) (s : State) (e : Nat) : Except GErr State :=
  let va := base + BitVec.ofNat 64 (e / 8)
  let ones := (List.range 8).filter (fun i => s0.inPlay (e + i))
  let mask : Word := ones.foldl (fun w i => w ||| (1 <<< i)) 0
  let bits : Word := zext (getF 8 (s0.kreg d) (e / 8)) &&& mask
  if ones.isEmpty then .ok s
  else if mask = 0xFF then gstore s (e + ones.headD 0) va 1 bits
  else
    match s.ld .atomic (e + ones.headD 0) va 1 with
    | .error x => .error (.access (e + ones.headD 0) x)
    | .ok (w, s1) => gstore s1 (e + ones.headD 0) va 1 (bits ||| (w &&& ~~~mask))

/-- v.stk (R206). -/
def execVStk (d : BitVec 3) (a : BitVec 5) (s : State) : Out :=
  (runGroups clsMem 0 (fun u j => foldAccess (stkByte s d (s.g a)) [16 * j, 16 * j + 8] u)
    (groupList s.core.vec.n (s.startGroup clsMem 0) 1) s.clearPix).finish

/-- v.pf changes only time (R208), and as any XU form clears PIX.V (R402). -/
def execVPf (_a _b : BitVec 5) (s : State) : Out := (Res.done s.clearPix).finish

/-! ## Scatter updates (R210, R339) -/

/-- op of a scatter update on values: one rounding a step for floating tags (R210). -/
def scatterOp (op : UpdOp) (t : Tag) (frac : Nat) (x y : FVal) : FVal :=
  let f := x.2 ||| y.2
  match op with
  | .min => (lesser x.1 y.1, f ||| (if x.1.isNan || y.1.isNan then flagInv else 0))
  | .max => (greater x.1 y.1, f ||| (if x.1.isNan || y.1.isNan then flagInv else 0))
  | _ => if t.isFloat then let r := t.roundRne frac (x.1.add y.1); (t.widen frac r.1, f ||| r.2) else (x.1.add y.1, f)

/-- m[A] after an update with c: the encoding and the flags (R210). -/
def scatterFinal (op : UpdOp) (t : Tag) (frac : Nat) (m : Nat) (c : FVal) : Nat × Flags :=
  let r := scatterOp op t frac (t.widen frac m, 0) c
  let y := t.roundRne frac r.1
  (y.1, r.2 ||| y.2)

/-- The distinct addresses in ascending order of their lowest element, with their merged operands. -/
def mergeUpdates (op : FVal → FVal → FVal) : List (Word × Nat × XVal) → List (Word × Nat × FVal) → List (Word × Nat × FVal)
  | [], acc => acc
  | (va, e, x) :: r, acc =>
    if acc.any (fun u => u.1 == va) then
      mergeUpdates op r (acc.map (fun u => if u.1 = va then (u.1, u.2.1, op u.2.2 (x, 0)) else u))
    else mergeUpdates op r (acc ++ [(va, e, (x, 0))])

/-- One update performed at its home, or held to the step's end on a DT page (R330, R339). -/
def scatterAt (op : UpdOp) (t : VOp) (s : State) (va : Word) (e : Nat) (c : FVal) : Except GErr State :=
  let n := t.tag.width / 8
  match reach s s.core.cmds s.pl .atomic va n with
  | .error x => .error (.access e x)
  | .ok x =>
    if x.dt then
      let val : Int := if t.tag.isFloat then (t.tag.roundRne t.frac c.1).1 else intVal c.1
      let u : StepUpd := ⟨fld s.core.detid 0 16, s.core.seq, e, x.pa, va56 va, n, op, t.tag, BitVec.ofNat 5 t.frac, false, val⟩
      .ok (((s.onCtx s.ctxIx (fun c => { c with stepUpds := c.stepUpds ++ [u] })).flag c.2).fill x |>.pin va)
    else
      let r := scatterFinal op t.tag t.frac (ofBytes (Memory.read s.mem x.pa n)) c
      .ok ((((s.correct x.pa n).writeAt x s.core.seq .atomic e va (toBytes n r.1)).flag r.2).fill x |>.pin va)

/-- Every check of every active element before any update (R210). -/
def probeAll (n : Nat) : List (Word × Nat × XVal) → State → Except GErr State
  | [], s => .ok s
  | (va, e, _) :: r, s =>
    match reach s s.core.cmds s.pl .atomic va n with
    | .error x => .error (.access e x)
    | .ok x => probeAll n r ((s.fill x).pin va)

/-- Performs the updates in turn. -/
def scatterAll (op : UpdOp) (t : VOp) : List (Word × Nat × FVal) → State → Except GErr State
  | [], s => .ok s
  | (va, e, c) :: r, s =>
    match scatterAt op t s va e c with
    | .error x => .error x
    | .ok s1 => scatterAll op t r s1

/-- A scatter update of v[d] at indices v[b] (R210). -/
def scatterForm (op : UpdOp) (d a b : BitVec 5) (k : BitVec 3) (r : BitVec 2) (s : State) : Res :=
  let t := s.vop d
  let es := (s.actives k 0).map (fun e => (s.indexedAddr (s.g a) b r (t.tag.width / 8) e, e, s.vval t e))
  Res.check s (firstTrap [(t.tag == .e2m1x, plainTrap 0x43), (t.tag.isAng && op != .add, plainTrap 0x43)])
    (Res.check s (s.memTrap d (some b) false)
      (Res.check s (firstTrap [(mfcEn s.core.vec.mfc, plainTrap 0x45)])
        (match probeAll (t.tag.width / 8) es s.clearPix.beginGroup with
          | .error e => e.res (s.markPix clsMem 0 0)
          | .ok s1 =>
            match scatterAll op t (mergeUpdates (scatterOp op t.tag t.frac) es []) s1 with
            | .error e => e.res (s.markPix clsMem 0 0)
            | .ok s2 => .done (s2.pinsOf s))))

/-- v.sxadd (R210). -/
def execVSxadd (d a b : BitVec 5) (k : BitVec 3) (r : BitVec 2) (s : State) : Out := (scatterForm .add d a b k r s).finish

/-- v.sxmin (R210). -/
def execVSxmin (d a b : BitVec 5) (k : BitVec 3) (r : BitVec 2) (s : State) : Out := (scatterForm .min d a b k r s).finish

/-- v.sxmax (R210). -/
def execVSxmax (d a b : BitVec 5) (k : BitVec 3) (r : BitVec 2) (s : State) : Out := (scatterForm .max d a b k r s).finish

end Sys2Proof.Machine
end

