-- ==== Sys2Proof/Machine/Sync.lean ====
section
/-! DEFINITION. Atomics, gang barriers, fences, claims of elements and deterministic steps: majors 0x37 to 0x39
(R327–R344). -/

namespace Sys2Proof.Machine

/-! ## Atomics (R329–R331) -/

/-- The atomics. -/
inductive AmoOp where
  | add | min | max | and | or | xor | swap | cas | fadd
  deriving DecidableEq, Repr

/-- Bytes of the word. -/
def AmoOp.size : AmoOp → Nat
  | .fadd => 4
  | _ => 8

/-- The held update of a DT page; none for amo.swap and amo.cas (R339). -/
def AmoOp.held : AmoOp → Option UpdOp
  | .add => some .add
  | .min => some .min
  | .max => some .max
  | .and => some .and
  | .or => some .or
  | .xor => some .xor
  | .fadd => some .fadd
  | .swap | .cas => none

/-- The new value of the word from the old m, the operand x and the old g[d], with flags (R329). -/
def AmoOp.apply (o : AmoOp) (m x cmp : Word) : Word × Flags :=
  match o with
  | .add => (m + x, 0)
  | .min => (if m.sle x then m else x, 0)
  | .max => (if m.sle x then x else m, 0)
  | .and => (m &&& x, 0)
  | .or => (m ||| x, 0)
  | .xor => (m ^^^ x, 0)
  | .swap => (x, 0)
  | .cas => (if m = cmp then x else m, 0)
  | .fadd =>
    let r := rF32 ((wF32 (fld m 0 32).toNat).add (wF32 (fld x 0 32).toNat))
    (BitVec.ofNat 64 r.1, r.2)

/-- Flags of an atomic: VSTAT, which the firmware core does not have (R15, R329). -/
def State.amoFlag (s : State) (f : Flags) : State := if s.core.fw then s else s.flag f

/-- An atomic at an address by element e: the old value m, and the state after (R330); on a DT page the update is held
and m is the committed value (R339). -/
def amoAt (s : State) (e : Nat) (o : AmoOp) (va x cmp : Word) : Except Stop (Word × State) :=
  match reach s s.core.cmds s.pl .atomic va o.size with
  | .error r => .error r
  | .ok l =>
    let m := wordOfBytes (s.readAt l .atomic e va o.size)
    let s1 := (s.correct l.pa o.size).fill l
    if l.dt then
      match o.held with
      | none => .error (.fault ⟨0xA3, va, 5, 0xF, none, l.walked va⟩)
      | some u =>
        let h : StepUpd := ⟨fld s.core.detid 0 16, s.core.seq, e, l.pa, va56 va, o.size, u,
          if o.size = 4 then .f32 else .n64, 0, true, x.toNat⟩
        .ok (m, s1.onCtx s.ctxIx (fun c => { c with stepUpds := c.stepUpds ++ [h] }))
    else
      let r := o.apply m x cmp
      .ok (m, (s1.writeAt l s.core.seq .atomic e va (toBytes o.size r.1.toNat)).amoFlag r.2)

/-- An atomic with g operands (R329). -/
def State.amoScalar (s : State) (o : AmoOp) (d a b : BitVec 5) : Res :=
  match amoAt s 0 o (s.g a) (s.g b) (s.g d) with
  | .error x => x.res s 0
  | .ok (m, s1) => .done (s1.setG d m)

/-- Tags that an atomic in a VP block takes in v[b] and v[d] (R331). -/
def AmoOp.tagOk (o : AmoOp) (t : Tag) : Bool := if o.size = 4 then t == .f32 else t == .n64 || t == .i64

/-- One VP's atomic. -/
def amoElem (s0 : State) (o : AmoOp) (d a b : VOp) (s : State) (e : Nat) : Except GErr State :=
  let w (r : VOp) : Word := BitVec.ofNat 64 (s0.vbits r e)
  match amoAt s e o (w a) (w b) (w d) with
  | .error x => .error (.access e x)
  | .ok (m, s1) => .ok ((s1.pin (w a)).putElem d e m.toNat)

/-- An atomic in a VP block: vector registers, one VP an element, in ascending order (R331). -/
def State.amoVector (s : State) (o : AmoOp) (d a b : BitVec 5) : Res :=
  let x := s.vop d
  let y := s.vop a
  let z := s.vop b
  Res.check s (firstTrap [
    (!(y.tag == .i64 || y.tag == .n64) || !o.tagOk z.tag || !o.tagOk x.tag, plainTrap 0x42),
    (s.overCap [x, y, z], plainTrap 0x44)])
    (runGroups clsV d (fun u j => foldAccess (amoElem s o x y z) ((groupElems s.core.vec.n j 1).filter s.inPlay) u)
      (groupList s.core.vec.n (s.startGroup clsV d) 1) s.clearPix)

/-- An atomic: with g operands, or in a VP block with vector registers (R329, R331). -/
def State.amo (s : State) (o : AmoOp) (d a b : BitVec 5) : Out :=
  (if s.core.vp.live then s.amoVector o d a b else s.amoScalar o d a b).finishStore s

/-- amo.add (R329). -/
def execAmoAdd (d a b : BitVec 5) (s : State) : Out := s.amo .add d a b

/-- amo.min (R329). -/
def execAmoMin (d a b : BitVec 5) (s : State) : Out := s.amo .min d a b

/-- amo.max (R329). -/
def execAmoMax (d a b : BitVec 5) (s : State) : Out := s.amo .max d a b

/-- amo.and (R329). -/
def execAmoAnd (d a b : BitVec 5) (s : State) : Out := s.amo .and d a b

/-- amo.or (R329). -/
def execAmoOr (d a b : BitVec 5) (s : State) : Out := s.amo .or d a b

/-- amo.xor (R329). -/
def execAmoXor (d a b : BitVec 5) (s : State) : Out := s.amo .xor d a b

/-- amo.swap (R329). -/
def execAmoSwap (d a b : BitVec 5) (s : State) : Out := s.amo .swap d a b

/-- amo.cas (R329). -/
def execAmoCas (d a b : BitVec 5) (s : State) : Out := s.amo .cas d a b

/-- amo.fadd (R329). -/
def execAmoFadd (d a b : BitVec 5) (s : State) : Out := s.amo .fadd d a b

/-! ## Fences (R326–R328) -/

/-- fence.rel (R327): writes are performed as they are made, but for those of streams (log 7). -/
def execFenceRel (b : BitVec 3) (s : State) : Out := (s.release b.toNat (.done s)).finish

/-- fence.acq (R327): reads are performed as they are made, but for those of streams and Sloe (log 7). -/
def execFenceAcq (b : BitVec 3) (s : State) : Out := (s.acquire b.toNat (.done s)).finish

/-- fence.ar (R327). -/
def execFenceAr (b : BitVec 3) (s : State) : Out := (s.release b.toNat (s.acquire b.toNat (.done s))).finish

/-! ## Gang barriers (R334, R335) -/

/-- Fields of GBSTAT (R334). -/
def gbPhase (x : Word) : BitVec 32 := fld x 32 32
def gbCount (x : Word) : Nat := (fld x 16 5).toNat
def gbArrived (x : Word) : Nat := (fld x 0 5).toNat

/-- A GBSTAT word. -/
def gbWord (phase : BitVec 32) (count arrived : Nat) : Word :=
  phase ++ 0#11 ++ BitVec.ofNat 5 count ++ 0#11 ++ BitVec.ofNat 5 arrived

/-- A barrier of the executing gang. -/
def State.gbar (s : State) (n : BitVec 4) : Word := rget s.share.gb n

/-- Replaces a barrier of the executing gang. -/
def State.setGb (s : State) (n : BitVec 4) (x : Word) : State := s.onShare (fun h => { h with gb := rset h.gb n x })

/-- gb.init (R335). -/
def execGbInit (d : BitVec 4) (a : BitVec 5) (s : State) : Out :=
  let n : Nat := (fld (s.g a) 0 5).toNat
  let x := s.gbar d
  (Res.check s (firstTrap [
    (decide (n = 0) || decide (16 < n), plainTrap 0xA6), (decide (gbArrived x ≠ 0), plainTrap 0xA5)])
    (.done (s.setGb d (gbWord (gbPhase x) n 0)))).finish

/-- A barrier after one more arrival (R335). -/
def gbArrive (x : Word) : Word :=
  if gbCount x ≤ gbArrived x + 1 then gbWord (gbPhase x + 1) (gbCount x) 0
  else gbWord (gbPhase x) (gbCount x) (gbArrived x + 1)

/-- gb.arr (R335). -/
def execGbArr (d : BitVec 5) (a : BitVec 4) (s : State) : Out :=
  let x := s.gbar a
  (if gbCount x = 0 then Res.trap s (plainTrap 0xA5)
  else s.release 2 (.done ((s.setGb a (gbArrive x)).setG d (zext (gbPhase x))))).finish

/-- The phase lies 1 to 2^31 beyond the one awaited (R335). -/
def gbPassed (x g : Word) : Bool :=
  let n := (gbPhase x - fld g 0 32).toNat
  decide (1 ≤ n) && decide (n ≤ 2 ^ 31)

/-- gb.wait, which then acts as fence.acq 2 (R335). -/
def execGbWait (a : BitVec 4) (b : BitVec 5) (s : State) : Out :=
  (if gbPassed (s.gbar a) (s.g b) then s.acquire 2 (.done s) else .wait s .gbWait).finish

/-! ## Claiming elements (R336) -/

/-- Elements of a claim: from the request, the vector length and what is left. -/
def claimLen (req next lim : Word) (mvl : Nat) : Nat :=
  min req.toNat (min mvl (if next.ult lim then (lim - next).toNat else 0))

/-- claim.el (R336). -/
def State.claimEl (s : State) (d a b : BitVec 5) : Res :=
  let va := s.g a
  let flt (c : BitVec 8) : Res := .trap s ((⟨c, va, 5, 0xF, none, none⟩ : MemFault).trap 0)
  if !canonical va then flt 0x20
  else if va.toNat % 16 ≠ 0 then flt 0x2A
  else match reach s s.core.cmds s.pl .atomic va 8 with
    | .error x => x.res s 0
    | .ok x => match reach s s.core.cmds s.pl .atomic (va + 8) 8 with
      | .error y => y.res s 0
      | .ok y =>
        if x.dt then flt 0xA3
        else
          let next := wordOfBytes (s.readAt x .atomic 0 va 8)
          let lim := wordOfBytes (s.readAt y .atomic 0 (va + 8) 8)
          let mvl := if s.core.fw then 1024 else s.core.vec.mvl (widthOfCode s.core.vec.w)
          let n := claimLen (s.g b) next lim mvl
          let s1 := (((s.correct x.pa 16).fill x).writeAt x s.core.seq .atomic 0 va
            (toBytes 8 (next + BitVec.ofNat 64 n).toNat)).setG d next
          .done (if s.core.fw then s1 else s1.onVec (fun v => { v with vl := putFld v.vl 0 (BitVec.ofNat 16 n) }))

/-- claim.el (R336). -/
def execClaimEl (d a b : BitVec 5) (s : State) : Out := (s.claimEl d a b).finishStore s

/-! ## Deterministic steps (R337–R344) -/

/-- Fields of DETCFG (R341). -/
def detNp (x : Word) : Nat := (fld x 0 16).toNat
def detCap (x : Word) : Nat := (fld x 16 16).toNat

/-- A DSTAT word (R341). -/
def dstatWord (step : BitVec 32) (ovf cf lflt : Bool) (nlog : Nat) : Word :=
  step ++ BitVec.ofBool ovf ++ BitVec.ofBool cf ++ BitVec.ofBool lflt ++ 0#13
    ++ BitVec.ofNat 16 (min nlog 0xFFFF)

/-- DSTAT after a step that completed: STEP + 1, CF 0; the record of the last failed step stays (R341, R342). -/
def dstatDone (x : Word) : Word := putFld (putFld x 30 (0#1)) 32 (fld x 32 32 + (1 : BitVec 32))

/-- The member whose arrivals at det.step count as those of one core. -/
def Core.detKey (c : Core) : Option Nat × Nat × BitVec 8 := (c.gang, c.rank, if c.gang.isNone then c.id else 0)

/-- Who arrived. -/
def DetArrival.key (a : DetArrival) : Option Nat × Nat × BitVec 8 := (a.gang, a.rank, a.core)

/-- A write of a step: an 8-byte word's bytes written by one key (R340, R343). -/
structure StepWrite where
  lcore : BitVec 16
  seq : Nat
  elem : Nat
  word : Nat
  mask : BitVec 8
  upd : Bool
  pas : List Nat
  deriving DecidableEq, Repr

/-- Adds a byte to the writes of a step, by word and key. -/
def addByte (w : StepWrite) : List StepWrite → List StepWrite
  | [] => [w]
  | x :: r =>
    if x.lcore = w.lcore ∧ x.seq = w.seq ∧ x.elem = w.elem ∧ x.word = w.word ∧ x.upd = w.upd then
      { x with mask := x.mask ||| w.mask, pas := x.pas ++ w.pas } :: r
    else x :: addByte w r

/-- The writes of a step that take part in detection: covered ones are exempt (R340). -/
def Context.writes (c : Context) : List StepWrite :=
  let plain := (c.stepBytes.filter (fun b => !b.covered)).foldl (fun l b =>
    addByte ⟨b.lcore, b.seq, b.elem, b.va / 8, 1 <<< (b.va % 8), false, [b.pa]⟩ l) []
  plain ++ c.stepUpds.map (fun u =>
    ⟨u.lcore, u.seq, u.elem, u.va / 8, (BitVec.ofNat 8 (2 ^ u.size - 1)) <<< (u.va % 8), true,
      (List.range u.size).map (fun i => u.pa + i)⟩)

/-- Two writes conflict (R340). -/
def StepWrite.conflicts (x y : StepWrite) : Bool :=
  x.lcore != y.lcore && !(x.upd && y.upd) && x.pas.any (fun a => y.pas.contains a)

/-- The writes that take part in a conflict. -/
def conflicting (l : List StepWrite) : List StepWrite := l.filter (fun x => l.any (fun y => x.conflicts y))

/-- Order of keys (R339). -/
def keyLt (a : BitVec 16 × Nat × Nat) (b : BitVec 16 × Nat × Nat) : Bool :=
  a.1.ult b.1 || (a.1 == b.1 && (decide (a.2.1 < b.2.1) || (a.2.1 == b.2.1 && decide (a.2.2 < b.2.2))))

/-- Order of the log (R343). -/
def logLt (x y : StepWrite) : Bool :=
  decide (x.word < y.word) || (x.word == y.word && keyLt (x.lcore, x.seq, x.elem) (y.lcore, y.seq, y.elem))

/-- Insertion into a sorted list, after equals. -/
def insertBy {α : Type} (lt : α → α → Bool) (x : α) : List α → List α
  | [] => [x]
  | y :: r => if lt x y then x :: y :: r else y :: insertBy lt x r

/-- Sorts a list, equals in their order. -/
def sortBy {α : Type} (lt : α → α → Bool) (l : List α) : List α := l.foldl (fun t x => insertBy lt x t) []

/-- The two words of a log entry (R343). -/
def StepWrite.entry (x : StepWrite) : Word × Word :=
  (BitVec.ofNat 56 (8 * x.word) ++ x.mask, x.lcore ++ BitVec.ofNat 16 x.elem ++ BitVec.ofNat 32 x.seq)

/-- A byte of some core's scratchpad, where the log is not written (R107). -/
def inScratch (pa : Nat) : Bool := match regionOf pa with
  | .scratch _ => true
  | _ => false

/-- Writes log entries in order until one fails; whether one did (R343). -/
def State.writeLog (s : State) (ctx : BitVec 8) : Word → List StepWrite → State × Bool
  | _, [] => (s, false)
  | va, x :: r =>
    let s := s.unitTouch ctx .swrite va 16
    match (s.unitPlace ctx .swrite va 16).filter (fun pa => !inScratch pa) with
    | none => (s, true)
    | some pa =>
      let e := x.entry
      State.writeLog (s.poke pa (toBytes 8 e.1.toNat ++ toBytes 8 e.2.toNat)) ctx (va + 16) r

/-- A value of a tag from what a held scatter update keeps of it. -/
def heldVal (t : Tag) (frac : Nat) (v : Int) : XVal :=
  if t.isFloat then t.widen frac v.toNat
  else .fin v (if t.isFx then -(frac : Int) else if t.isAng then -(t.width : Int) else 0)

/-- The word after a held update, with flags (R210, R329, R339). -/
def StepUpd.apply (u : StepUpd) (m : Nat) : Nat × Flags :=
  if u.atomic then
    let o : AmoOp := match u.op with
      | .add => .add
      | .min => .min
      | .max => .max
      | .and => .and
      | .or => .or
      | .xor => .xor
      | .fadd => .fadd
    let r := o.apply (BitVec.ofNat 64 m) (BitVec.ofInt 64 u.val) 0
    (r.1.toNat, r.2)
  else scatterFinal u.op u.tag u.frac.toNat m (heldVal u.tag u.frac.toNat u.val, 0)

/-- Sets flags on the core that carries an LCORE in a partition. -/
def State.flagLcore (s : State) (ctx : BitVec 8) (lc : BitVec 16) (f : Flags) : State :=
  s.mapCores (fun c => !c.fw && s.inPart c.id ctx && fld c.detid 0 16 == lc)
    (fun c => { c with vec := { c.vec with vstat := c.vec.vstat ||| f.setWidth 64 } })

/-- Applies one held update to memory. -/
def State.applyUpd (s : State) (ctx : BitVec 8) (u : StepUpd) : State :=
  let r := u.apply (ofBytes (Memory.read s.mem u.pa u.size))
  ({ s.overwrite u.pa u.size with mem := Memory.write s.mem u.pa (toBytes u.size r.1) }).flagLcore ctx u.lcore r.2

/-- What the data refuses to a held write of n bytes at its commit: a quarantined frame, or uncorrectable bytes that it
needs (R118, R119). whole: the step writes the granule in full. -/
def State.heldFault (s : State) (pa n : Nat) (whole : Bool) : Option (BitVec 8 × Option Nat) :=
  if s.quarantined pa n then some (0xC4, none)
  else if whole then none
  else (s.dev.badBytes.find? (fun b => granuleOf b == granuleOf pa)).map (fun b => (eccCause pa, some b))

/-- The step writes the granule of an address in full. -/
def Context.wholeGranule (c : Context) (pa : Nat) : Bool :=
  (List.range 8).all (fun i => c.stepBytes.any (fun x => x.pa == 8 * granuleOf pa + i))

/-- What the data refuses to a held byte and to a held update. -/
def State.byteFault (s : State) (c : Context) (b : StepByte) : Option (BitVec 8 × Option Nat) :=
  s.heldFault b.pa 1 (c.wholeGranule b.pa)
def State.updFault (s : State) (u : StepUpd) : Option (BitVec 8 × Option Nat) := s.heldFault u.pa u.size false

/-- Held writes and updates that cannot be made at the commit: LCORE, cause, the byte of an error, and the access. -/
def State.stepFaults (s : State) (c : Context) : List (BitVec 16 × BitVec 8 × Option Nat × BadAccess) :=
  let at' (va : Nat) (k : BitVec 4) (e : Nat) : BadAccess := ⟨(BitVec.ofNat 56 va).signExtend 64, k, e⟩
  c.stepBytes.filterMap (fun b => (s.byteFault c b).map (fun f => (b.lcore, f.1, f.2, at' b.va b.kind b.elem)))
    ++ c.stepUpds.filterMap (fun u => (s.updFault u).map (fun f => (u.lcore, f.1, f.2, at' u.va AccKind.atomic.code u.elem)))

/-- The step image becomes the committed image (R339, R342); writes that the data refuses are not made (R118, R119;
log 90). -/
def State.commitStep (s : State) (ctx : BitVec 8) : State :=
  let c := s.ctxAt ctx
  let ok := c.stepBytes.filter (fun b => (s.byteFault c b).isNone)
  let s0 := (ok.filter (fun b => c.wholeGranule b.pa)).foldl (fun t b => t.overwrite (8 * granuleOf b.pa) 8) s
  let s1 := ok.foldl (fun t b => { t.overwrite b.pa 1 with mem := Memory.set t.mem b.pa b.val }) s0
  let s2 := (sortBy (fun x y : StepUpd => keyLt (x.lcore, x.seq, x.elem) (y.lcore, y.seq, y.elem))
    (c.stepUpds.filter (fun u => (s.updFault u).isNone))).foldl (fun t u => (t.correct u.pa u.size).applyUpd ctx u) s1
  (s.stepFaults c).foldl (fun t f => match f.2.2.1 with
    | some b => if t.dev.quarantine.contains (frameOf b) then t else (t.quarantine b).postEvt ctx evtEcc
    | none => t) s2

/-- What the end of a step does to a core of the partition: DSTAT, a new numbering of writes, and the ends of the
det.step forms at which it arrived (R341–R343). -/
def Core.endStep (c : Core) (pcs : List Word) (cause verdict : Option (BitVec 8)) (bad : Option BadAccess) (ovf lflt : Bool)
    (nlog : Nat) : Core :=
  { c with
    seq := 0, seqNext := none, seqHeld := []
    dstat := match cause with
      | none => dstatDone c.dstat
      | some _ => dstatWord (fld c.dstat 32 32) ovf true lflt nlog
    detDone := c.detDone ++ pcs.map (fun p => (p, verdict, bad)) }

/-- The step ends for the partition: every core of it and every saved member (R342). bad: cores whose held writes could
not be made, by LCORE, with their causes and accesses. -/
def State.endStep (s : State) (ctx : BitVec 8) (cause : Option (BitVec 8)) (bad : List (BitVec 16 × BitVec 8 × BadAccess))
    (ovf lflt : Bool) (nlog : Nat) : State :=
  let l := (s.ctxAt ctx).arrivals
  let f (c : Core) : Core :=
    let own := (bad.find? (fun b => b.1 == fld c.detid 0 16)).map (fun b => b.2)
    c.endStep ((l.filter (fun a => a.key == c.detKey)).map (fun a => a.pc)) cause
      (cause.or (own.map (fun b => b.1))) (if cause.isSome then none else own.map (fun b => b.2)) ovf lflt nlog
  (s.mapCores (fun c => !c.fw && s.inPart c.id ctx) f).onCtx ctx (fun x => { x with
    stepBytes := [], stepUpds := [], arrivals := []
    saved := x.saved.map (fun g => { g with stepped := true, cores := g.cores.map (fun c => f { c with gang := some g.gang.id }) }) })

/-- Two arrivals from different members carry one LCORE (R342). -/
def sameLcore (l : List DetArrival) : Bool :=
  l.any (fun a => l.any (fun b => a.lcore == b.lcore && a.key != b.key))

/-- The NP-th arrival: the step completes or fails (R342, R343). -/
def State.resolveStep (s : State) (ctx : BitVec 8) : State :=
  let c := s.ctxAt ctx
  if sameLcore c.arrivals then s.endStep ctx (some 0xA4) [] false false 0
  else
    let l := sortBy logLt (conflicting c.writes)
    if l.isEmpty then
      (s.commitStep ctx).endStep ctx none ((s.stepFaults c).map (fun f => (f.1, f.2.1, f.2.2.2))) false false 0
    else
      let cap := detCap c.detcfg
      let w := s.writeLog ctx (sext (fld c.dlog 4 52 ++ 0#4)) (l.take cap)
      w.1.endStep ctx (some 0xA0) [] (decide (cap < l.length)) w.2 l.length

/-- The partition has the NP arrivals that end its step (R342). -/
def State.stepDue (s : State) (ctx : BitVec 8) : Bool :=
  let c := s.ctxAt ctx
  detNp c.detcfg != 0 && decide (detNp c.detcfg ≤ c.arrivals.length)

/-- DET_STEP_RESOLVE: a partition has NP arrivals (R342). The NP-th arrival ends the step at once; the event is due where
a write of DETCFG has lowered NP to the arrivals there are. -/
def execDetStepResolve (s : State) : Out :=
  if s.stepDue s.ev.ctx then .next (s.resolveStep s.ev.ctx) else notDue "DET_STEP_RESOLVE"

/-- The end of a det.step that has been decided: deterministic mode follows VPROF.DET on success (R337, R342). -/
def State.leaveStep (s : State) (d : BitVec 5) (r : Option (BitVec 8) × Option BadAccess) : Res :=
  let s1 := s.onCore (fun c => { c with detDone := c.detDone.eraseP (fun x => x.1 == c.pc) })
  match r.1 with
  | some c => .trap s1 (endTrap c r.2)
  | none => .done ((s1.onVec (fun v => { v with det := v.vprof.getLsbD 4 })).setG d (zext (fld s.core.dstat 32 32 : BitVec 32)))

/-- The core has arrived in the present step by this form. -/
def State.arrivedStep (s : State) : Bool :=
  (s.ctxAt s.ctxIx).arrivals.any (fun a => a.key == s.core.detKey && a.pc == s.core.pc)

/-- How the det.step form at the pc has ended for the core. -/
def Core.stepEnd (c : Core) : Option (Option (BitVec 8) × Option BadAccess) := (c.detDone.find? (fun x => x.1 == c.pc)).map (fun x => x.2)

/-- The core arrives; the NP-th arrival ends the step (R342). -/
def State.arriveStep (s : State) : State :=
  let k := s.core.detKey
  let s1 := s.onCtx s.ctxIx (fun c => { c with
    arrivals := c.arrivals ++ [⟨k.1, k.2.1, k.2.2, s.core.pc, fld s.core.detid 0 16⟩] })
  if s1.stepDue s.ctxIx then s1.resolveStep s.ctxIx else s1

/-- det.step (R342). -/
def execDetStep (d : BitVec 5) (s : State) : Out :=
  (if s.core.fw then Res.trap s (plainTrap 0xA1)
  else match s.core.stepEnd with
    | some r => s.leaveStep d r
    | none =>
      if s.arrivedStep then .wait s .detStep
      else Res.check s (firstTrap [
        (!s.core.vec.det && !s.core.vec.vprof.getLsbD 4, plainTrap 0xA1),
        (s.session.isSome, plainTrap 0x77), (detNp (s.ctxAt s.ctxIx).detcfg == 0, plainTrap 0xA2)])
        (s.release 4 (.wait s.arriveStep .detStep))).finish

/-- det.log (R344); the firmware core reads zero (R64). -/
def execDetLog (d : BitVec 5) (s : State) : Out :=
  (Res.done (s.setG d (if s.core.fw then 0 else s.core.dstat))).finish

end Sys2Proof.Machine
end

