-- ==== Sys2Proof/Machine/Sloe.lean ====
section
/-! DEFINITION. The Sloe posting-list engine: majors 0x34 and 0x35, and the steps of the engine (R281–R301). -/

namespace Sys2Proof.Machine

/-! ## Entries (R284) -/

/-- The identifier of an empty entry. -/
def emptyId : BitVec 32 := 0xFFFFFFFF

/-- An empty entry. -/
def emptyEntry : Word := 0xFFFFFFFF

/-- An entry word. -/
def entryWord (id : BitVec 32) (v : Nat) : Word := BitVec.ofNat 32 v ++ id

def entryId (w : Word) : BitVec 32 := fld w 0 32
def entryVal (w : Word) : Nat := (fld w 32 32).toNat

/-! ## Status (R296, R299) -/

/-- Sloe commands that are active or pending. -/
def Core.sloes (c : Core) : Nat := (c.cmds.filter (fun x => match x with | .sloe y => !y.removed | .stream _ => false)).length

/-- PLSTAT as it reads: QN is sampled (R299). -/
def Core.plstat (c : Core) : Word := putFld c.sloe.plstat 32 (BitVec.ofNat 4 c.sloes)

/-- Changes the Sloe registers. -/
def State.onSloe (s : State) (f : SloeRegs → SloeRegs) : State := s.onCore (fun c => { c with sloe := f c.sloe })

/-- A PLSTAT record: F, the AB that stood, and the failure (R299). -/
def plRecord (old : Word) (p : BitVec 4) (why : BitVec 4) (cause : BitVec 8) (chk ent : Nat) : Word :=
  (1#1 ++ fld old 62 1 ++ (p.setWidth 3) ++ 0#1 ++ why ++ cause ++ 0#10 ++ 0#4 ++ BitVec.ofNat 16 chk
    ++ BitVec.ofNat 16 ent).setWidth 64

/-- The record keeps the earliest-issued failure since F was cleared (R299). -/
def SloeRegs.record (r : SloeRegs) (seq : Nat) (w : Word) : SloeRegs :=
  if !r.plstat.getLsbD 63 || seq < r.rseq then { r with plstat := w, rseq := seq } else r

/-! ## Issue: major 0x34 (R286, R287) -/

/-- A list descriptor: the channel and the count; none if it is malformed (R286). -/
def listDesc (x : Word) : Option (BitVec 3 × Nat) :=
  if fld x 3 29 != 0 || fld x 48 16 != 0 || fld x 32 16 == 0 || 32768 < (fld x 32 16).toNat then none
  else some (fld x 0 3, (fld x 32 16).toNat)

/-- The destination base that g[d] gives (R286). -/
def sloeBase (x : Word) : Option (BitVec 22) :=
  if fld x 22 42 != 0 || fld x 0 3 != 0 then none else some (fld x 0 22)

/-- A command without its inputs. -/
def State.sloeCmd (s : State) (kind : SloeKind) (p op : BitVec 4) (a b : BitVec 5) : SloeCmd :=
  { kind := kind, port := p, op := op, base := 0, ga := s.g a, gb := s.g b, chA := 0, baseA := 0, lenA := 0, chB := 0
    baseB := 0, lenB := 0, prm0 := s.core.sloe.plprm[0], prm1 := s.core.sloe.plprm[1], prm2 := s.core.sloe.plprm[2]
    doc0 := s.core.sloe.pldoc[0], doc1 := s.core.sloe.pldoc[1], pair := [], exp := 0, pl := s.pl, active := false
    seq := s.core.sloe.seq, removed := false, stop := false, chunks := [], posA := 0, posB := 0, lastA := none
    lastB := none, out := 0, ended := false, pool := [], entries := [] }

/-- An input list bound to a command: A or B. -/
def State.bindA (s : State) (c : SloeCmd) (x : BitVec 3 × Nat) : SloeCmd :=
  { c with chA := x.1, baseA := BitVec.ofNat 22 (chBase (s.chwin x.1)), lenA := BitVec.ofNat 16 x.2 }
def State.bindB (s : State) (c : SloeCmd) (x : BitVec 3 × Nat) : SloeCmd :=
  { c with chB := x.1, baseB := BitVec.ofNat 22 (chBase (s.chwin x.1)), lenB := BitVec.ofNat 16 x.2 }

/-- The operands of a form, each checked (R286): the command with its inputs and E, the input channels; none for
cause 0x71. -/
def State.sloeOperands (s : State) (c : SloeCmd) (vl : Nat) : Option (SloeCmd × Nat × List (BitVec 3)) :=
  match c.kind with
  | .dec =>
    let nc : Nat := (fld c.gb 0 5).toNat
    let fc : Nat := (fld c.gb 16 16).toNat
    if fld c.gb 5 11 != 0 || fld c.gb 32 32 != 0 || nc = 0 || 16 < nc || 65536 < fc + nc then none
    else some (c, 2048 * nc, [])
  | .isect => match listDesc c.ga, listDesc c.gb with
    | some x, some y => some (s.bindB (s.bindA c x) y, min x.2 y.2, [x.1, y.1])
    | _, _ => none
  | .unite => match listDesc c.ga, listDesc c.gb with
    | some x, some y => some (s.bindB (s.bindA c x) y, x.2 + y.2, [x.1, y.1])
    | _, _ => none
  | .bm25 => match listDesc c.ga with
    | some x => if fld c.gb 32 32 != 0 then none else some (s.bindA c x, x.2, [x.1])
    | none => none
  | .fuse => match listDesc c.ga with
    | some x => some (s.bindA c x, x.2 + vl, [x.1])
    | none => none
  | .topk => match listDesc c.ga with
    | some x =>
      if fld c.gb 11 53 != 0 || fld c.gb 0 11 == 0 || 1024 < (fld c.gb 0 11).toNat then none
      else some (s.bindA c x, (fld c.gb 0 11).toNat, [x.1])
    | none => none

/-- Elements 0 to VL − 1 of the pair of pl.fuse (R287). -/
def State.fusePair (s : State) (b : BitVec 5) : List (BitVec 32 × BitVec 32) :=
  let x := s.vop b
  let y := s.vop (b + 1)
  (List.range s.core.vec.n).map (fun e => (BitVec.ofNat 32 (s.vbits x e), BitVec.ofNat 32 (s.vbits y e)))

/-- The command of a form, checked (R287): or the cause. -/
def State.makeSloe (s : State) (kind : SloeKind) (p op : BitVec 4) (d a b : BitVec 5) : Except Cause SloeCmd :=
  let c0 := if kind == .fuse then { s.sloeCmd kind p op a b with gb := 0 } else s.sloeCmd kind p op a b
  match sloeBase (s.g d), s.sloeOperands c0 s.core.vec.n with
  | some base, some (c, e, chs) =>
    if chs.any (fun ch => p == 0#1 ++ ch) || 32768 < e then .error 0x71
    else if 2 ^ 21 < base.toNat + 8 * e || 2 ^ 21 < c.baseA.toNat + 8 * c.lenA.toNat
      || 2 ^ 21 < c.baseB.toNat + 8 * c.lenB.toNat then .error 0x64
    else
      let c1 := { c with base := base, exp := BitVec.ofNat 16 e }
      if kind == .fuse then
        let x := s.vop b
        let y := s.vop (b + 1)
        if x.tag != .n32 || y.tag != .f32 then .error 0x42
        else if s.overCap [x, y] then .error 0x44
        else .ok { c1 with pair := s.fusePair b }
      else .ok c1
  | _, _ => .error 0x71

/-- A Sloe command is issued (R286–R288). -/
def State.issueSloe (s : State) (kind : SloeKind) (p op : BitVec 4) (d a b : BitVec 5) : Res :=
  match s.makeSloe kind p op d a b with
  | .error c => .trap s (plainTrap c)
  | .ok c =>
    if 8 ≤ s.core.sloes || s.core.tile.conflict c.base.toNat (8 * c.exp.toNat) true then .wait s .dauStall
    else .done ((s.setCmds (s.core.cmds ++ [.sloe c])).onSloe (fun r => { r with seq := r.seq + 1 }))

/-- pl.dec (R291). -/
def execPlDec (d a b : BitVec 5) (op p : BitVec 4) (s : State) : Out := (s.issueSloe .dec p op d a b).finish

/-- pl.isect (R292). -/
def execPlIsect (d a b : BitVec 5) (op p : BitVec 4) (s : State) : Out := (s.issueSloe .isect p op d a b).finish

/-- pl.unite (R292). -/
def execPlUnite (d a b : BitVec 5) (op p : BitVec 4) (s : State) : Out := (s.issueSloe .unite p op d a b).finish

/-- pl.bm25 (R293). -/
def execPlBm25 (d a b : BitVec 5) (p : BitVec 4) (s : State) : Out := (s.issueSloe .bm25 p 0 d a b).finish

/-- pl.fuse (R294). -/
def execPlFuse (d a b : BitVec 5) (p : BitVec 4) (s : State) : Out := (s.issueSloe .fuse p 0 d a b).finish

/-- pl.topk (R295). -/
def execPlTopk (d a b : BitVec 5) (p : BitVec 4) (s : State) : Out := (s.issueSloe .topk p 0 d a b).finish

/-! ## Parameters and status: major 0x35 (R296–R298) -/

/-- pl.prm (R296): b is below 3. -/
def execPlPrm (a : BitVec 5) (b : BitVec 2) (s : State) : Out :=
  (Res.done (s.onSloe (fun r => { r with plprm := r.plprm.setIfInBounds b.toNat (s.g a) }))).finish

/-- pl.qry (R296). -/
def execPlQry (a b : BitVec 5) (s : State) : Out :=
  (Res.check s (firstTrap [
    (!canonical (s.g a), { cause := 0x20, tval := s.g a }), (fld (s.g b) 32 32 != 0, plainTrap 0x71)])
    (.done (s.onSloe (fun r => { r with pldoc := (r.pldoc.set 0 (s.g a)).set 1 (s.g b) })))).finish

/-- pl.stat (R296). -/
def execPlStat (d : BitVec 5) (s : State) : Out := (Res.done (s.setG d s.core.plstat)).finish

/-- pl.clr (R296). -/
def execPlClr (a : BitVec 5) (s : State) : Out :=
  let x := s.g a
  (Res.done (s.onSloe (fun r =>
    let w := if x.getLsbD 63 then putFld (putFld 0 62 (fld r.plstat 62 1 : BitVec 1)) 32 (fld r.plstat 32 4 : BitVec 4)
      else r.plstat
    { r with plstat := if x.getLsbD 62 then putFld w 62 (0#1) else w }))).finish

/-- The core has a Sloe command that has not yet completed or failed. -/
def Core.hasSloe (c : Core) : Bool := c.cmds.any (fun x => match x with | .sloe _ => true | .stream _ => false)

/-- The earliest-issued failure that still counts (R297). -/
def earliestFailed : List (Nat × BitVec 4) → Option (Nat × BitVec 4)
  | [] => none
  | x :: r => match earliestFailed r with
    | none => some x
    | some y => if y.1 < x.1 then some y else some x

/-- The trap of a failed command, as pl.wait takes it: KIND 6 (R297). -/
def State.sloeTrap (s : State) (p : BitVec 4) : Trap :=
  { s.portTrap p with xlinfo := some (putFld (s.portInfo p) 20 (6#4)) }

/-- pl.wait (R297): a failure counts while its port holds it in ERROR; that of a command removed behind a port in OVERFILL,
while the port stays in that state (R298). -/
def execPlWait (s : State) : Out :=
  (if s.core.hasSloe then Res.wait s .plWait
  else match earliestFailed (s.core.sloe.failed.filter (fun x => s.portBad x.2)) with
    | some x => .trap s (s.sloeTrap x.2)
    | none => .done s).finish

/-- What pl.abort does to a command: pending ones are removed, active ones are to stop (R298). -/
def Cmd.abort : Cmd → Cmd
  | .stream c => .stream c
  | .sloe c => .sloe (if c.active then { c with stop := true } else { c with removed := true })

/-- pl.abort will stop or remove the command (R298). -/
def Cmd.abortable : Cmd → Bool
  | .stream _ => false
  | .sloe c => !c.removed && !c.stop

/-- A command that is to stop has not stopped yet. -/
def Core.stopping (c : Core) : Bool := c.cmds.any (fun x => match x with | .sloe y => y.active && y.stop | .stream _ => false)

/-- pl.abort (R298): it waits until the active commands have stopped. -/
def execPlAbort (s : State) : Out :=
  let hit := s.core.cmds.any Cmd.abortable
  let s1 := (s.setCmds (s.core.cmds.map Cmd.abort)).onSloe (fun r =>
    { r with plstat := if hit then putBit r.plstat 62 true else r.plstat })
  (if s1.core.stopping then Res.wait s1 .plWait else .done s1).finish

/-! ## Start, end and failure of a command (R288, R290, R297–R299) -/

/-- The port of a Sloe command as it begins (R288). -/
def State.openSloe (s : State) (c : SloeCmd) : State :=
  (((s.unfail c.port).setXstat c.port (startWord (s.xstat c.port) false false 0 3 c.exp)).setXcsum c.port 0).setChwin c.port
    (chWord c.base.toNat c.base.toNat)

/-- The command fails at an entry (R290, R297, R299, R301). -/
def State.failSloe (s : State) (c : SloeCmd) (f : Nat) (cause : BitVec 8) (va : Word) (level : BitVec 4) (why : BitVec 4)
    (chk : Nat) : State :=
  let s := s.dropCmd c.port
  let x := putFld (putFld (s.xstat c.port) 61 stError) 0 (BitVec.ofNat 16 f)
  ((s.setXstat c.port x).setXfault c.port (cause ++ (fld va 0 56 : BitVec 56)) (xlinfoWord f ⟨cause, va, 6, level, none, none⟩)).onSloe
    (fun r => { r.record c.seq (plRecord r.plstat c.port why cause chk f) with
      failed := r.failed ++ [(c.seq, c.port)] })

/-- The command has completed (R290). -/
def State.finishSloe (s : State) (c : SloeCmd) (entries : List Word) : State :=
  let s := s.dropCmd c.port
  let crc := crc32c (entries.flatMap (fun w => toBytes 8 w.toNat))
  ((s.setXstat c.port (putFld (s.xstat c.port) 61 stDone)).setCnt c.port c.exp.toNat).setXcsum c.port (crc ++ 0#32)

/-- An active command stops at a boundary: entries at and above WM are undefined (R298). -/
def State.stopSloe (s : State) (c : SloeCmd) : State :=
  let n := xCnt (s.xstat c.port)
  (s.failSloe c n 0x74 0 0xF 0 0).freeBytes (c.base.toNat + 8 * n) (8 * (c.exp.toNat - n))

/-- A removed command takes its failure in its place; a port that holds one keeps it (R298). -/
def State.failRemoved (s : State) (c : SloeCmd) : State :=
  if s.portBad c.port then
    (s.dropCmd c.port).onSloe (fun r => { r with failed := r.failed ++ [(c.seq, c.port)] })
  else (s.openSloe c).failSloe c 0 0x74 0 0xF 0 0

/-- SLOE_COMMAND_START: the next command of a port starts, or a removed one takes its failure, for which an armed port
does not wait (R288, R298). -/
def execSloeCommandStart (s : State) : Out :=
  let s := s.focus s.ev.c
  match splitCmd s.ev.p s.core.cmds with
  | some (_, .sloe c, _) =>
    if c.removed then .next (s.failRemoved c)
    else if !c.removed && s.mayStart (.sloe c) then
      .next ((s.openSloe c).putCmd c.port (.sloe { c with active := true }))
    else notDue "SLOE_COMMAND_START"
  | _ => notDue "SLOE_COMMAND_START"

/-! ## Chunks (R281–R285) -/

/-- n bytes at offset o of a chunk, as a number. -/
def chunkAt (h o n : Nat) : Nat := h / 2 ^ (8 * o) % 2 ^ (8 * n)

/-- A block header with its number of documents (R282). -/
structure Block where
  first : Nat
  n : Nat
  wd : Nat
  wf : Nat
  off : Nat
  bound : Nat
  rsvd : Nat
  deriving DecidableEq, Repr

/-- Bytes of the payload (R283). -/
def Block.size (b : Block) : Nat := (((b.n - 1) * b.wd + b.n * b.wf) + 63) / 64 * 8

/-- The blocks of a chunk (R282). -/
def chunkBlocks (h : Nat) : List Block :=
  let nb := chunkAt h 4 2
  (List.range nb).map (fun i =>
    let o := 32 + 16 * i
    { first := chunkAt h o 4, n := if i + 1 < nb then 128 else chunkAt h 6 2, wd := chunkAt h (o + 4) 1
      wf := chunkAt h (o + 5) 1, off := chunkAt h (o + 6) 2, bound := chunkAt h (o + 8) 4, rsvd := chunkAt h (o + 12) 4 })

/-- Identifiers of a block from its first, by deltas of the stream (R283): fuel counts the deltas left. -/
def blockDocs (bits wd : Nat) : Nat → Nat → Nat → List Nat
  | 0, _, doc => [doc]
  | k + 1, pos, doc => doc :: blockDocs bits wd k (pos + wd) (doc + bits / 2 ^ pos % 2 ^ wd + 1)

/-- Identifiers, frequencies and the padding bits of a block (R283). -/
def Block.decode (b : Block) (h : Nat) : List Nat × List Nat × Nat :=
  let bits := if b.size = 0 then 0 else chunkAt h b.off b.size
  let p := (b.n - 1) * b.wd
  (blockDocs bits b.wd (b.n - 1) 0 b.first,
    (List.range b.n).map (fun j => bits / 2 ^ (p + b.wf * j) % 2 ^ b.wf + 1),
    bits / 2 ^ (p + b.n * b.wf))

/-- The block header fails check 6 alone (R285). -/
def Block.bad (b : Block) (nb len : Nat) : Bool :=
  let v := fmtF32.widen b.bound
  decide (32 < b.wd) || decide (16 < b.wf) || decide (b.off % 8 ≠ 0) || decide (b.rsvd ≠ 0)
    || v.isNan || v.lt XVal.zero
    || (decide (0 < b.size) && (decide (b.off < 32 + 16 * nb) || decide (len < b.off + b.size)))

/-- Two payloads overlap (R283). -/
def payloadsMeet : List Block → Bool
  | [] => false
  | b :: r => r.any (fun c => decide (0 < b.size) && decide (0 < c.size) && meets b.off b.size c.off c.size) || payloadsMeet r

/-- The last of a list of numbers. -/
def lastOf (l : List Nat) : Nat := l.getLast?.getD 0

/-- FIRST of a block is not above the last document before it (R285). -/
def firstsBad : List (Block × List Nat) → Bool
  | (_, d) :: (b, e) :: r => decide (b.first ≤ lastOf d) || firstsBad ((b, e) :: r)
  | _ => false

/-- The checks of the header alone (R285): FWHY 1 to 4. -/
def headerWhy (h : Nat) : Option (BitVec 4) :=
  let nb := chunkAt h 4 2
  let len := chunkAt h 12 4
  if chunkAt h 0 4 ≠ 0x534C4F45 then some 1
  else if nb = 0 || 16 < nb || chunkAt h 6 2 = 0 || 128 < chunkAt h 6 2 then some 2
  else if len % 8 ≠ 0 || len < 32 + 16 * nb || 16384 < len then some 3
  else if chunkAt h 8 4 ≠ 0 || chunkAt h 24 8 ≠ 0 || chunkAt h 20 4 / 2 ≠ 0 then some 4
  else none

/-- The checks of the whole chunk (R285): FWHY 5 to 9. -/
def bodyWhy (h : Nat) : Option (BitVec 4) :=
  let nb := chunkAt h 4 2
  let len := chunkAt h 12 4
  let bs := chunkBlocks h
  let ds := bs.map (fun b => (b, b.decode h))
  if chunkAt h 20 4 % 2 = 1 && (crc32c (toBytes (len - 32) (chunkAt h 32 (len - 32)))).toNat ≠ chunkAt h 16 4 then some 5
  else if bs.any (fun b => b.bad nb len) || payloadsMeet bs then some 6
  else if firstsBad (ds.map (fun x => (x.1, x.2.1))) then some 7
  else if ds.any (fun x => x.2.2.2 != 0) then some 8
  else if ds.any (fun x => x.2.1.any (fun d => decide (0xFFFFFFFF ≤ d))) then some 9
  else none

/-- The 128 positions of a block (R284, R291). -/
def blockEntries (b : Block) (h : Nat) (prune : Bool) (thr : Nat) : List Word :=
  let x := b.decode h
  let l := if prune && !(wF32 thr).isNan && (wF32 b.bound).lt (wF32 thr) then []
    else (x.1.zip x.2.1).map (fun p => entryWord (BitVec.ofNat 32 p.1) (rF32 (XVal.ofInt p.2)).1)
  l ++ List.replicate (128 - l.length) emptyEntry

/-- The 2048 entries of a chunk that has passed its check (R291). -/
def chunkEntries (h : Nat) (prune : Bool) (thr : Nat) : List Word :=
  let l := (chunkBlocks h).flatMap (fun b => blockEntries b h prune thr)
  l ++ List.replicate (2048 - l.length) emptyEntry

/-- Consecutive words of memory as a number, lowest first. -/
def sloeWords (earlier : List Cmd) (pl : BitVec 2) (va : Word) : Nat → State → ElemRes (List Byte × State)
  | 0, s => .ok ([], s)
  | n + 1, s => match load s earlier pl .xread 0 va 8 with
    | .error e => .error (s, e)
    | .ok (w, s1) => match sloeWords earlier pl (va + 8) n s1 with
      | .error e => .error e
      | .ok (l, s2) => .ok (toBytes 8 w.toNat ++ l, s2)

/-- What came of a chunk: its bytes, or FWHY. -/
inductive ChunkRead where
  | bytes (h : Nat)
  | why (w : BitVec 4)
  deriving DecidableEq, Repr

/-- Reads chunk number ci and makes its checks in order (R281, R285). -/
def readChunk (s : State) (earlier : List Cmd) (c : SloeCmd) (ci : Nat) : ElemRes (ChunkRead × State) :=
  match load s earlier c.pl .xread 0 (c.ga + BitVec.ofNat 64 (4 * ci)) 4 with
  | .error e => .error (s, e)
  | .ok (off, s1) =>
    let a := c.ga + zext (fld off 0 32 : BitVec 32)
    match sloeWords earlier c.pl a 4 s1 with
    | .error e => .error e
    | .ok (hd, s2) => match headerWhy (ofBytes hd) with
      | some w => .ok (.why w, s2)
      | none => match sloeWords earlier c.pl (a + 32) ((chunkAt (ofBytes hd) 12 4 - 32) / 8) s2 with
        | .error e => .error e
        | .ok (tl, s3) =>
          let h := ofBytes (hd ++ tl)
          match bodyWhy h with
          | some w => .ok (.why w, s3)
          | none => .ok (.bytes h, s3)

/-- Entries into the destination window from entry i up (R290): the state, or what the write meets (R119). -/
def State.putEntries (s : State) (c : SloeCmd) (i : Nat) (l : List Word) : Except MemFault State :=
  let off := c.base.toNat + 8 * i
  let frame := (off + 8 * l.length - 1) / 65536 * 65536
  match (s.scrFault s.core.id off 8 .xwrite).orElse (fun _ => s.scrFault s.core.id (max off frame) 8 .xwrite) with
  | some m => .error m
  | none => .ok (s.scrPut s.core.id off (l.flatMap (fun w => toBytes 8 w.toNat)))

/-- A slot that failed. -/
def ChunkDone.failed (d : ChunkDone) : Bool := d.cause != 0

/-- The done chunk of a slot. -/
def SloeCmd.slot (c : SloeCmd) (i : Nat) : Option ChunkDone := c.chunks.find? (fun d => d.chunk == i)

/-- Leading slots decoded and not failed, from slot i on (R291): fuel counts the slots left. -/
def SloeCmd.leading (c : SloeCmd) : Nat → Nat → Nat
  | 0, i => i
  | n + 1, i => match c.slot i with
    | some d => if d.failed then i else c.leading n (i + 1)
    | none => i

/-- The lowest failed slot. -/
def SloeCmd.firstFailed (c : SloeCmd) : Option ChunkDone := (List.range c.nc).findSome? (fun i =>
  match c.slot i with
  | some d => if d.failed then some d else none
  | none => none)

/-- A slot is done: its entries are written, CNT follows, and after the last the command ends (R290, R291). -/
def State.slotDone (s : State) (c : SloeCmd) (d : ChunkDone) : State :=
  let r := match s.putEntries c (2048 * d.chunk) d.words with
    | .ok s1 => (s1, d)
    | .error m => (s, if d.failed then d else { d with cause := m.cause, fva := m.va, level := m.level })
  let c1 := { c with chunks := c.chunks ++ [r.2] }
  let s1 := r.1.setCnt c.port (2048 * c1.leading c1.nc 0)
  if c1.chunks.length < c1.nc then s1.putCmd c.port (.sloe c1)
  else match c1.firstFailed with
    | some f => s1.failSloe c1 (2048 * f.chunk) f.cause f.fva f.level f.fwhy (c1.fc + f.chunk)
    | none => s1.finishSloe c1 ((List.range c1.nc).flatMap (fun i => ((c1.slot i).map (fun x => x.words)).getD []))

/-- A lane may hold the chunk: lanes take chunks in ascending order, eight at a time (R291). -/
def SloeCmd.inLane (c : SloeCmd) (i : Nat) : Bool :=
  decide (i < c.nc) && (c.slot i).isNone && decide (((List.range i).filter (fun j => (c.slot j).isNone)).length < 8)

/-- SLOE_CHUNK_COMPLETE: a lane finishes a chunk of the active pl.dec of a port (R291), or the command stops (R298). -/
def execSloeChunkComplete (s : State) : Out :=
  let s := s.focus s.ev.c
  match splitCmd s.ev.p s.core.cmds with
  | some (b, .sloe c, _) =>
    let i := s.ev.chunk.toNat
    if c.kind != .dec || !c.active then notDue "SLOE_CHUNK_COMPLETE"
    else if c.stop then .next (s.stopSloe c)
    else if !c.inLane i then notDue "SLOE_CHUNK_COMPLETE"
    else
      let empties := List.replicate 2048 emptyEntry
      match readChunk s b c (c.fc + i) with
      | .error (_, .wait _) => notDue "SLOE_CHUNK_COMPLETE"
      | .error (s1, .fault m) =>
        .next (((s1.quarantineFault m.bad).repairMiss m.walked).slotDone c ⟨i, m.cause, 0, m.va, m.level, empties⟩)
      | .ok (.why w, s1) => .next (s1.slotDone c ⟨i, 0x72, w, 0, 0xF, empties⟩)
      | .ok (.bytes h, s1) =>
        .next (s1.slotDone c ⟨i, 0, 0, 0, 0xF, chunkEntries h (c.op.getLsbD 0) (fld c.prm1 0 32).toNat⟩)
  | _ => notDue "SLOE_CHUNK_COMPLETE"

/-! ## Batches (R289–R295) -/

/-- How a batch stops: it waits on an input, or the command fails. -/
inductive Batch where
  | wait
  | fail (cause : BitVec 8) (va : Word) (level : BitVec 4) (bad : Option Nat)
  deriving DecidableEq, Repr

/-- What a step of a command answers: its result, or the state as the step leaves it and how the batch stops. -/
abbrev StepRes (α : Type) : Type := Except (State × Batch) α

/-- A memory fault as a failure of the command. -/
def MemFault.failure (m : MemFault) : Batch := .fail m.cause m.va m.level m.bad

/-- Entry i of an input list: an access of the core under R153, whose own destination is a window like any other
(R289). -/
def readEntry (s : State) (base : BitVec 22) (i : Nat) : StepRes (Word × State) :=
  let off := base.toNat + 8 * i
  match s.core.port.window off 8 false with
  | .stall => .error (s, .wait)
  | .failed ch => .error (s, .fail 0x63 (zext (fld (s.xfault (0#1 ++ ch)) 0 56 : BitVec 56)) 0xF none)
  | .ok => match s.scrFault s.core.id off 8 .xread with
    | some m => .error (s, m.failure)
    | none => .ok (wordOfBytes (s.scr s.core.id off 8), s.correct (scratchBase s.core.id.toNat + off) 8)

/-- The head of a list: its place, identifier and value. -/
structure Head where
  pos : Nat
  id : BitVec 32
  val : Nat
  deriving DecidableEq, Repr

/-- The next non-empty entry from a position on, which must be above the last (R292): fuel counts the entries left. -/
def nextHead (get : Nat → State → StepRes (Word × State)) (last : Option (BitVec 32)) :
    Nat → Nat → State → StepRes (Option Head × State)
  | 0, _, s => .ok (none, s)
  | n + 1, i, s => match get i s with
    | .error e => .error e
    | .ok (w, s1) =>
      if entryId w == emptyId then nextHead get last n (i + 1) s1
      else if (match last with | some l => (entryId w).ule l | none => false) then .error (s1, .fail 0x73 0 0xF none)
      else .ok (some ⟨i, entryId w, entryVal w⟩, s1)

/-- The head of A (R292). -/
def SloeCmd.headA (c : SloeCmd) (s : State) : StepRes (Option Head × State) :=
  nextHead (fun i s => readEntry s c.baseA i) c.lastA (c.lenA.toNat - c.posA) c.posA s

/-- The head of B, or of the copied pair of pl.fuse (R292, R294). -/
def SloeCmd.headB (c : SloeCmd) (s : State) : StepRes (Option Head × State) :=
  if c.kind == .fuse then
    nextHead (fun i s => .ok (match c.pair[i]? with
      | some x => (x.2 ++ x.1, s)
      | none => (emptyEntry, s))) c.lastB (c.pair.length - c.posB) c.posB s
  else nextHead (fun i s => readEntry s c.baseB i) c.lastB (c.lenB.toNat - c.posB) c.posB s

/-- comb (R292): the value and the flags for the port. -/
def comb (max : Bool) (a b : Nat) : Nat × Flags :=
  let x := wF32 a
  let y := wF32 b
  if !max then rF32 (x.add y)
  else if x.isNan || y.isNan then rF32 .nan
  else if x.eq y then (if x.sign then b else a, 0)
  else if y.lt x then (a, 0) else (b, 0)

/-- The fused score of pl.fuse (R294). -/
def fuseVal (prm2 : Word) (lex sim : Nat) : Nat × Flags :=
  let t := rF32 ((wF32 (fld prm2 32 32).toNat).mul (wF32 lex))
  let v := rF32 ((wF32 t.1).add ((wF32 (fld prm2 0 32).toNat).mul (wF32 sim)))
  (v.1, t.2 ||| v.2)

/-- The score of an entry under BM25, from its length and its frequency (R293). -/
def bm25Val (c : SloeCmd) (dl tf : Nat) : Nat × Flags :=
  let prm (w : Word) (lo : Nat) : XVal := wF32 (fld w lo 32).toNat
  let t1 := rF32 ((prm c.prm0 0).add ((prm c.prm1 32).mul (XVal.ofInt dl)))
  let t := rF32 ((wF32 tf).add (wF32 t1.1))
  let n := rF32 ((wF32 tf).mul (prm c.prm0 32))
  let q := rF32 ((wF32 n.1).div (wF32 t.1))
  let v := rF32 ((wF32 q.1).mul (prm c.gb 0))
  (v.1, t1.2 ||| t.2 ||| n.2 ||| q.2 ||| v.2)

/-- Writes the next entry; CNT follows (R290). -/
def State.emit (s : State) (c : SloeCmd) (w : Word) (f : Flags) : StepRes (State × SloeCmd) :=
  match s.putEntries c c.out [w] with
  | .error m => .error (s, m.failure)
  | .ok s1 => .ok ((s1.portFlags c.port f).setCnt c.port (c.out + 1),
      { c with out := c.out + 1, entries := c.entries ++ [w] })

/-- The result of a merge step at the heads of both lists: what it emits, and what it takes from each (R292, R294). -/
def SloeCmd.merge (c : SloeCmd) (a b : Option Head) : Option (BitVec 32 × Nat × Flags) × Bool × Bool :=
  let takeA := match a, b with
    | some x, some y => x.id.ule y.id
    | some _, none => true
    | none, _ => false
  let takeB := match a, b with
    | some x, some y => y.id.ule x.id
    | none, some _ => true
    | _, none => false
  let res := match a, b with
    | some x, some y =>
      if x.id == y.id then
        (if c.kind == .fuse then some (x.id, fuseVal c.prm2 x.val y.val) else some (x.id, comb (c.op.getLsbD 0) x.val y.val))
      else if c.kind == .isect then none
      else if x.id.ult y.id then some (x.id, if c.kind == .fuse then fuseVal c.prm2 x.val 0 else (x.val, 0))
      else some (y.id, if c.kind == .fuse then fuseVal c.prm2 0 y.val else (y.val, 0))
    | some x, none =>
      if c.kind == .isect then none else some (x.id, if c.kind == .fuse then fuseVal c.prm2 x.val 0 else (x.val, 0))
    | none, some y =>
      if c.kind == .isect then none else some (y.id, if c.kind == .fuse then fuseVal c.prm2 0 y.val else (y.val, 0))
    | none, none => none
  (res, takeA, takeB)

/-- Takes the heads that a step has used. -/
def SloeCmd.take (c : SloeCmd) (a b : Option Head) (takeA takeB : Bool) : SloeCmd :=
  let c1 := match a with
    | some x => if takeA then { c with posA := x.pos + 1, lastA := some x.id } else { c with posA := x.pos }
    | none => c
  match b with
  | some y => if takeB then { c1 with posB := y.pos + 1, lastB := some y.id } else { c1 with posB := y.pos }
  | none => c1

/-- One step of pl.isect, pl.unite or pl.fuse: the lists are walked, and each entry that is read is checked, until CNT = E
(R290, R292, R294). -/
def mergeStep (s : State) (c : SloeCmd) : StepRes (State × SloeCmd) :=
  if c.ended then s.emit c emptyEntry 0
  else match c.headA s with
    | .error e => .error e
    | .ok (a, s1) => match c.headB s1 with
      | .error e => .error e
      | .ok (b, s2) =>
        if a.isNone && b.isNone then .ok (s2, { c with ended := true })
        else
          let r := c.merge a b
          let c1 := c.take a b r.2.1 r.2.2
          match r.1 with
          | some (id, v, f) => s2.emit c1 (entryWord id v) f
          | none => .ok (s2, c1)

/-- One entry of pl.bm25 (R293). -/
def bm25Step (s : State) (earlier : List Cmd) (c : SloeCmd) : StepRes (State × SloeCmd) :=
  match readEntry s c.baseA c.out with
  | .error e => .error e
  | .ok (w, s1) =>
    if entryId w == emptyId then s1.emit c emptyEntry 0
    else if (fld c.doc1 0 32 : BitVec 32).ule (entryId w) then .error (s1, .fail 0x73 0 0xF none)
    else match load s1 earlier c.pl .xread c.out (c.doc0 + BitVec.ofNat 64 (2 * (entryId w).toNat)) 2 with
      | .error (.wait _) => .error (s1, .wait)
      | .error (.fault m) => .error (s1.repairMiss m.walked, m.failure)
      | .ok (dl, s2) =>
        let v := bm25Val c dl.toNat (entryVal w)
        s2.emit c (entryWord (entryId w) v.1) v.2

/-- Of entries with equal values the lower identifier ranks first; two of one identifier rank by the encodings of their
values, since the order of A plays no part: that it is this order is the model's choice (R295; log 113). -/
def tieBefore (x y : Word) : Bool :=
  if entryId x == entryId y then decide (entryVal x < entryVal y) else (entryId x).ult (entryId y)

/-- x ranks before y (R295). -/
def ranksBefore (x y : Word) : Bool :=
  let a := wF32 (entryVal x)
  let b := wF32 (entryVal y)
  if a.isNan && b.isNan then tieBefore x y
  else if a.isNan then false
  else if b.isNan then true
  else if a.eq b then tieBefore x y
  else b.lt a

/-- Insertion in rank order. -/
def insertRank (w : Word) : List Word → List Word
  | [] => [w]
  | x :: r => if ranksBefore w x then w :: x :: r else x :: insertRank w r

/-- One step of pl.topk: reads an entry; after the last it writes the ranking, entry by entry (R290, R295). That a NaN value,
which is ranked and copied but enters no arithmetic, sets no INV is the model's choice (R77; log 108). -/
def topkStep (s : State) (c : SloeCmd) : StepRes (State × SloeCmd) :=
  if c.posA < c.lenA.toNat then
    match readEntry s c.baseA c.posA with
    | .error e => .error e
    | .ok (w, s1) => .ok (s1, { c with
        posA := c.posA + 1
        pool := if entryId w == emptyId then c.pool else (insertRank w c.pool).take c.exp.toNat })
  else s.emit c (c.pool[c.out]?.getD emptyEntry) 0

/-- One step of a command that works by entries. -/
def sloeStep (s : State) (earlier : List Cmd) (c : SloeCmd) : StepRes (State × SloeCmd) :=
  match c.kind with
  | .bm25 => bm25Step s earlier c
  | .topk => topkStep s c
  | _ => mergeStep s c

/-- The command has written its E entries: CNT = E (R290). -/
def SloeCmd.finished (c : SloeCmd) : Bool := decide (c.exp.toNat ≤ c.out)

/-- Steps of a batch, up to 64, or until the command has finished, waits or fails. -/
def runBatch (earlier : List Cmd) : Nat → State → SloeCmd → State × SloeCmd × Option Batch
  | 0, s, c => (s, c, none)
  | n + 1, s, c =>
    if c.finished then (s, c, none)
    else match sloeStep s earlier c with
      | .error (s1, e) => (s1, c, some e)
      | .ok (s1, c1) => runBatch earlier n s1 c1

/-- SLOE_BATCH_COMPLETE: the active command of a port works off a batch of 64 entries (R288, R290), or stops (R298). -/
def execSloeBatchComplete (s : State) : Out :=
  let s := s.focus s.ev.c
  match splitCmd s.ev.p s.core.cmds with
  | some (b, .sloe c, _) =>
    if c.kind == .dec || !c.active then notDue "SLOE_BATCH_COMPLETE"
    else if c.stop then .next (s.stopSloe c)
    else match runBatch b 64 s c with
      | (s1, c1, some (.fail cause va level bad)) =>
        .next ((s1.quarantineFault bad).failSloe c1 c1.out cause va level 0 0)
      | (s1, c1, some .wait) => if c1 = c then notDue "SLOE_BATCH_COMPLETE" else .next (s1.putCmd c.port (.sloe c1))
      | (s1, c1, none) =>
        .next (if c1.finished then s1.finishSloe c1 c1.entries else s1.putCmd c.port (.sloe c1))
  | _ => notDue "SLOE_BATCH_COMPLETE"

end Sys2Proof.Machine
end

