-- ==== Sys2Proof/Machine/Task.lean ====
section
/-! DEFINITION. Task forms: major 0x3A; positions, the placement of a record, and the end of a task (R364–R379). -/

namespace Sys2Proof.Machine

/-! ## Positions (R22, R365) -/

/-- The lowest cores of the positions of gangs of a size, lowest cluster and core first. -/
def gangBases (g : Nat) : List Nat := (List.range (256 / g)).map (fun i => g * i)

/-- A core can take a member: of the partition, and with no resident gang, which keeps a member that has exited until its
gang ends (R365; log 35). -/
def State.coreFree (s : State) (ctx : BitVec 8) (id : Nat) : Bool :=
  let r := BitVec.ofNat 8 id
  s.inPart r ctx && match s.coreAt (numbered r) with
    | some c => c.gang.isNone
    | none => false

/-- The free position of a gang that the dispatcher takes; need is the items of a session that the Quince must take
(R365). -/
def State.findPosition (s : State) (ctx : BitVec 8) (g : Nat) (need : Option Nat) : Option Nat :=
  (gangBases g).find? (fun b => (List.range g).all (fun i => s.coreFree ctx (b + i))
    && match need with
      | none => true
      | some n => (s.clAt (BitVec.ofNat 4 (b / 16))).quinceRoom n)

/-- Some position of the partition can hold a gang of the size (R375). -/
def State.canHold (s : State) (ctx : BitVec 8) (g : Nat) : Bool :=
  (gangBases g).any (fun b => (List.range g).all (fun i => s.inPart (BitVec.ofNat 8 (b + i)) ctx))

/-! ## Placement (R373) -/

/-- A core that begins a task as a member of a rank: free values from number k on stand where R373 says undefined
(log 12); the level is user, and what R373 does not name is as after reset, but for what belongs to the core or to its
supervisor: TVEC, SSCR, the machine-level registers, and the events posted to it (log 36). -/
def Core.placed (c : Core) (k : Nat) (ctx : BitVec 8) (q : BitVec 4) (gid rank g : Nat) (r : Record) : Core :=
  let z := Core.reset c.id false .running
  { z with
    pc := r.code
    g := ((((z.g.set 2 r.frame).set 3 (BitVec.ofNat 64 rank)).set 4 (BitVec.ofNat 64 g)).set 5 r.join)
    sys := { c.sys with status := 0, cause := 0, epc := 0, tval := 0, xlinfo := 0 }
    vec := { z.vec with
      v := Vector.ofFn (fun i : Fin 32 => (⟨Config.freeElems (k + i.val), freeScales (k + 2 * i.val),
        freeX8 (k + 2 * i.val + 1), .f32, 0, 0⟩ : VReg))
      k := Vector.ofFn (fun i : Fin 8 => if i.val = 0 then BitVec.allOnes 8192 else Config.freeMask (k + i.val))
      alc := c.vec.alc }
    mat := { z.mat with m := Vector.ofFn (fun i : Fin 8 => ⟨Config.freeGrid (k + i.val), freePerms (k + i.val)⟩) }
    tile := { z.tile with
      acc := Vector.ofFn (fun i : Fin 2 => freeAccs (k + i.val))
      tda := Vector.ofFn (fun i : Fin 16 => (freeDesc (k + 2 * i.val)).1)
      tdb := Vector.ofFn (fun i : Fin 16 => (freeDesc (k + 2 * i.val)).2) }
    detid := zext (r.lcb + BitVec.ofNat 16 rank)
    tlb := c.tlb
    ibuf := c.ibuf
    gang := some gid
    rank := rank
    lastTask := some (ctx, q)
    mgmtReq := c.mgmtReq }

/-- Barriers of a gang that starts (R373). -/
def GangShare.start (g : Nat) : GangShare :=
  { GangShare.reset with gb := Vector.replicate 16 (BitVec.ofNat 64 (g * 65536)) }

/-- The members of a position. -/
def positionCores (base g : Nat) : List (BitVec 8) := (List.range g).map (fun i => BitVec.ofNat 8 (base + i))

/-- The scratchpad of a core that begins a task holds nothing of an earlier one: it reads as memory that nothing has
written (R373; logs 1, 36). -/
def State.clearScratch (s : State) (core : BitVec 8) : State :=
  let lo := scratchBase core.toNat
  { s with mem := Memory.clear s.mem lo (lo + 0x200000) }

/-- A record is placed: all members start together (R373), and a gated cluster is woken (R365, R434). -/
def State.placeGang (s : State) (ctx : BitVec 8) (q : BitVec 4) (r : Record) (base : Nat) : State :=
  let cl := BitVec.ofNat 4 (base / 16)
  let gang : Gang := { id := s.nextGang, ctx := ctx, cluster := cl, cores := positionCores base r.size, queue := q
                       join := r.join, exited := [], due := none, share := GangShare.start r.size }
  let s1 := { s with gangs := s.gangs ++ [gang], nextGang := s.nextGang + 1, fresh := s.fresh + 64 * r.size }
  ((List.range r.size).foldl (fun t i =>
    let id := BitVec.ofNat 8 (base + i)
    (t.clearScratch id).mapCore (numbered id)
      (fun c => c.placed (s.fresh + 64 * i) ctx q s.nextGang i r.size r)) s1).wakeCluster cl

/-! ## The end of a task (R376, R377, R382, R399) -/

/-- A core falls free: what it had queued is dropped, and its armed channels are disarmed (R377). -/
def Core.freed (c : Core) : Core :=
  { c.pauseRuns with
    run := .idle, gang := none, rank := 0, cmds := [], solo := GangShare.reset, detDone := []
    vec := { c.vec with xuq := [] }
    tile := { c.tile with queue := [], running := false }
    port := { c.port with xstat := c.port.xstat.map (fun x => if xArm x then 0 else x), arrived := Vector.replicate 8 [] } }

/-- A gang ends: its session is freed, its cores fall free, and its task signals its JOIN (R376, R377). -/
def State.endGang (s : State) (g : Gang) (aborted : Bool) : State :=
  let s1 := { s with gangs := s.gangs.filter (fun x => x.id != g.id) }
  let s2 := s1.onCl g.cluster (fun c => { c with quince := c.quince.filter (fun q => q.owner != .gang g.id) })
  ((s2.mapCores (fun c => c.gang == some g.id) Core.freed).unholdCores g.cores).signalJoin g.ctx aborted g.join g.queue

/-! ## Settling (R377) -/

/-- Armed channels of the core, which task.exit disarms: receiving or armed DONE (R156, R377; log 37). -/
def State.armedPorts (s : State) : List (BitVec 4) :=
  ((List.range 8).map (fun i => BitVec.ofNat 4 i)).filter (fun p =>
    xArm (s.xstat p) && (xState (s.xstat p) == stRecv || xState (s.xstat p) == stDone))

/-- The lowest port in ERROR or OVERFILL that meets a condition. -/
def State.failedPort (s : State) (f : BitVec 4 → Bool) : Option (BitVec 4) :=
  ((List.range 16).map (fun i => BitVec.ofNat 4 i)).find? (fun p => s.portBad p && f p)

/-- task.exit disarms the channels and waits for every command; a failed port traps it (R377). -/
def State.settle (s : State) (k : State → Res) : Res :=
  let s1 := s.armedPorts.foldl (fun t p => t.resetPort p) s
  match s1.failedPort (fun p => s1.core.busyPort p) with
  | some p => .trap s1 (s1.portTrap p)
  | none =>
    if s1.core.streams ≠ 0 then .wait s1 .xsWait
    else if s1.core.hasSloe then .wait s1 .plWait
    else if !s1.core.tile.queue.isEmpty then .wait s1 .dauStall
    else match s1.failedPort (fun _ => true) with
      | some p => .trap s1 (s1.portTrap p)
      | none => k s1

/-- The member has settled: it exits, and the last one ends the task (R376). -/
def State.exitMember (s : State) (g : Gang) : State :=
  let s1 := (s.onGang g.id (fun x => { x with exited := x.exited ++ [s.core.rank] })).onCore (fun c =>
    { c.pauseRuns with run := .exited })
  if g.cores.length ≤ g.exited.length + 1 then s1.endGang g false else s1

/-! ## The forms (R374–R379) -/

/-- Reads the records of a spawn, k of n still to come (R375). -/
def readRecords (va : Word) (n : Nat) : Nat → State → Except (Nat × Stop) (List Record × State)
  | 0, s => .ok ([], s)
  | k + 1, s =>
    let i := n - (k + 1)
    match s.ldWords .lread i (va + BitVec.ofNat 64 (32 * i)) 4 with
    | .error e => .error (i, e)
    | .ok (l, s1) => match readRecords va n k s1 with
      | .error e => .error e
      | .ok (r, s2) => .ok (⟨l.getD 0 0, l.getD 1 0, l.getD 2 0, l.getD 3 0⟩ :: r, s2)

/-- The records of a spawn bound for a queue. -/
def boundFor (l : List Record) (q : BitVec 4) : Nat := (l.filter (fun r => r.queue == q)).length

/-- The checks of a spawn's records, ascending (R375). -/
def State.spawnTrap (s : State) (ctx : BitVec 8) (l : List Record) : Option Trap :=
  l.zipIdx.findSome? (fun x =>
    let y := s.queueRaw ctx x.1.queue
    firstTrap [
      (x.1.bad || x.1.host, { cause := 0x88, tval := BitVec.ofNat 64 x.2 }),
      (y.state != .mapped || decide (y.cap.toNat < boundFor l x.1.queue), plainTrap 0x89),
      (!s.canHold ctx x.1.size, plainTrap 0x8A)])

/-- Every target queue has room for its records (R375). -/
def State.spawnRoom (s : State) (ctx : BitVec 8) (l : List Record) : Bool :=
  l.all (fun r =>
    let y := s.queueRaw ctx r.queue
    decide (boundFor l r.queue + y.count ≤ y.cap.toNat))

/-- A record is pushed at TAIL of its queue (R375). -/
def State.pushRecord (s : State) (ctx : BitVec 8) (r : Record) : State :=
  let y := s.queueRaw ctx r.queue
  (s.unitWrite ctx (y.slot y.tail) r.bytes).setQueueRaw ctx r.queue { y with tail := y.tail + 1 }

/-- The records that the core keeps of a task.spawn. -/
def State.setSpawned (s : State) (l : List Record) : State :=
  s.onCore (fun c => { c with spawned := l.flatMap Record.words, spawnLost := false })

/-- A task.spawn whose records have been copied and checked: the wait for room, which ends with 0x89 once a target queue has
left MAPPED, and the push as one step (R375). -/
def State.spawnPush (s : State) (ctx : BitVec 8) (l : List Record) : Res :=
  Res.check s (firstTrap [(s.core.spawnLost, plainTrap 0x89)]) (s.release 4 (
    if s.spawnRoom ctx l then .done ((l.foldl (fun t r => t.pushRecord ctx r) s).setSpawned []) else .wait s .spawn))

/-- task.spawn (R375): one that waits keeps its copy; a pre-emption or an interrupt drops it. -/
def execTaskSpawn (a b : BitVec 5) (s : State) : Out :=
  let n := (s.g b).toNat
  let va := s.g a
  let ctx := s.ctxIx
  (Res.check s (firstTrap [
    (n == 0 || decide (64 < n), plainTrap 0x89),
    (fld va 0 5 != 0, (⟨0x2A, va, 3, 0xF, none, none⟩ : MemFault).trap 0)])
    (if !s.core.spawned.isEmpty then s.spawnPush ctx (recordsOf s.core.spawned)
    else match readRecords va n n s with
      | .error (i, e) => e.res s i
      | .ok (l, s1) =>
        let s2 := s1.setSpawned l
        Res.check s2 (s2.spawnTrap ctx l) (s2.spawnPush ctx l))).finish

/-- task.exit (R376, R377). -/
def execTaskExit (s : State) : Out :=
  match s.myGang with
  | none => (Res.trap s (plainTrap 0x8D)).finish
  | some g =>
    match s.settle (fun t => t.release 4 (.done t)) with
    | .done t => .next (t.exitMember g)
    | r => r.finish

/-- The queue that dispatched the executing task. -/
def State.myQueue (s : State) : BitVec 4 := match s.myGang with
  | some g => g.queue
  | none => 0

/-- task.join (R378). -/
def execTaskJoin (d a : BitVec 5) (s : State) : Out :=
  let va := s.g a
  (Res.check s (firstTrap [(fld va 0 6 != 0, (⟨0x2A, va, 5, 0xF, none, none⟩ : MemFault).trap 0)])
    (s.release 4 (match reach s s.core.cmds s.pl .atomic va 8 with
      | .error e => e.res s 0
      | .ok x =>
        let c := wordOfBytes (s.readAt x .atomic 0 va 8)
        if c.toInt ≤ 0 then .trap s (plainTrap 0x8B)
        else .done ((((s.correct x.pa 8).fill x).signal s.ctxIx false va s.myQueue).setG d c)))).finish

/-- task.notify (R379). -/
def execTaskNotify (a b : BitVec 5) (s : State) : Out :=
  let v := s.g a
  let n := (s.g b).toNat
  let q : BitVec 4 := fld v 0 4
  (Res.check s (firstTrap [
    (fld v 4 60 != 0 || n == 0 || decide ((s.queue s.ctxIx q).notifyCap < n), plainTrap 0x89)])
    (s.release 4 (.done (s.notify s.ctxIx q n)))).finish

end Sys2Proof.Machine
end

