-- ==== Sys2Proof/Machine/Vp.lean ====
section
/-! DEFINITION. VP blocks: major 0x3B (R387–R391). The words of a block issue in the steps that follow vp.run, the group
with the least PC first. -/

namespace Sys2Proof.Machine

/-- VPSTAT.ACT. -/
def vpAct (x : Word) : Bool := x.getLsbD 63

/-- The VPs that vp.run starts, ascending (R388). -/
def State.startVps (s : State) (t : Word) (k : BitVec 3) : List (BitVec 13 × Word) :=
  ((List.range s.core.vec.n).filter (fun e => (s.kreg k).getLsbD e)).map (fun e => (BitVec.ofNat 13 e, t))

/-- The group of the live VPs at a PC (R388). -/
def groupAt (p : Word) (l : List (BitVec 13 × Word)) : BitVec 8192 :=
  l.foldl (fun m x => if x.2 = p then putBit m x.1.toNat true else m) 0

/-- The group that executes next: the live VPs at the least PC. -/
def VpState.choose (v : VpState) : VpState :=
  match leastPc v.pcs with
  | none => v
  | some p => { v with grp := groupAt p v.pcs }

/-- vp.run: starts a block, or goes on with the suspended one (R388, R391). -/
def execVpRun (a : BitVec 5) (k : BitVec 3) (s : State) : Out :=
  let t := s.g a
  if s.core.vp.live then (Res.trap s (wordTrap (.vpRun a k) 0x0E)).finish
  else if vpAct s.core.vp.vpstat then .next (s.onVp (fun v => { v with live := true }))
  else if fld t 0 2 != 0 then (Res.trap s (wordTrap (.vpRun a k) 0x0B)).finish
  else
    let l := s.startVps t k
    if l.isEmpty then (Res.done s).finish
    else .next (s.onVp (fun _ => { vpstat := vpstatWord true l.length, pcs := l, live := true, grp := 0 }))

/-- vp.br: branching VPs of the group move to g[a], the others of it to the next word (R388; log 38). -/
def execVpBr (a : BitVec 5) (k : BitVec 3) (s : State) : Out :=
  let t := s.g a
  if !s.core.vp.live then (Res.trap s (plainTrap 0x8C)).finish
  else if fld t 0 2 != 0 then (Res.trap s (wordTrap (.vpBr a k) 0x0B)).finish
  else
    let m := s.kreg k
    .next ((s.onVp (fun v => { v with pcs := v.pcs.map (fun x =>
      if v.grp.getLsbD x.1.toNat then (x.1, if m.getLsbD x.1.toNat then t else x.2 + 4) else x) })).onCore
        (fun c => { c with wait := none }))

/-- vp.join: the group moves to the next word (R388). -/
def execVpJoin (s : State) : Out :=
  (if !s.core.vp.live then Res.trap s (plainTrap 0x8C) else .done s).finish

/-- The block has ended: the control thread continues after vp.run (R388). -/
def State.endBlock (s : State) : State := (s.onVp (fun _ => ⟨0, [], false, 0⟩)).nextWord

/-- vp.stop: stopping VPs of the group are no longer live, the others move to the next word (R388; log 38). -/
def execVpStop (k : BitVec 3) (s : State) : Out :=
  if !s.core.vp.live then (Res.trap s (plainTrap 0x8C)).finish
  else
    let m := s.kreg k
    let v := s.core.vp
    let l := (v.pcs.filter (fun x => !(v.grp.getLsbD x.1.toNat && m.getLsbD x.1.toNat))).map (fun x =>
      if v.grp.getLsbD x.1.toNat then (x.1, x.2 + 4) else x)
    let s1 := s.onCore (fun c => { c with wait := none })
    if l.isEmpty then .next s1.endBlock
    else .next (s1.onVp (fun v => { v with vpstat := vpstatWord true l.length, pcs := l }))

/-- vp.id (R390). -/
def execVpId (d : BitVec 5) (k : BitVec 3) (s : State) : Out :=
  let t := s.vop d
  (Res.check s (firstTrap [(!(t.tag == .i32 || t.tag == .n32), plainTrap 0x42), (s.overCap [t], plainTrap 0x44)])
    (.done (s.elementwise d k false (fun e => (e, 0))))).finish

/-- vp.any (R390). -/
def execVpAny (d : BitVec 5) (k : BitVec 3) (s : State) : Out :=
  (Res.done (s.clearPix.setG d (if (s.actives k 0).isEmpty then 0 else 1))).finish

end Sys2Proof.Machine
end

