-- ==== Sys2Proof/Machine/System.lean ====
section
/-! DEFINITION. State registers by number, and the system forms: majors 0x3C and 0x3D (R410–R418). -/

namespace Sys2Proof.Machine

/-! ## The registers by number (R410) -/

/-- The registers that the firmware core has; the others read zero there and ignore writes (R15, R395; log 39). -/
def fwHas (n : BitVec 7) : Bool :=
  match n.toNat with
  | 0x40 | 0x46 | 0x4C | 0x60 | 0x61 | 0x62 | 0x63 | 0x64 => true
  | _ => false

/-- EQUOTA, THCAUSE and the other registers of the context, of a numbered core. -/
def State.ctxReg (s : State) : Context := s.ctxAt s.ctxIx

/-- The value of (N, I) in a core of a context, with what its gang shares. -/
def sregOf (c : Core) (x : Context) (gb : Vector Word 16) (qstat ecc : Word) (n : BitVec 7) (i : BitVec 5) : Word :=
  let p : BitVec 4 := i.setWidth 4
  let q : BitVec 3 := i.setWidth 3
  match n.toNat with
  | 0x00 => c.vec.vl
  | 0x01 => c.vec.vprof
  | 0x02 => c.vec.alc
  | 0x03 => c.vec.mfc
  | 0x04 => c.vec.vstat
  | 0x05 => c.vec.pix
  | 0x06 => c.vec.lrot
  | 0x07 => c.vec.vqrd
  | 0x08 => c.blk.blk
  | 0x09 => c.blk.blkcnt
  | 0x0A => c.tile.tshape
  | 0x0B => c.tile.tprog
  | 0x0C => c.mat.mshape
  | 0x0D => c.mat.mmctl
  | 0x0E => c.mat.mmflg
  | 0x0F => c.rsvstat
  | 0x10 => (c.sloe.plprm.toList).getD i.toNat 0
  | 0x11 => (c.sloe.pldoc.toList).getD i.toNat 0
  | 0x12 => c.plstat
  | 0x13 => c.vp.vpstat
  | 0x14 => x.equota
  | 0x15 => x.eqcfg
  | 0x16 => x.thcause
  | 0x18 => qstat
  | 0x19 => x.detcfg
  | 0x1A => x.dlog
  | 0x1B => c.detid
  | 0x1C => c.dstat
  | 0x20 => rget c.port.xstat p
  | 0x21 => rget c.port.xcsum p
  | 0x22 => rget c.port.xfault p
  | 0x23 => rget c.port.chwin q
  | 0x24 => rget c.port.cbcfg q
  | 0x25 => rget c.port.cbstat q
  | 0x26 => rget gb p
  | 0x27 => rget c.tile.tda p
  | 0x28 => rget c.tile.tdb p
  | 0x40 => c.sys.status
  | 0x41 => c.sys.cause
  | 0x42 => c.sys.epc
  | 0x43 => c.sys.tval
  | 0x44 => c.sys.tvec
  | 0x45 => c.sys.sscr
  | 0x46 => c.sys.xlinfo
  | 0x47 => x.atroot
  | 0x48 => c.sys.evt
  | 0x49 => c.sys.evten
  | 0x4A => x.savea
  | 0x4B => c.sys.dsig
  | 0x4C => ecc
  | 0x60 => c.sys.mcause
  | 0x61 => c.sys.mepc
  | 0x62 => c.sys.mtval
  | 0x63 => c.sys.mtvec
  | 0x64 => c.sys.mscr
  | _ => 0

/-- The value of (N, I) on the core in focus (R413). -/
def State.sreg (s : State) (n : BitVec 7) (i : BitVec 5) : Word :=
  if s.core.fw && !fwHas n then 0
  else sregOf s.core s.ctxReg s.share.gb (s.qstat s.ctxIx) s.dev.ecccnt n i

/-- The bits of (N, I) that a write at a permitted level sets: the RW fields, and the RO fields that the register's rule
lets a supervisor restore (R411; log 40). -/
def sregMask (n : BitVec 7) (i : BitVec 5) : Word :=
  match n.toNat with
  | 0x00 => 0x7FFFF
  | 0x01 => 0x1F
  | 0x03 => 0xFFFFFFFFFFFF8001
  | 0x05 => 0x8FE003FF
  | 0x06 => 0xF
  | 0x08 => 0x3FFFF
  | 0x0A => 0xFFFF8FFFFFFFFFFF
  | 0x0B => 0xFFF800000000FFFF
  | 0x0D => 0x1FFFFFFFF
  | 0x0F => 0x8FFFFFFFFFFFFFFF
  | 0x11 => if i = 0 then BitVec.allOnes 64 else 0xFFFFFFFF
  | 0x12 => 0xFBFFC000FFFFFFFF
  | 0x13 => 0x8000000000003FFF
  | 0x14 => 0xFFFFFFFF
  | 0x15 => 0xFFFFFFFF00FFFFFF
  | 0x19 => 0xFFFFFFFF
  | 0x1A => 0x00FFFFFFFFFFFFF0
  | 0x1B => 0xFFFF
  | 0x1C => 0xFFFFFFFFE000FFFF
  | 0x20 => 0xFFF8FFFFFFFFFFFF
  | 0x23 => 0xFFFFFFFFFFF
  | 0x26 => 0xFFFFFFFF001F001F
  | 0x27 => 0x1FFFFFFFFFFFFF
  | 0x28 => 0xFFFFFFFF0000FFFF
  | 0x40 => 0x7C
  | 0x41 | 0x60 => 0xFF
  | 0x44 | 0x63 => 0xFFFFFFFFFFFFFFFC
  | 0x47 => 0xFFFFFFFFFFFFF001
  | 0x49 => 0x1F
  | 0x4A => 0x00FFFFFFFFFFF1FF
  | 0x4B => 0xFFFFFFFF
  | 0x07 | 0x09 | 0x0C | 0x10 | 0x17 | 0x21 | 0x22 | 0x42 | 0x43 | 0x45 | 0x4C | 0x61 | 0x62 | 0x64 =>
    BitVec.allOnes 64
  | _ => 0

/-- The W1C bits of N (R6). -/
def sregW1c (n : BitVec 7) : Word :=
  match n.toNat with
  | 0x04 => 0x1F
  | 0x0E => BitVec.allOnes 64
  | 0x14 => 0x8000000000000000
  | 0x16 => 0x1F0000
  | 0x48 => 0x1F
  | _ => 0

/-! ## Values that a rule takes otherwise (R413) -/

/-- VL (R180). -/
def fixVl (vprof v : Word) : Word :=
  let w : BitVec 3 := if (fld v 16 3 : BitVec 3).toNat ≤ 4 then fld v 16 3 else 3
  vlWord w (min (fld v 0 16).toNat (mvl32Of vprof * 32 / widthOfCode w))

/-- One byte of MSHAPE (R247). -/
def fixShape (b : Byte) : Byte :=
  let c (x : BitVec 3) : BitVec 3 := if x = 0 || x = 7 then 1 else x
  (if fld b 6 2 = 3#2 then 0#2 else fld b 6 2) ++ c (fld b 3 3) ++ c (fld b 0 3)

/-- MSHAPE (R247). -/
def fixMshape (v : Word) : Word := (List.range 8).foldl (fun x i => setF x i (fixShape (getF 8 v i))) v

/-- The value that a write of N takes (R133, R180, R247, R266, R405). -/
def sregFix (vprof : Word) (n : BitVec 7) (v : Word) : Word :=
  match n.toNat with
  | 0x00 => fixVl vprof v
  | 0x08 => if 32 < (fld v 12 6 : BitVec 6).toNat then putFld v 12 (0#6) else v
  | 0x0A => if 5 ≤ (fld v 57 3 : BitVec 3).toNat then putFld v 57 (0#3) else v
  | 0x0C => fixMshape v
  | 0x4A => if 256 < (fld v 0 9 : BitVec 9).toNat then putFld v 0 (256#9) else v
  | _ => v

/-- The value is refused with cause 0x48 (R178, R190). -/
def sregRefused (n : BitVec 7) (v : Word) : Bool :=
  match n.toNat with
  | 0x01 => !vprofOk v
  | 0x03 => !mfcOk v
  | _ => false

/-! ## Storing a value -/

/-- What an armed channel knows to have arrived, as CNT is written: the indices that CNT counts, and those above it that
have landed out of order (R155, R162). -/
def arrivedFrom (v : Word) (l : List Nat) : List Nat :=
  if xArm v then List.range (xCnt v) ++ l.filter (fun e => decide (xCnt v < e)) else []

/-- XSTAT is written (R158); a STATE of 6 or 7, which the table says never occurs, is kept as written, by the model's choice
(log 101). The XLINFO of the failure that the port holds goes where the write changes its state, its
direction or FELEM (log 72). -/
def PortState.putXstat (q : PortState) (p : BitVec 4) (v : Word) : PortState :=
  let old := rget q.xstat p
  { q with
    xstat := rset q.xstat p v
    xinfo := if fld old 60 4 == (fld v 60 4 : BitVec 4) && fld old 0 16 == (fld v 0 16 : BitVec 16) then q.xinfo
      else rset q.xinfo p 0
    arrived := if p.ule 7 then rset q.arrived (p.setWidth 3) (arrivedFrom v (rget q.arrived (p.setWidth 3 : BitVec 3)))
      else q.arrived }

/-- XFAULT is written (R158); the XLINFO of the failure goes where the write changes it (log 72). -/
def PortState.putXfault (q : PortState) (p : BitVec 4) (v : Word) : PortState :=
  { q with
    xfault := rset q.xfault p v
    xinfo := if rget q.xfault p == v then q.xinfo else rset q.xinfo p 0 }

/-- PLSTAT is written (R299): the place of the failure it records stays with it, and a failure that the write brings
counts as of the latest command. -/
def SloeRegs.putPlstat (r : SloeRegs) (v : Word) : SloeRegs :=
  { r with plstat := v, rseq := if r.plstat == v then r.rseq else r.seq }

/-- Puts a value into (N, I) of a core. -/
def Core.putSreg (c : Core) (n : BitVec 7) (i : BitVec 5) (v : Word) : Core :=
  let p : BitVec 4 := i.setWidth 4
  let q : BitVec 3 := i.setWidth 3
  match n.toNat with
  | 0x00 => { c with vec := { c.vec with vl := v } }
  | 0x01 => { c with vec := { c.vec with vprof := v } }
  | 0x02 => { c with vec := { c.vec with alc := v } }
  | 0x03 => { c with vec := { c.vec with mfc := v } }
  | 0x04 => { c with vec := { c.vec with vstat := v } }
  | 0x05 => { c with vec := { c.vec with pix := v } }
  | 0x06 => { c with vec := { c.vec with lrot := v } }
  | 0x07 => { c with vec := { c.vec with vqrd := v } }
  | 0x08 => { c with blk := { c.blk with blk := v } }
  | 0x09 => { c with blk := { c.blk with blkcnt := v } }
  | 0x0A => { c with tile := { c.tile with tshape := v } }
  | 0x0B => { c with tile := { c.tile with tprog := v } }
  | 0x0C => { c with mat := { c.mat with mshape := v } }
  | 0x0D => { c with mat := { c.mat with mmctl := v } }
  | 0x0E => { c with mat := { c.mat with mmflg := v } }
  | 0x0F => { c with rsvstat := v }
  | 0x10 => { c with sloe := { c.sloe with plprm := c.sloe.plprm.setIfInBounds i.toNat v } }
  | 0x11 => { c with sloe := { c.sloe with pldoc := c.sloe.pldoc.setIfInBounds i.toNat v } }
  | 0x12 => { c with sloe := c.sloe.putPlstat v }
  | 0x13 => { c with vp := { c.vp with vpstat := v } }
  | 0x1B => { c with detid := v }
  | 0x1C => { c with dstat := v }
  | 0x20 => { c with port := c.port.putXstat p v }
  | 0x21 => { c with port := { c.port with xcsum := rset c.port.xcsum p v } }
  | 0x22 => { c with port := c.port.putXfault p v }
  | 0x23 => { c with port := { c.port with chwin := rset c.port.chwin q v } }
  | 0x24 => { c with port := { c.port with cbcfg := rset c.port.cbcfg q v } }
  | 0x25 => { c with port := { c.port with cbstat := rset c.port.cbstat q v } }
  | 0x27 => { c with tile := { c.tile with tda := rset c.tile.tda p v } }
  | 0x28 => { c with tile := { c.tile with tdb := rset c.tile.tdb p v } }
  | 0x40 => { c with sys := { c.sys with status := v } }
  | 0x41 => { c with sys := { c.sys with cause := v } }
  | 0x42 => { c with sys := { c.sys with epc := v } }
  | 0x43 => { c with sys := { c.sys with tval := v } }
  | 0x44 => { c with sys := { c.sys with tvec := v } }
  | 0x45 => { c with sys := { c.sys with sscr := v } }
  | 0x46 => { c with sys := { c.sys with xlinfo := v } }
  | 0x48 => { c with sys := { c.sys with evt := v } }
  | 0x49 => { c with sys := { c.sys with evten := v } }
  | 0x4B => { c with sys := { c.sys with dsig := v } }
  | 0x60 => { c with sys := { c.sys with mcause := v } }
  | 0x61 => { c with sys := { c.sys with mepc := v } }
  | 0x62 => { c with sys := { c.sys with mtval := v } }
  | 0x63 => { c with sys := { c.sys with mtvec := v } }
  | 0x64 => { c with sys := { c.sys with mscr := v } }
  | _ => c

/-- A write of EQCFG refills REM, and the period begins (R384). -/
def Context.putEqcfg (x : Context) (v : Word) : Context :=
  { x with eqcfg := v, equota := putFld x.equota 0 (fld v 32 32 : BitVec 32), elapsed := 0 }

/-- Puts a value into a register that a context holds. -/
def Context.putSreg (x : Context) (n : BitVec 7) (v : Word) : Context :=
  match n.toNat with
  | 0x14 => { x with equota := v }
  | 0x15 => x.putEqcfg v
  | 0x16 => { x with thcause := v }
  | 0x19 => { x with detcfg := v }
  | 0x1A => { x with dlog := v }
  | 0x47 => { x with atroot := v }
  | 0x4A => { x with savea := v }
  | _ => x

/-- Puts a value into (N, I) of the core in focus. -/
def State.putSreg (s : State) (n : BitVec 7) (i : BitVec 5) (v : Word) : State :=
  match n.toNat with
  | 0x26 => s.onShare (fun h => { h with gb := rset h.gb (i.setWidth 4 : BitVec 4) v })
  | 0x4C => s.onDev (fun d => { d with ecccnt := v })
  | 0x14 | 0x15 | 0x16 | 0x19 | 0x1A | 0x47 | 0x4A => s.onCtx s.ctxIx (fun x => x.putSreg n v)
  | _ => s.onCore (fun c => c.putSreg n i v)

/-- The three forms that write a state register. -/
inductive SysOp where
  | wr | set | clr
  deriving DecidableEq, Repr

/-- The value that a form gives the fields it writes, from the present value and the operand (R413). -/
def SysOp.apply (o : SysOp) (old v mask w1c : Word) : Word :=
  match o with
  | .wr => ((old &&& ~~~mask) ||| (v &&& mask)) &&& ~~~(v &&& w1c)
  | .set => old ||| (v &&& mask)
  | .clr => old &&& ~~~(v &&& (mask ||| w1c))

/-- The operand or the value that it makes is refused (R178, R190, R413; log 43). -/
def SysOp.refused (o : SysOp) (n : BitVec 7) (old v : Word) : Bool :=
  match n.toNat with
  | 0x01 | 0x03 => v &&& ~~~sregMask n 0 != 0 || sregRefused n (o.apply old v (sregMask n 0) 0)
  | _ => false

/-- Streams, tile forms and Sloe commands of the core have all completed (R413). -/
def State.quiet (s : State) : Bool := s.core.cmds.isEmpty && s.core.tile.queue.isEmpty

/-- A form acts on QCTL, which is write-only: a set gives it the operand, a clear leaves it 0; what sys.wr would refuse,
each refuses (R370, R413). -/
def State.putQctl (s : State) (o : SysOp) (v : Word) : Res :=
  match (s.qctlScrub s.ctxIx v).qctl s.ctxIx v with
  | none => .trap (s.qctlScrub s.ctxIx v) (plainTrap 0x89)
  | some s1 => .done (match o with
    | .clr => s
    | _ => s1)

/-- A register form that writes, its level and number checked (R411, R413). -/
def State.writeSreg (s : State) (o : SysOp) (n : BitVec 7) (i : BitVec 5) (v : Word) : Res :=
  if !s.quiet then .wait s .dauStall
  else if s.core.fw && !fwHas n then .done s
  else match sregRow n with
    | some (_, _, .never) => .done s
    | _ =>
      if n = 0x17 then s.putQctl o v
      else
        let old := s.sreg n i
        if o.refused n old v then .trap s (plainTrap 0x48)
        else .done (s.putSreg n i (sregFix s.core.vec.vprof n (o.apply old v (sregMask n i) (sregW1c n))))

/-- The checks of a register form: the level of an assigned number, then the number (R410–R412). -/
def State.sregTrap (s : State) (f : Instr) (need : Need) (n : BitVec 7) (i : BitVec 5) : Option Trap :=
  if sregAssigned n i then s.levelTrap f need else some (wordTrap f 0x07)

/-! ## Major 0x3C (R412–R416) -/

/-- sys.rd (R413); a read of VSTAT or TPROG waits for the tile forms that write them (log 42). -/
def execSysRd (d i : BitVec 5) (n : BitVec 7) (s : State) : Out :=
  (Res.check s (s.sregTrap (.sysRd d i n) (.rd n i) n i)
    (if (n = 0x04 || n = 0x0B) && !s.core.tile.queue.isEmpty then .wait s .dauStall
    else
      let t := if n = 0x18 then s.scrubDescs s.ctxIx else s
      .done (t.setG d (t.sreg n i)))).finish

/-- sys.wr (R411, R413). -/
def execSysWr (i a : BitVec 5) (n : BitVec 7) (s : State) : Out :=
  (Res.check s (s.sregTrap (.sysWr i a n) (.wr n i) n i) (s.writeSreg .wr n i (s.g a))).finish

/-- sys.set (R413). -/
def execSysSet (i a : BitVec 5) (n : BitVec 7) (s : State) : Out :=
  (Res.check s (s.sregTrap (.sysSet i a n) (.wr n i) n i) (s.writeSreg .set n i (s.g a))).finish

/-- sys.clr (R413). -/
def execSysClr (i a : BitVec 5) (n : BitVec 7) (s : State) : Out :=
  (Res.check s (s.sregTrap (.sysClr i a n) (.wr n i) n i) (s.writeSreg .clr n i (s.g a))).finish

/-- sys.call: cause 0xE0 + n, EPC the next word, TVAL g[a] (R397, R414). -/
def execSysCall (a : BitVec 5) (n : BitVec 4) (s : State) : Out :=
  (Res.trap s { cause := 0xE#4 ++ n, tval := s.g a, epcNext := true }).finish

/-- sys.brk: cause 0xF0 + n, EPC the sys.brk, TVAL g[a] (R397, R414). -/
def execSysBrk (a : BitVec 5) (n : BitVec 4) (s : State) : Out :=
  (Res.trap s { cause := 0xF#4 ++ n, tval := s.g a }).finish

/-- sys.ret (R415). -/
def execSysRet (s : State) : Out :=
  let t := if s.pl == plMach then s.core.sys.mepc else s.core.sys.epc
  match s.levelTrap .sysRet .supervisor with
  | some x => (Res.trap s x).finish
  | none => if fld t 0 2 != 0 then (Res.trap s (wordTrap .sysRet 0x0B)).finish else .next (s.leaveTrap t)

/-- An enabled event is pending (R404). -/
def SysRegs.eventPending (r : SysRegs) : Bool := fld (r.evt &&& r.evten) 0 5 != 0

/-- A pre-emption of the core's gang is due (R403). -/
def State.preemptDue (s : State) : Bool := match s.myGang with
  | some g => g.due.isSome
  | none => false

/-- sys.wfi (R416). -/
def execSysWfi (s : State) : Out :=
  (if s.pl == plMach then
    (if s.core.mgmtReq then Res.done (s.onCore (fun c => { c with mgmtReq := false })) else .wait s .wfi)
  else if s.core.sys.eventPending || s.preemptDue then .done s else .wait s .wfi).finish

/-! ## Major 0x3D (R417, R418) -/

/-- sys.ifence: earlier stores of the core are performed at core scope, those of its streams among them; then what it has
fetched ahead is dropped, and later fetches read memory (R68, R326, R417). -/
def execSysIfence (s : State) : Out := (s.release 1 (.done (s.onCore (fun c => { c with ibuf := [] })))).finish

/-- The entries that a sys.tinval removes (R417). -/
def tinvalHits (ctx : BitVec 8) (asid : BitVec 12) (mode : BitVec 2) (va : Nat) (e : TlbEntry) : Bool :=
  match mode.toNat with
  | 0 => e.serves ctx asid va
  | 1 => e.part == ctx && e.asid == asid && !pteG e.leaf
  | _ => e.part == ctx

/-- sys.tinval: entries leave the core's cache and the cluster's (R417). A firmware core holds none. -/
def execSysTinval (a b : BitVec 5) (s : State) : Out :=
  let hit := tinvalHits s.ctxIx (fld s.ctxReg.atroot 52 12) (fld (s.g b) 0 2) (va56 (s.g a))
  (Res.check s (s.levelTrap (.sysTinval a b) .supervisor)
    (.done (if s.core.fw then s
      else (s.onCore (fun c => { c with tlb := c.tlb.filter (fun e => !hit e) })).onCl (clusterOf s.core.id)
        (fun c => { c with tlb := c.tlb.filter (fun e => !hit e) })))).finish

/-- sys.halt: the firmware core stops (R417). -/
def execSysHalt (s : State) : Out :=
  match s.levelTrap .sysHalt .machine with
  | some x => (Res.trap s x).finish
  | none => .next (s.next.onCore (fun c => { c with run := .halted }))

/-- log2 of a gang size. -/
def gangLog (g : Nat) : BitVec 4 := if g ≤ 1 then 0 else if g = 2 then 1 else if g = 4 then 2 else if g = 8 then 3 else 4

/-- SYSID (R418). -/
def State.sysid (s : State) : Word :=
  let g : BitVec 4 := match s.myGang with
    | some x => gangLog x.cores.length
    | none => 0
  let r : BitVec 4 := if s.myGang.isSome then BitVec.ofNat 4 s.core.rank else 0
  zext (g ++ r ++ (if s.core.fw then 0#8 else s.ctxIx) ++ 0#7 ++ BitVec.ofBool s.core.fw ++ s.core.id)

/-- sys.id (R417). -/
def execSysId (d : BitVec 5) (s : State) : Out := (Res.done (s.setG d s.sysid)).finish

/-! ## Words that trap (R61–R63, R67) -/

/-- Majors that take cause 0x0E inside a VP block (R67). -/
def vpMajorBad (w : BitVec 32) : Bool :=
  let m : Nat := (fld w 0 6 : BitVec 6).toNat
  !((decide (0x10 ≤ m) && decide (m ≤ 0x2B)) || m == 0x37 || m == 0x3B)

/-- The word may stand in a VP block (R67, R387). -/
def vpWordOk (w : BitVec 32) (i : Instr) : Bool :=
  !vpMajorBad w && match i with
    | .vpRun _ _ => false
    | _ => true

/-- The first check of R62 that a word fails on the core in focus; none where it issues. -/
def State.wordCause (s : State) (w : BitVec 32) : Option Cause :=
  match formOf (fieldsOf w) with
  | .error c => some c
  | .ok f =>
    if s.core.fw && !f.fw then some 0x0F
    else match needCause f.need s.pl with
      | some c => some c
      | none => match f.staticCause with
        | some c => some c
        | none => if s.core.vp.live && !vpWordOk w f.instr then some 0x0E else none

/-- ILLEGAL_INSTRUCTION: a word that fails a decode, privilege or context check takes the trap of the first that fails;
TVAL holds the word (R61–R63). -/
def execIllegalInstruction (w : BitVec 32) (s : State) : Out :=
  match s.wordCause w with
  | some c => (Res.trap s { cause := c, tval := zext w }).finish
  | none => notDue "ILLEGAL_INSTRUCTION"

/-! ## Events of the control thread -/

/-- WFI_WAKE: a waiting sys.wfi completes; at machine level a request of the management controller arrives, and waits
where the core does not (R416; log 44). -/
def execWfiWake (s : State) : Out :=
  let s := s.focus s.ev.c
  if s.core.fw then
    (if s.core.wait = some .wfi then (Res.done s).finish else .next (s.onCore (fun c => { c with mgmtReq := true })))
  else if s.core.wait = some .wfi && (s.core.sys.eventPending || s.preemptDue) then (Res.done s).finish
  else notDue "WFI_WAKE"

/-- Events and pre-emption are admitted: user level, or supervisor level with AIE = 1 (R403, R404). -/
def SysRegs.admits (r : SysRegs) : Bool := r.pl == plUser || (r.pl == plSup && r.aie)

/-- TVAL of an event (R404). -/
def SysRegs.eventVal (r : SysRegs) : Word := (fld r.evten 0 5 ++ 0#27 ++ fld r.evt 0 5 : BitVec 37).setWidth 64

end Sys2Proof.Machine
end

