-- ==== Sys2Proof/Machine/Tile.lean ====
section
/-! DEFINITION. Matrix tiles and the bit-serial engine: majors 0x2C to 0x2F, and the steps of the engine (R87–R94,
R264–R280). -/

namespace Sys2Proof.Machine

/-! ## The granted shape (R264–R266) -/

def tsM (x : Word) : Nat := (fld x 0 16).toNat
def tsN (x : Word) : Nat := (fld x 16 16).toNat
def tsK (x : Word) : Nat := (fld x 32 12).toNat
def tsWa (x : Word) : Nat := (fld x 47 5).toNat
def tsWb (x : Word) : Nat := (fld x 52 5).toNat
def tsArr (x : Word) : BitVec 3 := fld x 57 3
def tsRank (x : Word) : Nat := (fld x 60 4).toNat

/-- K steps: S = ceil(K/64) (R264). -/
def tsS (x : Word) : Nat := (tsK x + 63) / 64

/-- Rows and columns of an arrangement code (R264, R266). -/
def arrGrid (a : BitVec 3) : Nat × Nat :=
  match a.toNat with
  | 1 => (1, 2)
  | 2 => (2, 2)
  | 3 => (2, 4)
  | 4 => (4, 4)
  | _ => (1, 1)

/-- The arrangement code of a gang size; none for a size that is not granted (R264). -/
def arrOf (g : Nat) : Option (BitVec 3) :=
  match g with
  | 1 => some 0
  | 2 => some 1
  | 4 => some 2
  | 8 => some 3
  | 16 => some 4
  | _ => none

/-- MC and NC of a rank (R265). -/
def subBlockOf (x : Word) (rank : Nat) : Nat × Nat :=
  let g := arrGrid (tsArr x)
  if g.1 * g.2 ≤ rank then (0, 0)
  else (min (tsM x - 96 * (rank / g.2)) 96, min (tsN x - 160 * (rank % g.2)) 160)

/-- MC and NC of the core's sub-block (R265). -/
def tsSub (x : Word) : Nat × Nat := subBlockOf x (tsRank x)

/-- TSHAPE after a grant (R264, R266); the declared widths stay. -/
def grantWord (old req : Word) (rank : Nat) (arr : BitVec 3) : Word :=
  let g := arrGrid arr
  (BitVec.ofNat 4 rank ++ arr ++ fld old 52 5 ++ fld old 47 5 ++ 0#3
    ++ BitVec.ofNat 12 (min (fld req 32 16).toNat 2048)
    ++ BitVec.ofNat 16 (min (fld req 16 16).toNat (160 * g.2))
    ++ BitVec.ofNat 16 (min (fld req 0 16).toNat (96 * g.1))).setWidth 64

/-- The arrangement that a request is granted; none for a request that R264 refuses. -/
def State.grantOf (s : State) (req : Word) : Option (BitVec 3) :=
  if fld req 53 11 != 0 || s.gangSize < (fld req 48 5).toNat then none else arrOf (fld req 48 5).toNat

/-! ## Descriptors (R268) -/

/-- The words of a descriptor. -/
def TileState.desc (t : TileState) (n : BitVec 4) : Word × Word := (rget t.tda n, rget t.tdb n)

/-- The descriptor is set (R268): that words which tl.desc refuses, as a sys.wr or a restore may leave them, count as not
set is the model's choice (log 104). -/
def TileState.isSet (t : TileState) (n : BitVec 4) : Bool := !descBad (rget t.tda n) (rget t.tdb n)

/-- Scratchpad offset of the planes of run s of line l (R267). -/
def runOff (a b : Word) (l s : Nat) : Nat := tdBase a + 8 * tdRs b * l + 8 * tdW a * s

/-- Scratchpad offset of the exponent byte of run s of line l (R267). -/
def expOff (a b : Word) (l s : Nat) : Nat := tdEbase a + tdEs b * l + s

/-! ## Scratchpad bytes as the engine reaches them -/

/-- One line of a span. -/
def Span.line (x : Span) (l : Nat) : Span := ⟨x.base + x.stride * l, 0, x.len, 1, x.writes⟩

/-- The lines of spans, each an offset, a length and whether it is written. -/
def spanLines (l : List Span) : List (Nat × Nat × Bool) :=
  l.flatMap (fun x => (List.range x.count).map (fun i => (x.base + x.stride * i, x.len, x.writes)))

/-- The memory fault of uncorrectable data in a line of scratchpad; a write that covers a granule needs nothing of it
(R118, R119). -/
def State.lineFault (s : State) (core : BitVec 8) (kind : AccKind) (x : Nat × Nat × Bool) : Option MemFault :=
  let pa := scratchBase core.toNat + x.1
  if x.2.1 = 0 then none
  else if s.quarantined pa x.2.1 then
    some ⟨0xC4, BitVec.ofNat 64 pa, kind.code, 0xF, none, none⟩
  else match s.dev.badBytes.find? (fun b => decide (granuleOf pa ≤ granuleOf b)
      && decide (granuleOf b ≤ granuleOf (pa + x.2.1 - 1)) && (!x.2.2 || decide (8 * granuleOf b < pa) || decide (pa + x.2.1 < 8 * granuleOf b + 8))) with
    | some b => some ⟨0xC3, BitVec.ofNat 64 b, kind.code, 0xF, some b, none⟩
    | none => none

/-- Bytes cut where a 64 KiB frame ends: none is longer than a frame. -/
def frameParts (off n : Nat) : List (Nat × Nat) :=
  if n = 0 then []
  else if off / 65536 = (off + n - 1) / 65536 then [(off, n)]
  else [(off, 65536 - off % 65536), (off / 65536 * 65536 + 65536, n - (65536 - off % 65536))]

/-- Scratchpad bytes conflict with what an earlier command has still to perform: its window while it has not started, the
slots of a ring that it holds, its other memory (R160, R277). -/
def State.spanHold (s : State) (off n : Nat) (write : Bool) (c : Cmd) : Bool :=
  c.windowHold off n write
    || (frameParts off n).any (fun p => s.cmdConflict (scratchBase s.core.id.toNat + p.1) p.2 write c)
    || (match c with
      | .stream y => (match y.near with
        | .ring r => (write || !y.empties) && (y.slots.drop y.filled).any (fun k =>
            let cfg := rget s.core.port.cbcfg r
            meets off n ((fld cfg 32 22).toNat + (fld cfg 0 16).toNat * k) (fld cfg 0 16).toNat)
        | _ => false)
      | .sloe _ => false)

/-- What the channels say to the accesses of spans (R153). -/
def State.spanHits (s : State) (l : List Span) : List WinHit :=
  (spanLines l).map (fun x => s.core.port.window x.1 x.2.1 x.2.2)

/-- A footprint conflicts with an incomplete command, which a tile form waits for at its issue (R277). -/
def State.spansHeld (s : State) (l : List Span) : Bool :=
  (spanLines l).any (fun x => s.core.cmds.any (s.spanHold x.1 x.2.1 x.2.2))

/-- Scratchpad bytes as the engine reads or writes them: the windows of R153, and the data (R118, R119). -/
def State.touchSpans (s : State) (l : List Span) (kind : AccKind) : Except Stop Unit :=
  match (s.spanHits l).find? (fun h => match h with | .failed _ => true | _ => false) with
  | some (.failed c) => .error (.fault ⟨0x63, zext (fld (s.xfault (0#1 ++ c)) 0 56), kind.code, 0xF, none, none⟩)
  | _ =>
    if (s.spanHits l).contains .stall then .error (.wait .watermark)
    else match (spanLines l).findSome? (s.lineFault s.core.id kind) with
      | some f => .error (.fault f)
      | none => .ok ()

/-- Scratchpad bytes that a form reaches while the control thread stands at it: those, and no earlier command in conflict
(R277). -/
def State.reachSpans (s : State) (l : List Span) (kind : AccKind) (elem : Nat) : Except GErr Unit :=
  match s.touchSpans l kind with
  | .error (.fault f) => .error (.access elem (.fault f))
  | .error (.wait w) => .error (.access elem (.wait w))
  | .ok _ => if s.spansHeld l then .error (.access elem (.wait .dauStall)) else .ok ()

/-- A form goes on if the bytes it names can be reached. -/
def State.withSpans (s : State) (l : List Span) (kind : AccKind) (k : Res) : Res :=
  match s.reachSpans l kind 0 with
  | .error e => e.res s
  | .ok _ => k

/-! ## bfp runs (R87–R90) -/

/-- The element j of planes, most significant first, as bits. -/
def planeBits (planes : List Nat) (j : Nat) : Nat := planes.foldl (fun a p => 2 * a + p / 2 ^ j % 2) 0

/-- A run: its elements and its exponent. -/
structure Run where
  q : List Int
  e : Int
  deriving DecidableEq, Repr

/-- bfp_read (R88) of w planes at declared width d. -/
def bfpRead (planes : List Nat) (e w d : Nat) : Run :=
  if d < w then ⟨(List.range 64).map (fun j => sInt d (planeBits (planes.take d) j)), (e : Int) + (w - d : Nat)⟩
  else ⟨(List.range 64).map (fun j => sInt w (planeBits planes j)), e⟩

/-- Planes of w-bit integers, most significant first (R87). -/
def planesOf (w : Nat) (q : List Int) : List Nat :=
  (List.range w).map (fun p =>
    (q.zipIdx).foldl (fun a x => a + wrapBits w x.1 / 2 ^ (w - 1 - p) % 2 * 2 ^ x.2) 0)

/-- The 5-bit integer of an e2m1x code (R89). -/
def e2m1Q (c : BitVec 4) (x8 : Byte) : Int := if c = 8 then extraHalves x8 else e2m1Halves c.toNat

/-- A finite value that is not nan or an infinity; those count as 0 (R82, R90). -/
def bfpPart (x : XVal) : XVal :=
  match x with
  | .nan => XVal.zero
  | .inf _ => XVal.zero
  | y => y

/-- A value over 2^k, rounded to an integer with no bound. -/
def roundAt (c : Ctl) (x : XVal) (k : Int) : Int :=
  match x with
  | .fin m e => roundInt c.mode 0 m (e - k)
  | _ => 0

/-- The greatest magnitude of values. -/
def maxMag : List XVal → XVal
  | [] => XVal.zero
  | x :: r => if XVal.lt (maxMag r) x.abs then x.abs else maxMag r

/-- The least exponent byte from e up at which the greatest magnitude fits (R90): fuel counts the bytes left. -/
def bfpExp (c : Ctl) (m : XVal) (w : Nat) : Nat → Nat → Nat
  | 0, _ => 255
  | n + 1, e => if (roundAt c m ((e : Int) - 128)).natAbs ≤ 2 ^ (w - 1) - 1 then e else bfpExp c m w n (e + 1)

/-- A w-bit integer, saturated: the value and SAT (R72, R80). -/
def satW (w : Nat) (q : Int) : Int × Flags :=
  if q < -(2 ^ (w - 1) : Nat) then (-(2 ^ (w - 1) : Nat), flagSat)
  else if ((2 ^ (w - 1) : Nat) : Int) - 1 < q then ((2 ^ (w - 1) : Nat) - 1, flagSat)
  else (q, 0)

/-- to_bfp (R90) with draws of 0: the elements, the exponent byte and the flags. -/
def toBfp (x : List XVal) (w : Nat) (c : Ctl) : List Int × Nat × Flags :=
  let special (v : XVal) : Bool := match v with
    | .nan => true
    | .inf _ => true
    | _ => false
  let inv : Flags := if x.any special then flagInv else 0
  let y := x.map bfpPart
  let m := maxMag y
  if m.isZero then (y.map (fun _ => 0), 0, inv)
  else
    let e := bfpExp c m w 256 0
    let qs := y.map (fun v => satW w (roundAt c v ((e : Int) - 128)))
    (qs.map (fun q => q.1), e, inv ||| orFlags (qs.map (fun q => q.2)))

/-! ## The engine's queue (R275, R277) -/

/-- A TPROG word (R275). -/
def tprogWord (v : Bool) (form : BitVec 3) (acc : BitVec 1) (ta tb : BitVec 4) (step : Nat) : Word :=
  (BitVec.ofBool v ++ form ++ acc ++ ta ++ tb ++ 0#35 ++ BitVec.ofNat 16 step).setWidth 64

def tpV (x : Word) : Bool := x.getLsbD 63
def tpStep (x : Word) : Nat := (fld x 0 16).toNat

/-- FORM, ACC, TA and TB of a tile form. -/
def tileKey : Instr → Option (BitVec 3 × BitVec 1 × BitVec 4 × BitVec 4)
  | .tlMma d a b => some (0, d, a, b)
  | .tlMmz d a b => some (1, d, a, b)
  | .tlMms d a b => some (2, d, a, b)
  | .tlLdp d _ _ _ => some (3, 0, d, 0)
  | .tlStp d _ _ => some (4, 0, d, 0)
  | .tlLdsc d _ _ _ _ => some (5, 0, d, 0)
  | _ => none

/-- TPROG matches a form: FORM and TA, and ACC and TB for the multiply forms (R275). -/
def tprogMatches (x : Word) (k : BitVec 3 × BitVec 1 × BitVec 4 × BitVec 4) : Bool :=
  tpV x && fld x 60 3 == k.1 && fld x 55 4 == k.2.2.1
    && (decide (3 ≤ k.1.toNat) || (fld x 59 1 == k.2.1 && fld x 51 4 == k.2.2.2))

/-- The form of a queue entry. -/
def TileCmd.form (c : TileCmd) : Option Instr := match decode c.word with
  | .ok i => some i
  | .error _ => none

/-- A queue entry: the word with its captured g operands (R277). -/
def State.tileCmd (s : State) (i : Instr) (a b : BitVec 5) : TileCmd :=
  { word := i.word32, ga := s.g a, gb := Vector.ofFn (fun j => s.g (b + BitVec.ofNat 5 j.val)), seq := s.core.seq
    journal := s.core.journal }

/-- The entry of a form that reads no g register. -/
def State.plainTileCmd (s : State) (i : Instr) : TileCmd :=
  { word := i.word32, ga := 0, gb := Vector.ofFn (fun _ => 0), seq := s.core.seq, journal := s.core.journal }

/-- Puts an entry at the end of the queue. -/
def State.pushTile (s : State) (c : TileCmd) : State := s.onTile (fun t => { t with queue := t.queue ++ [c] })

/-- The queue is full (R277). -/
def TileState.full (t : TileState) : Bool := decide (8 ≤ t.queue.length)

/-- A form that acts behind every earlier tile form waits for them (R269). -/
def State.behindTiles (s : State) (k : Res) : Res := if s.core.tile.queue.isEmpty then k else .wait s .dauStall

/-- The oldest form has completed (R275). -/
def State.popTile (s : State) : State :=
  s.onTile (fun t => { t with tprog := 0, queue := t.queue.drop 1, running := false })

/-! ## Configuration: major 0x2C (R269) -/

/-- The place of the core among the members' records of broadcasts. -/
def Core.rankIx (c : Core) : BitVec 4 := BitVec.ofNat 4 c.rank

/-- tl.shape (R264, R265): the member begins to count its broadcasts anew (log 48). -/
def execTlShape (d a : BitVec 5) (s : State) : Out :=
  (s.behindTiles (match s.grantOf (s.g a) with
    | none => .trap s (plainTrap 0x6B)
    | some arr =>
      let x := grantWord s.core.tile.tshape (s.g a) s.core.rank arr
      .done (((s.onTile (fun t => { t with tshape := x })).onShare (fun h => { h with
        bhist := rset h.bhist s.core.rankIx (rget h.bhist s.core.rankIx).anew })).setG d x))).finish

/-- tl.desc (R268). -/
def execTlDesc (d : BitVec 4) (a b : BitVec 5) (s : State) : Out :=
  (s.behindTiles (if descBad (s.g a) (s.g b) then .trap s (plainTrap 0x6F)
    else .done (s.onTile (fun t => { t with tda := rset t.tda d (s.g a), tdb := rset t.tdb d (s.g b) })))).finish

/-- A width that may be declared (R269). -/
def widthOk (x : Word) : Bool := decide (2 ≤ x.toNat) && decide (x.toNat ≤ 16)

/-- tl.prec (R269). -/
def execTlPrec (a b : BitVec 5) (s : State) : Out :=
  (s.behindTiles (if widthOk (s.g a) && widthOk (s.g b) then
      .done (s.onTile (fun t => { t with
        tshape := putFld (putFld t.tshape 47 (fld (s.g a) 0 5 : BitVec 5)) 52 (fld (s.g b) 0 5 : BitVec 5) }))
    else .trap s (plainTrap 0x6D))).finish

/-- tl.zero (R269). -/
def execTlZero (d : BitVec 1) (s : State) : Out :=
  (s.behindTiles (.done (s.onTile (fun t => { t with acc := rset t.acc d 0 })))).finish

/-- tl.acc (R269, R91). -/
def execTlAcc (d : BitVec 5) (a : BitVec 1) (b : BitVec 5) (s : State) : Out :=
  (Res.check s (s.levelTrap (.tlAcc d a b) .supervisor) (s.behindTiles (
    let sel := s.g b
    let ix : Nat := (fld sel 0 14).toNat
    if fld sel 16 48 != 0 || sel.getLsbD 14 || decide (15359 < ix) then .trap s (plainTrap 0x6E)
    else if sel.getLsbD 15 then
      .done (s.onTile (fun t => { t with
        acc := rset t.acc a (setF (rget t.acc a) ix (zext (fld (s.g d) 0 58 : BitVec 58))) }))
    else .done (s.setG d (getF 64 (rget s.core.tile.acc a) ix))))).finish

/-! ## Planes: major 0x2D (R270–R272) -/

/-- The control thread already stands at this word (R271). -/
def State.atLine (s : State) (i : Instr) : Bool :=
  s.core.wait == some .tileLine && (s.core.tile.queue.getLast?.map (fun c => c.word) == some (i.word32))

/-- A form of lines enters the queue once no earlier access conflicts with its footprint, and the control thread stands at
it until its last line (R271, R275, R277). -/
def State.enterLines (s : State) (i : Instr) (d : BitVec 4) (a b : BitVec 5) (writes : Bool) (bad : Option Trap) : Res :=
  if s.atLine i then .wait s .tileLine
  else if !s.core.tile.isSet d then .trap s (plainTrap 0x6F)
  else match bad with
    | some t => .trap s t
    | none => if s.core.tile.full then .wait s .dauStall
      else if s.spansHeld (s.core.tile.tdSpans d writes) then .wait s .dauStall
      else .wait (s.pushTile (s.tileCmd i a b)) .tileLine

/-- The line operands of tl.ldp and tl.stp are refused (R271). -/
def State.linesBad (s : State) (d : BitVec 4) (b : BitVec 5) : Bool :=
  let x := s.g b
  fld x 32 32 != 0
    || decide (tdLines (rget s.core.tile.tdb d) < (fld x 16 16).toNat + (fld x 0 16).toNat)

/-- tl.ldp (R271). -/
def execTlLdp (d : BitVec 4) (a b : BitVec 5) (op : BitVec 4) (s : State) : Out :=
  (s.enterLines (.tlLdp d a b op) d a b true (firstTrap [
    (op == 1 && tdW (rget s.core.tile.tda d) != 5, plainTrap 0x6F), (s.linesBad d b, plainTrap 0x6E)])).finish

/-- tl.stp (R271). -/
def execTlStp (d : BitVec 4) (a b : BitVec 5) (s : State) : Out :=
  (s.enterLines (.tlStp d a b) d a b false (firstTrap [(s.linesBad d b, plainTrap 0x6E)])).finish

/-- The element tags that tl.ldsc converts (R272). -/
def ldscTag (c : BitVec 5) : Option Tag :=
  match Tag.ofCode c with
  | some .i8 => some .i8
  | some .i16 => some .i16
  | some .f32 => some .f32
  | some .f16 => some .f16
  | some .bf16 => some .bf16
  | some .e4m3 => some .e4m3
  | some .e5m2 => some .e5m2
  | _ => none

/-- tl.ldsc (R272). -/
def execTlLdsc (d : BitVec 4) (a b : BitVec 5) (op p : BitVec 4) (s : State) : Out :=
  let x := s.g b
  (s.enterLines (.tlLdsc d a b op p) d a b true (firstTrap [
    (fld x 5 11 != 0 || (ldscTag (fld x 0 5)).isNone, plainTrap 0x6F),
    (decide (tdLines (rget s.core.tile.tdb d) < (fld x 32 16).toNat + (fld x 48 16).toNat), plainTrap 0x6E)])).finish

/-! ## Broadcast (R273) -/

/-- The ranks of a member's group, in their order (R273). -/
def bcastGroup (x : Word) (rank : Nat) (p : BitVec 4) : List Nat :=
  let g := arrGrid (tsArr x)
  if p = 1 then (List.range g.2).map (fun c => rank / g.2 * g.2 + c)
  else if p = 2 then (List.range g.1).map (fun r => r * g.2 + rank % g.2)
  else List.range (g.1 * g.2)

/-- The core that holds a rank of the executing gang. -/
def State.memberAt (s : State) (rank : Nat) : Option Core :=
  match s.myGang with
  | some x => x.cores[rank]?.bind (fun id => s.coreAt (numbered id))
  | none => if rank = s.core.rank then some s.core else none

/-- The core's arrival, and how a meeting has ended for it. -/
def State.bcastEnd (s : State) : Option Verdict := s.share.bdone.find? (fun v => v.rank == s.core.rank)

/-- tl.bcast: arrival, and the end that a meeting gave (R273). -/
def execTlBcast (d : BitVec 4) (a : BitVec 5) (p : BitVec 4) (s : State) : Out :=
  match s.bcastEnd with
  | some v =>
    let s1 := s.onShare (fun h => { h with bdone := h.bdone.filter (fun w => w.rank != s.core.rank) })
    (match v.cause with
      | some c => Res.trap s1 (endTrap c v.at')
      | none => .done s1).finish
  | none =>
    if s.share.bcast.any (fun x => x.rank == s.core.rank) then .next (s.stand .bcast)
    else
      let g := arrGrid (tsArr s.core.tile.tshape)
      (s.behindTiles (
        if !s.core.tile.isSet d then .trap s (plainTrap 0x6F)
        else if g.1 * g.2 ≤ s.core.rank then .trap s (plainTrap 0x6C)
        else s.withSpans (s.core.tile.tdSpans d true) .lwrite (
          .wait (s.onShare (fun h => { h with
            bcast := h.bcast ++ [⟨s.core.rank, (Instr.tlBcast d a p).word32, s.g a⟩]
            bhist := rset h.bhist s.core.rankIx ((rget h.bhist s.core.rankIx).arrive p) })) .bcast))).finish

/-- The descriptor register and the group selection that a word of tl.bcast names. -/
def bcastOf (w : BitVec 32) : Option (BitVec 4 × BitVec 4) := match decode w with
  | .ok (.tlBcast d _ p) => some (d, p)
  | _ => none

/-- What the members compare (R273): p, g[a], the descriptor number, and W, RUNS and LINES. -/
def State.bcastKey (s : State) (x : BcastArrival) : Option (BitVec 4 × BitVec 4 × Word × Nat × Nat × Nat) :=
  match bcastOf x.word, s.memberAt x.rank with
  | some (d, p), some c =>
    let t := c.tile.desc d
    some (d, p, x.ga, tdW t.1, tdRuns t.1, tdLines t.2)
  | _, _ => none

/-- Copies the runs and exponents of a tile of one core into the layout of another's (R273). -/
def State.copyTile (s : State) (d : BitVec 4) (src dst : Core) : State :=
  let x := src.tile.desc d
  let y := dst.tile.desc d
  (List.range (tdLines x.2)).foldl (fun s l =>
    let s := (s.correct (scratchBase src.id.toNat + runOff x.1 x.2 l 0) (8 * tdW x.1 * tdRuns x.1)).correct
      (scratchBase src.id.toNat + expOff x.1 x.2 l 0) (tdRuns x.1)
    (s.scrPut dst.id (runOff y.1 y.2 l 0) (s.scr src.id (runOff x.1 x.2 l 0) (8 * tdW x.1 * tdRuns x.1))).scrPut dst.id
      (expOff y.1 y.2 l 0) (s.scr src.id (expOff x.1 x.2 l 0) (tdRuns x.1))) s

/-- Changes the records of broadcasts of the members of some ranks. -/
def State.mapHist (s : State) (ranks : List Nat) (f : BcastPlace → BcastPlace) : State :=
  s.onShare (fun h => { h with
    bhist := ranks.foldl (fun v r => rset v (BitVec.ofNat 4 r) (f (rget v (BitVec.ofNat 4 r)))) h.bhist })

/-- The end of a meeting of ranks, with a cause or none; a broadcast that takes a cause has not been executed. -/
def State.bcastVerdict (s : State) (ranks : List Nat) (cause : Option (BitVec 8)) (acc : Option BadAccess := none) : State :=
  let t := s.onShare (fun h => { h with
    bcast := h.bcast.filter (fun x => !ranks.contains x.rank)
    bdone := h.bdone ++ ranks.map (fun r => ⟨r, cause, acc⟩) })
  if cause.isSome then t.mapHist ranks BcastPlace.refuse else t

/-- The group selection of an arrival. -/
def BcastArrival.p (x : BcastArrival) : BitVec 4 := ((bcastOf x.word).map (fun k => k.2)).getD 0

/-- The group of an arrival. -/
def State.groupOf (s : State) (x : BcastArrival) : List Nat := match s.memberAt x.rank with
  | some c => bcastGroup c.tile.tshape x.rank x.p
  | none => []

/-- The broadcasts that the member of a rank has executed. -/
def State.histOf (s : State) (r : Nat) : BcastPlace := rget s.share.bhist (BitVec.ofNat 4 r)

/-- Where a waiting member stands among its own broadcasts: since its n-th tl.shape, the k-th, at the t-th try (log 48). -/
def State.placeOf (s : State) (r : Nat) : Nat × Nat × Nat :=
  ((s.histOf r).epoch, (s.histOf r).ps.length - 1, (s.histOf r).tries)

/-- The member of a rank has come to its broadcast of a place. -/
def BcastPlace.reached (h : BcastPlace) (q : Nat × Nat × Nat) : Bool :=
  decide (q.1 < h.epoch) || (h.epoch == q.1 && (decide (q.2.1 + 1 < h.ps.length)
    || (q.2.1 + 1 == h.ps.length && (decide (q.2.2 < h.tries) || (q.2.2 == h.tries && !h.refused)))))

/-- It names another p there, or has taken a cause there. -/
def BcastPlace.unlike (h : BcastPlace) (q : Nat × Nat × Nat) (p : BitVec 4) : Bool :=
  h.epoch == q.1 && match h.ps[q.2.1]? with
    | some y => decide (q.2.2 < y.2) || (h.reached q && y.1 != p)
    | none => false

/-- Some member of the group of x executes another p as its broadcast of the same place, or took a cause there (R273 step
4). -/
def State.bcastClash (s : State) (x : BcastArrival) : Bool :=
  (s.groupOf x).any (fun r => (s.histOf r).unlike (s.placeOf x.rank) x.p)

/-- All members of the group of x have come to their broadcasts of its place. -/
def State.bcastCome (s : State) (x : BcastArrival) : Bool :=
  (s.groupOf x).all (fun r => (s.histOf r).reached (s.placeOf x.rank))

/-- Another member of the group of x names it too, as its broadcast of the same place. -/
def State.bcastShared (s : State) (x : BcastArrival) : Bool :=
  (s.groupOf x).any (fun r => r != x.rank && (s.histOf r).epoch == (s.placeOf x.rank).1
    && ((s.histOf r).ps[(s.placeOf x.rank).2.1]?).any (fun y => y.1 == x.p))

/-- The members that wait at the place of x. -/
def State.waitingAt (s : State) (q : Nat × Nat × Nat) : List BcastArrival :=
  s.share.bcast.filter (fun y => s.placeOf y.rank == q)

/-- The ranks that fail at a place: those that wait there for a group that does not agree; with them the other members of
such a group, where more than one of it names it; and then those whose group has such a member. Of groups that have all
come; or of all, as far as can be seen, where more members may still name it. n bounds the search (R273 step 4, R279, R363; log 48). -/
def State.bcastFails (s : State) (come : Bool) (q : Nat × Nat × Nat) : Nat → List Nat
  | 0 =>
    let w := s.waitingAt q
    let bad := w.filter (fun y => (!come || s.bcastCome y) && s.bcastClash y)
    (w.filter (fun x => bad.any (fun y => y.rank == x.rank || ((!come || s.bcastShared y) && (s.groupOf y).contains x.rank)))).map BcastArrival.rank
  | n + 1 =>
    let f := s.bcastFails come q n
    ((s.waitingAt q).filter (fun x => f.contains x.rank
      || ((!come || s.bcastCome x) && (s.groupOf x).any f.contains))).map BcastArrival.rank

/-- How the meeting of a waiting member ends. -/
inductive BcastEnd where
  /-- its group waits with one p, and compares what else R273 names -/
  | meet (g : List Nat)
  /-- these ranks take cause 0x6C -/
  | fail (l : List Nat)
  deriving DecidableEq, Repr

/-- The end of the meeting of the core in focus, once its group has arrived. A group that agrees waits while one of its members
may fail with another group that is not yet there (R273, R279; log 48). -/
def State.bcastDue (s : State) : Option BcastEnd :=
  match s.share.bcast.find? (fun x => x.rank == s.core.rank) with
  | none => none
  | some x =>
    let g := s.groupOf x
    let f := s.bcastFails true (s.placeOf x.rank) 16
    if f.contains x.rank then some (.fail f)
    else if g.all (fun r => s.share.bcast.any (fun y => y.rank == r && y.p == x.p))
      && !g.any (fun r => (s.bcastFails false (s.placeOf r) 16).contains r) then some (.meet g)
    else none

/-- What the data refuses to a broadcast (R118, R119). -/
def State.bcastFault (s : State) (d : BitVec 4) (g : List Nat) (src : Core) : Option MemFault :=
  (g.filterMap s.memberAt).findSome? (fun c =>
    (spanLines (c.tile.tdSpans d (c.ref != src.ref))).findSome? (s.lineFault c.id (if c.ref = src.ref then .lread else .lwrite)))

/-- The record of the member of a group that has executed most tl.shape forms. -/
def State.latest (s : State) (g : List Nat) : BcastPlace :=
  ⟨g.foldl (fun n r => max n (s.histOf r).epoch) 0, [], false⟩

/-- The meeting of a group that names one p (R273 steps 3 to 5); after one of all members (p = 0) they count anew. Data that
cannot be copied ends it with its cause (R118, R119; log 46). -/
def State.bcastMeet (s : State) (g : List Nat) : State :=
  let keys := g.map (fun r => (s.share.bcast.find? (fun y => y.rank == r)).bind s.bcastKey)
  match keys.head? with
  | some (some k) =>
    if keys.all (fun x => x == some k) && k.2.2.1.toNat < g.length then
      match g[k.2.2.1.toNat]?.bind s.memberAt with
      | some src => match s.bcastFault k.1 g src with
        | some m => (s.quarantineFault m.bad).bcastVerdict g (some m.cause) (some ⟨m.va, m.kind, 0⟩)
        | none =>
          (g.foldl (fun s r => match s.memberAt r with
            | some c => if c.ref = src.ref then s else s.copyTile k.1 src c
            | none => s) s |> fun t => if k.2.1 = 0 then t.mapHist g (fun _ => (t.latest g).anew) else t).bcastVerdict g none
      | none => s.bcastVerdict g (some 0x6C)
    else s.bcastVerdict g (some 0x6C)
  | _ => s.bcastVerdict g (some 0x6C)

/-- TL_BCAST_MEET: the group of a waiting member has arrived, and agrees or not (R273). -/
def execTlBcastMeet (s : State) : Out :=
  let s := s.focus s.ev.c
  match s.bcastDue with
  | some (.meet g) => .next (s.bcastMeet g)
  | some (.fail l) => .next (s.bcastVerdict l (some 0x6C))
  | none => notDue "TL_BCAST_MEET"

/-! ## Multiplication: major 0x2E (R274) -/

/-- A multiply form at issue (R274, R277). -/
def State.issueMul (s : State) (i : Instr) (a b : BitVec 4) : Res :=
  let t := s.core.tile
  let n := tsSub t.tshape
  let k := tsS t.tshape
  Res.check s (firstTrap [
    (tsWa t.tshape == 0 || tsWb t.tshape == 0, plainTrap 0x6D),
    (!t.isSet a || !t.isSet b, plainTrap 0x6F),
    (decide (tdLines (rget t.tdb a) < n.1) || decide (tdLines (rget t.tdb b) < n.2)
      || decide (tdRuns (rget t.tda a) < k) || decide (tdRuns (rget t.tda b) < k), plainTrap 0x6E)])
    (if t.full || s.spansHeld (t.tdSpans a false ++ t.tdSpans b false) then .wait s .dauStall
    else .done (s.pushTile (s.plainTileCmd i)))

/-- tl.mma (R274). -/
def execTlMma (d : BitVec 1) (a b : BitVec 4) (s : State) : Out := (s.issueMul (.tlMma d a b) a b).finish

/-- tl.mmz (R274). -/
def execTlMmz (d : BitVec 1) (a b : BitVec 4) (s : State) : Out := (s.issueMul (.tlMmz d a b) a b).finish

/-- tl.mms (R274). -/
def execTlMms (d : BitVec 1) (a b : BitVec 4) (s : State) : Out := (s.issueMul (.tlMms d a b) a b).finish

/-- Run s of line l of a tile, read at a declared width (R88, R267). -/
def State.readRun (s : State) (n : BitVec 4) (l k d : Nat) : Run :=
  let x := s.core.tile.desc n
  let w := tdW x.1
  let planes := (List.range w).map (fun p => ofBytes (s.scr s.core.id (runOff x.1 x.2 l k + 8 * p) 8))
  bfpRead planes (ofBytes (s.scr s.core.id (expOff x.1 x.2 l k) 1)) w d

/-- P of a step: the exact sum over the K indices of the step below K (R93, R274). -/
def stepSum (qa qb : List Int) (left : Nat) : Int :=
  ((qa.zip qb).take left).foldl (fun t q => t + q.1 * q.2) 0

/-- One accumulator of a K step (R93, R274). -/
def stepAcc (old : XVal) (neg : Bool) (ra rb : Run) (left : Nat) : Word × Flags :=
  let p := stepSum ra.q rb.q left
  match old.add (.fin (if neg then -p else p) (ra.e + rb.e - 256)) with
  | .fin m e => roundAcc m e
  | _ => (0, 0)

/-- One K step over the sub-block (R274). -/
def State.kStep (s : State) (form : BitVec 3) (d : BitVec 1) (a b : BitVec 4) (k : Nat) : State :=
  let x := s.core.tile.tshape
  let n := tsSub x
  let as := (List.range n.1).map (fun i => s.readRun a i k (tsWa x))
  let bs := (List.range n.2).map (fun j => s.readRun b j k (tsWb x))
  let acc0 := rget s.core.tile.acc d
  let r := as.zipIdx.foldl (fun st ra => bs.zipIdx.foldl (fun (st : BitVec 983040 × Flags) rb =>
    let ix := 160 * ra.2 + rb.2
    let old := if form == 1 && k == 0 then XVal.zero else accVal (getF 64 acc0 ix)
    let v := stepAcc old (form == 2) ra.1 rb.1 (tsK x - 64 * k)
    (setF st.1 ix v.1, st.2 ||| v.2)) st) (acc0, (0 : Flags))
  (s.onTile (fun t => { t with acc := rset t.acc d r.1 })).flag r.2

/-- The runs that a K step reads: run k of the lines of the sub-block (R274). -/
def State.kSpans (s : State) (a b : BitVec 4) (k : Nat) : List Span :=
  let n := tsSub s.core.tile.tshape
  let runs (d : BitVec 4) (lines : Nat) : List Span :=
    let t := s.core.tile.desc d
    [⟨runOff t.1 t.2 0 k, 8 * tdRs t.2, 8 * tdW t.1, lines, false⟩, ⟨expOff t.1 t.2 0 k, tdEs t.2, 1, lines, false⟩]
  runs a n.1 ++ runs b n.2

/-- The accumulator that a K step reads and writes holds an uncorrectable error (R119). -/
def State.kAccBad (s : State) (form : BitVec 3) (d : BitVec 1) (k : Nat) : Bool :=
  !(form == 1 && k == 0) && s.core.regErr.contains (.acc d)

/-- Correctable errors among the runs of a K step are repaired (R116). -/
def State.kScrub (s : State) (a b : BitVec 4) (k : Nat) : State :=
  if s.dev.softBytes.isEmpty then s
  else
    let n := tsSub s.core.tile.tshape
    let go (d : BitVec 4) (lines : Nat) (s : State) : State := (List.range lines).foldl (fun u l =>
      let t := u.core.tile.desc d
      (u.correct (scratchBase u.core.id.toNat + runOff t.1 t.2 l k) (8 * tdW t.1)).correct
        (scratchBase u.core.id.toNat + expOff t.1 t.2 l k) 1) s
    go b n.2 (go a n.1 s)

/-- Zeroes the sub-block: tl.mmz with S = 0 (R274). -/
def State.zeroSub (s : State) (d : BitVec 1) : State :=
  let n := tsSub s.core.tile.tshape
  s.onTile (fun t => { t with acc := rset t.acc d ((List.range n.1).foldl (fun acc i =>
    (List.range n.2).foldl (fun acc j => setF acc (160 * i + j) (0 : Word)) acc) (rget t.acc d)) })

/-- TPROG.STEP moves on by one. -/
def State.bumpStep (s : State) : State :=
  s.onTile (fun t => { t with tprog := putFld t.tprog 0 (BitVec.ofNat 16 (tpStep t.tprog + 1)) })

/-- The form being executed: its entry and its word's form. -/
def State.runningTile (s : State) : Option (TileCmd × Instr) :=
  match s.core.tile.running, s.core.tile.queue with
  | true, c :: _ => c.form.map (fun i => (c, i))
  | _, _ => none

/-- Lines of an entry: FL and NL (R271, R272). -/
def TileCmd.lines (c : TileCmd) (i : Instr) : Nat × Nat :=
  let x := c.gb[0]
  match i with
  | .tlLdsc _ _ _ _ _ => ((fld x 32 16).toNat, (fld x 48 16).toNat)
  | _ => ((fld x 16 16).toNat, (fld x 0 16).toNat)

/-- The steps or lines that a form has (R274, R271). -/
def State.tileTotal (s : State) (c : TileCmd) (i : Instr) : Nat :=
  match i with
  | .tlMma _ _ _ | .tlMmz _ _ _ | .tlMms _ _ _ => tsS s.core.tile.tshape
  | _ => (c.lines i).2

/-- The oldest form has completed; a form of lines lets the control thread go on. -/
def State.endTile (s : State) (i : Instr) : State :=
  match i with
  | .tlMma _ _ _ | .tlMmz _ _ _ | .tlMms _ _ _ => s.popTile
  | _ => s.popTile.next

/-- The oldest form begins, from TPROG.STEP where TPROG matches it (R275). -/
def State.startTile (s : State) (k : BitVec 3 × BitVec 1 × BitVec 4 × BitVec 4) : State :=
  s.onTile (fun t => { t with
    running := true
    tprog := if tprogMatches t.tprog k then t.tprog else tprogWord true k.1 k.2.1 k.2.2.1 k.2.2.2 0 })

/-- TILE_FORM_EXECUTE: the engine takes the oldest form of its queue (R277). -/
def execTileFormExecute (s : State) : Out :=
  let s := s.focus s.ev.c
  match s.core.tile.running, s.core.tile.queue with
  | false, c :: _ => match c.form with
    | none => notDue "TILE_FORM_EXECUTE"
    | some i => match tileKey i with
      | none => notDue "TILE_FORM_EXECUTE"
      | some k =>
        let s1 := s.startTile k
        if tpStep s1.core.tile.tprog < s1.tileTotal c i then .next s1
        else match i with
          | .tlMmz d _ _ => .next ((if tsS s.core.tile.tshape = 0 then s1.zeroSub d else s1).endTile i)
          | _ => .next (s1.guardExit (fun t => t.endTile i))
  | _, _ => notDue "TILE_FORM_EXECUTE"

/-- A K step of a multiply form, then its end after the last (R274). -/
def State.mulStep (s : State) (i : Instr) (form : BitVec 3) (d : BitVec 1) (a b : BitVec 4) : State :=
  let k := tpStep s.core.tile.tprog
  let s1 := ((s.kScrub a b k).kStep form d a b k).bumpStep
  if k + 1 < tsS s.core.tile.tshape then s1 else s1.endTile i

/-- TILE_K_STEP_COMPLETE of a multiply form. A channel, data or an accumulator that the step cannot read trap at the form,
with TPROG at the step; what was issued behind it is undone (R118, R119, R153, R275, R397, R398; log 46). -/
def State.mulEvent (s : State) (i : Instr) (form : BitVec 3) (d : BitVec 1) (a b : BitVec 4) : Out :=
  let k := tpStep s.core.tile.tprog
  let back : State := match s.core.tile.queue with
    | c :: _ => s.undo c.journal
    | [] => s
  if s.kAccBad form d k then .next (back.countUnc.enterTrap (plainTrap 0xC3))
  else match s.touchSpans (s.kSpans a b k) .lread with
    | .error (.fault m) => .next (back.enterTrap (m.trap k))
    | .error (.wait _) => notDue "TILE_K_STEP_COMPLETE"
    | .ok _ => .next (s.mulStep i form d a b)

/-- TILE_K_STEP_COMPLETE (R274). -/
def execTileKStepComplete (s : State) : Out :=
  let s := s.focus s.ev.c
  match s.runningTile with
  | some (_, .tlMma d a b) => s.mulEvent (.tlMma d a b) 0 d a b
  | some (_, .tlMmz d a b) => s.mulEvent (.tlMmz d a b) 1 d a b
  | some (_, .tlMms d a b) => s.mulEvent (.tlMms d a b) 2 d a b
  | _ => notDue "TILE_K_STEP_COMPLETE"

/-! ## Lines (R271, R272) -/

/-- Insertion by address, so that the accesses of a line go in ascending order. -/
def insertAcc {α : Type} (x : Nat × α) : List (Nat × α) → List (Nat × α)
  | [] => [x]
  | y :: r => if x.1 ≤ y.1 then x :: y :: r else y :: insertAcc x r

/-- One access of a line. -/
inductive LineAcc where
  /-- memory bytes into scratchpad -/
  | toTile (n off : Nat)
  /-- scratchpad bytes to memory -/
  | toMem (n off : Nat)
  deriving DecidableEq, Repr

/-- The accesses of line l of an op-0 image (R271): planes, then exponents, in ascending address order. -/
def lineAccs (c : TileCmd) (t : Word × Word) (l fl : Nat) (mk : Nat → Nat → LineAcc) : List (Nat × LineAcc) :=
  let n := BitVec.ofNat 64 l
  let planes := (List.range (tdW t.1 * tdRuns t.1)).map (fun j =>
    ((c.ga + n * c.gb[1] + BitVec.ofNat 64 (8 * j)).toNat, mk 8 (runOff t.1 t.2 (fl + l) 0 + 8 * j)))
  let exps := (List.range (tdRuns t.1)).map (fun j =>
    ((c.gb[2] + n * c.gb[3] + BitVec.ofNat 64 j).toNat, mk 1 (expOff t.1 t.2 (fl + l) j)))
  (planes ++ exps).foldr insertAcc []

/-- The accesses of a line, one after another; a tile run never overlaps a conflict of its own form. -/
def doLine (seq l : Nat) : List (Nat × LineAcc) → State → Except GErr State
  | [], s => .ok s
  | (va, .toTile n off) :: r, s =>
    match load s s.core.cmds s.pl .lread l (BitVec.ofNat 64 va) n with
    | .error e => .error (.access l e)
    | .ok (w, s1) => doLine seq l r (s1.scrPut s1.core.id off (toBytes n w.toNat))
  | (va, .toMem n off) :: r, s =>
    match store (s.correct (scratchBase s.core.id.toNat + off) n) s.core.cmds s.pl .lwrite seq l (BitVec.ofNat 64 va) n
        (wordOfBytes (s.scr s.core.id off n)) with
    | .error e => .error (.access l e)
    | .ok s1 => doLine seq l r s1

/-- Writes a run of integers into a tile (R267). -/
def State.putRun (s : State) (t : Word × Word) (l k : Nat) (q : List Int) (e : Nat) : State :=
  (s.scrPut s.core.id (runOff t.1 t.2 l k) ((planesOf (tdW t.1) q).flatMap (toBytes 8))).scrPut s.core.id
    (expOff t.1 t.2 l k) [BitVec.ofNat 8 e]

/-- Addresses of an op-1 line (R271): the planes of a block, and its scale bytes. -/
def blockBase (c : TileCmd) (l k : Nat) : Word := c.ga + BitVec.ofNat 64 l * c.gb[1] + BitVec.ofNat 64 (32 * k)
def blockScale (c : TileCmd) (l k : Nat) : Word := c.gb[2] + BitVec.ofNat 64 l * c.gb[3] + BitVec.ofNat 64 (2 * k)

/-- The reads of an op-1 line of a number of runs, in ascending address order (R271): addresses and lengths. -/
def blockReads (c : TileCmd) (l runs : Nat) : List (Nat × Nat) :=
  (((List.range runs).flatMap (fun k => (List.range 4).map (fun i => ((blockBase c l k + BitVec.ofNat 64 (8 * i)).toNat, 8))))
    ++ ((List.range runs).flatMap (fun k => [((blockScale c l k).toNat, 1), ((blockScale c l k + 1).toNat, 1)]))).foldr insertAcc []

/-- Performs the reads of a line: what stands at each address. -/
def lineReads (l : Nat) : List (Nat × Nat) → State → Except GErr (List (Nat × Word) × State)
  | [], s => .ok ([], s)
  | (va, n) :: r, s =>
    match load s s.core.cmds s.pl .lread l (BitVec.ofNat 64 va) n with
    | .error e => .error (.access l e)
    | .ok (w, s1) => match lineReads l r s1 with
      | .error e => .error e
      | .ok (t, s2) => .ok ((va, w) :: t, s2)

/-- Runs k and on of an op-1 line from what was read: e2m1x blocks, each checked by R85 (R271, R89). -/
def putBlockRuns (c : TileCmd) (t : Word × Word) (l fl : Nat) (got : List (Nat × Word)) : Nat → Nat → State → Except GErr State
  | 0, _, s => .ok s
  | n + 1, k, s =>
    let at' (va : Word) : Word := ((got.find? (fun x => x.1 == va.toNat)).map (fun x => x.2)).getD 0
    let b := at' (blockScale c l k)
    let x8 := at' (blockScale c l k + 1)
    match blockCause (b.setWidth 8) (x8.setWidth 8) with
    | some cause => .error (.trap (plainTrap cause))
    | none =>
      let codes := codesOf ((List.range 4).map (fun i => at' (blockBase c l k + BitVec.ofNat 64 (8 * i))))
      let q := (List.range 64).map (fun j => e2m1Q (getF 4 codes j) (x8.setWidth 8))
      putBlockRuns c t l fl got n (k + 1) (s.putRun t (fl + l) k q b.toNat)

/-- An op-1 line (R271). All its accesses are made before any of its blocks is checked (R85): the spec orders neither before
the other, and this order is the model's choice (log 93). -/
def doBlocks (c : TileCmd) (t : Word × Word) (l fl : Nat) (s : State) : Except GErr State :=
  match lineReads l (blockReads c l (tdRuns t.1)) s with
  | .error e => .error e
  | .ok (got, s1) => putBlockRuns c t l fl got (tdRuns t.1) 0 s1

/-- Elements of a channel's window from an offset, each under the rules of R153 (R272); none beyond the scratchpad. -/
def State.windowElems (s : State) (tag : Tag) (base : Nat) (l : Nat) : List Nat → Except GErr (List XVal)
  | [] => .ok []
  | kk :: r =>
    if tsK s.core.tile.tshape ≤ kk then
      match s.windowElems tag base l r with
      | .error e => .error e
      | .ok v => .ok (XVal.zero :: v)
    else
      let off := base + tag.width / 8 * kk
      if 2 ^ 21 < off + tag.width / 8 then .error (.trap (plainTrap 0x6E))
      else match s.reachSpans [⟨off, 0, tag.width / 8, 1, false⟩] .lread l with
        | .error e => .error e
        | .ok _ => match s.windowElems tag base l r with
          | .error e => .error e
          | .ok v => .ok (tag.widen 0 (ofBytes (s.scr s.core.id off (tag.width / 8))) :: v)

/-- Correctable errors among the window elements of a run are repaired (R116). -/
def State.windowScrub (s : State) (tag : Tag) (base : Nat) (l : List Nat) : State :=
  if s.dev.softBytes.isEmpty then s
  else l.foldl (fun t kk =>
    if tsK t.core.tile.tshape ≤ kk then t
    else t.correct (scratchBase t.core.id.toNat + base + tag.width / 8 * kk) (tag.width / 8)) s

/-- Runs k and on of a line of tl.ldsc (R272). -/
def doConvert (c : TileCmd) (t : Word × Word) (tag : Tag) (ctl : Ctl) (base l fl : Nat) :
    Nat → Nat → State → Except GErr State
  | 0, _, s => .ok s
  | n + 1, k, s =>
    match s.windowElems tag base l (List.range' (64 * k) 64) with
    | .error e => .error e
    | .ok x =>
      let r := toBfp x (tdW t.1) ctl
      doConvert c t tag ctl base l fl n (k + 1)
        (((s.windowScrub tag base (List.range' (64 * k) 64)).putRun t (fl + l) k r.1 r.2.1).flag r.2.2)

/-- Line l of a form of lines, from the state in which it may run. -/
def State.tileLine (s : State) (c : TileCmd) (i : Instr) (l : Nat) : Except GErr State :=
  let fl := (c.lines i).1
  let go (d : BitVec 4) (writes : Bool) (f : Word × Word → State → Except GErr State) : Except GErr State :=
    match s.reachSpans ((s.core.tile.tdSpans d writes).map (fun x => x.line (fl + l)))
        (if writes then .lwrite else .lread) l with
    | .error e => .error e
    | .ok _ => f (s.core.tile.desc d) s
  match i with
  | .tlLdp d _ _ op => go d true (fun t s =>
      if op = 1 then doBlocks c t l fl s else doLine c.seq l (lineAccs c t l fl .toTile) s)
  | .tlStp d _ _ => go d false (fun t s => doLine c.seq l (lineAccs c t l fl .toMem) s)
  | .tlLdsc d _ _ op p => go d true (fun t s =>
      match ldscTag (fld c.gb[0] 0 5), Ctl.ofCode op with
      | some tag, some ctl =>
        let base := chBase (s.chwin (p.setWidth 3)) + tag.width / 8 * (c.ga.toNat + l * (fld c.gb[0] 16 16).toNat)
        doConvert c t tag ctl base l fl (tdRuns t.1) 0 s
      | _, _ => .error (.trap (plainTrap 0x6F)))
  | _ => .error (.trap (plainTrap 0x6F))

/-- The state in which a line runs: its own form's footprint holds back no access of the line (R277). -/
def State.forLine (s : State) : State := s.onTile (fun t => { t with queue := [] })

/-- After a line: the queue as it was. -/
def State.afterLine (s : State) (q : List TileCmd) : State := s.onTile (fun t => { t with queue := q })

/-- TILE_LINE_COMPLETE: the running form of lines moves its next line, or traps at it (R271, R275). -/
def execTileLineComplete (s : State) : Out :=
  let s := s.focus s.ev.c
  match s.runningTile with
  | none => notDue "TILE_LINE_COMPLETE"
  | some (c, i) =>
    if s.core.wait != some .tileLine || c.multiplies then notDue "TILE_LINE_COMPLETE"
    else
      let l := tpStep s.core.tile.tprog
      match s.forLine.tileLine c i l with
      | .error (.access _ (.wait _)) => notDue "TILE_LINE_COMPLETE"
      | .error e => (e.res s).finish
      | .ok s1 =>
        let s2 := (s1.afterLine s.core.tile.queue).bumpStep
        .next (if l + 1 < (c.lines i).2 then s2 else s2.guardExit (fun t => t.endTile i))

/-! ## Extraction: major 0x2F (R276) -/

/-- An earlier form of the queue writes acc[a]. -/
def TileState.writesAcc (t : TileState) (a : BitVec 1) : Bool :=
  t.queue.any (fun c => match c.form with
    | some (.tlMma d _ _) | some (.tlMmz d _ _) | some (.tlMms d _ _) => d == a
    | _ => false)

/-- Tags that an extract writes (R276). -/
def clsExt (t : Tag) : Bool := t.isFloat || t.isFx

/-- The value that element e extracts (R276, R94). -/
def State.extElem (s : State) (a : BitVec 1) (ctl : Ctl) (d : VOp) (first e : Nat) : Nat × Flags :=
  let n := (tsSub s.core.tile.tshape).2
  narrow (getF 64 (rget s.core.tile.acc a) (160 * ((first + e) / n) + (first + e) % n)) d.tag d.frac ctl 0

/-- tl.ext and tl.extr, given the control and the selection without it (R276). -/
def State.extract (s : State) (d : BitVec 5) (a : BitVec 1) (k : BitVec 3) (z : Bool) (ctl : Option Ctl) (sel : Word) :
    Res :=
  let o := s.vop d
  let n := tsSub s.core.tile.tshape
  let first : Nat := (fld sel 0 16).toNat
  match ctl with
  | none => .trap s (plainTrap 0x70)
  | some c =>
    Res.check s (firstTrap [
      (fld sel 16 48 != 0, plainTrap 0x6E), (!clsExt o.tag, plainTrap 0x43), (s.overCap [o], plainTrap 0x44),
      (decide (n.1 * n.2 < first + s.core.vec.n), plainTrap 0x6E)])
      (if s.core.tile.writesAcc a then .wait s .dauStall
      else .done (s.elementwise d k z (s.extElem a c o first)))

/-- The control of tl.extr: SR and the reserved codes are refused (R276). -/
def extCtl (x : BitVec 4) : Option Ctl := if x.getLsbD 2 then none else Ctl.ofCode x

/-- tl.ext (R276). -/
def execTlExt (d : BitVec 5) (a : BitVec 1) (b : BitVec 5) (k : BitVec 3) (z : Bool) (s : State) : Out :=
  (s.extract d a k z (some ctlRne) (s.g b)).finish

/-- tl.extr (R276). -/
def execTlExtr (d : BitVec 5) (a : BitVec 1) (b : BitVec 5) (k : BitVec 3) (z : Bool) (s : State) : Out :=
  (s.extract d a k z (extCtl (fld (s.g b) 60 4)) (putFld (s.g b) 60 (0#4))).finish

end Sys2Proof.Machine
end

