-- ==== Sys2Proof/Machine/Uses.lean ====
section
/-! DEFINITION. The registers that a form reads, and the one that it writes whole: for the uncorrectable errors of
register storage (R119). -/

namespace Sys2Proof.Machine

/-- The registers that a form reads, as its word names them; a mask operand k0 and g0 hold no storage. -/
def readsOf : Instr → List RegName
  | .add _ a b => [.g a, .g b]
  | .sub _ a b => [.g a, .g b]
  | .and _ a b => [.g a, .g b]
  | .or _ a b => [.g a, .g b]
  | .xor _ a b => [.g a, .g b]
  | .sll _ a b => [.g a, .g b]
  | .srl _ a b => [.g a, .g b]
  | .sra _ a b => [.g a, .g b]
  | .slt _ a b => [.g a, .g b]
  | .sltu _ a b => [.g a, .g b]
  | .min _ a b => [.g a, .g b]
  | .max _ a b => [.g a, .g b]
  | .minu _ a b => [.g a, .g b]
  | .maxu _ a b => [.g a, .g b]
  | .clz _ a => [.g a]
  | .popc _ a => [.g a]
  | .mul _ a b => [.g a, .g b]
  | .mulh _ a b => [.g a, .g b]
  | .mulhu _ a b => [.g a, .g b]
  | .div _ a b => [.g a, .g b]
  | .divu _ a b => [.g a, .g b]
  | .rem _ a b => [.g a, .g b]
  | .remu _ a b => [.g a, .g b]
  | .ldxB _ a b => [.g a, .g b]
  | .ldxBu _ a b => [.g a, .g b]
  | .ldxH _ a b => [.g a, .g b]
  | .ldxHu _ a b => [.g a, .g b]
  | .ldxW _ a b => [.g a, .g b]
  | .ldxWu _ a b => [.g a, .g b]
  | .ldxD _ a b => [.g a, .g b]
  | .stxB d a b => [.g a, .g b, .g d]
  | .stxH d a b => [.g a, .g b, .g d]
  | .stxW d a b => [.g a, .g b, .g d]
  | .stxD d a b => [.g a, .g b, .g d]
  | .blkCap _ a _ => [.g a]
  | .blkRun a _ => [.g a]
  | .addi _ a _ => [.g a]
  | .andi _ a _ => [.g a]
  | .ori _ a _ => [.g a]
  | .xori _ a _ => [.g a]
  | .slli _ a _ => [.g a]
  | .srli _ a _ => [.g a]
  | .srai _ a _ => [.g a]
  | .jalr _ a _ => [.g a]
  | .ldD _ a _ => [.g a]
  | .stD d a _ => [.g a, .g d]
  | .beq a b _ => [.g a, .g b]
  | .bne a b _ => [.g a, .g b]
  | .vsetvl _ a _ => [.g a]
  | .vprof _ a => [.g a]
  | .vmfc _ a => [.g a]
  | .vlq _ a => [.v a]
  | .vspill a b => [.v a, .g b]
  | .vfill _ b => [.g b]
  | .vLd _ a _ => [.g a]
  | .vSt d a _ => [.g a, .v d]
  | .vLds _ a b k _ => [.g a, .g b, .k k]
  | .vLdx _ a b k _ _ => [.g a, .v b, .k k]
  | .vLdb _ a k _ => [.g a, .k k]
  | .vLdk _ a => [.g a]
  | .vLdq _ _ k _ => [.k k]
  | .vSts d a b k => [.g a, .g b, .v d, .k k]
  | .vStx d a b k _ => [.g a, .v b, .v d, .k k]
  | .vStk d a => [.g a, .k d]
  | .vSxadd d a b k _ => [.g a, .v b, .v d, .k k]
  | .vSxmin d a b k _ => [.g a, .v b, .v d, .k k]
  | .vSxmax d a b k _ => [.g a, .v b, .v d, .k k]
  | .vPf a b => [.g a, .g b]
  | .vLdc _ a k _ => [.g a, .k k]
  | .vStc d a k => [.g a, .v d, .k k]
  | .vAdd _ a b k _ _ => [.v a, .v b, .k k]
  | .vSub _ a b k _ _ => [.v a, .v b, .k k]
  | .vMul _ a b k _ _ => [.v a, .v b, .k k]
  | .vMulh _ a b k _ _ => [.v a, .v b, .k k]
  | .vMadd d a b k _ _ => [.v a, .v b, .v d, .k k]
  | .vMsub d a b k _ _ => [.v a, .v b, .v d, .k k]
  | .vMin _ a b k _ _ => [.v a, .v b, .k k]
  | .vMax _ a b k _ _ => [.v a, .v b, .k k]
  | .vAbs _ a k _ => [.v a, .k k]
  | .vNeg _ a k _ => [.v a, .k k]
  | .vClamp d a b k _ _ => [.v a, .v b, .v d, .k k]
  | .vAnd _ a b k _ _ => [.v a, .v b, .k k]
  | .vOr _ a b k _ _ => [.v a, .v b, .k k]
  | .vXor _ a b k _ _ => [.v a, .v b, .k k]
  | .vNot _ a k _ => [.v a, .k k]
  | .vSll _ a b k _ _ => [.v a, .v b, .k k]
  | .vSrl _ a b k _ _ => [.v a, .v b, .k k]
  | .vSra _ a b k _ _ => [.v a, .v b, .k k]
  | .vCeq _ a b k _ _ => [.v a, .v b, .k k]
  | .vCne _ a b k _ _ => [.v a, .v b, .k k]
  | .vClt _ a b k _ _ => [.v a, .v b, .k k]
  | .vCle _ a b k _ _ => [.v a, .v b, .k k]
  | .vCun _ a b k _ _ => [.v a, .v b, .k k]
  | .vCvt _ a _ k _ => [.v a, .k k]
  | .vCvtz _ a _ k _ => [.v a, .k k]
  | .vCvtp _ a _ k _ => [.v a, .k k]
  | .vCvtm _ a _ k _ => [.v a, .k k]
  | .vCvts _ a b k _ _ => [.v a, .v b, .k k]
  | .vWacc d a b k _ _ => [.v a, .v b, .v d, .k k]
  | .vPerm _ a b k _ _ => [.v a, .v b, .k k]
  | .vSlup _ a b k _ => [.v a, .g b, .k k]
  | .vSldn _ a b k _ => [.v a, .g b, .k k]
  | .vComp _ a k _ => [.v a, .k k]
  | .vExpd _ a k _ => [.v a, .k k]
  | .vMrg _ a b k _ => [.v a, .v b, .k k]
  | .vCdet _ a k _ => [.v a, .k k]
  | .vIota _ a k _ => [.g a, .k k]
  | .vSplat _ a k _ => [.g a, .k k]
  | .vExtr _ a b => [.v a, .g b]
  | .vKand _ a b => [.k a, .k b]
  | .vKor _ a b => [.k a, .k b]
  | .vKxor _ a b => [.k a, .k b]
  | .vKandn _ a b => [.k a, .k b]
  | .vKpop _ a => [.k a]
  | .vKfirst _ a => [.k a]
  | .vRsum _ a k => [.v a, .k k]
  | .vRmax _ a k => [.v a, .k k]
  | .vRmin _ a k => [.v a, .k k]
  | .vRall _ a k => [.v a, .k k]
  | .vRany _ a k => [.v a, .k k]
  | .vRxor _ a k => [.v a, .k k]
  | .vPsum _ a k _ => [.v a, .k k]
  | .vPmax _ a k _ => [.v a, .k k]
  | .vPmin _ a k _ => [.v a, .k k]
  | .vRng _ a b k _ => [.g a, .g b, .g (b + 1), .k k]
  | .vRngf _ a b k _ => [.g a, .g b, .g (b + 1), .k k]
  | .rotC d a _ k _ => [.v a, .v d, .v (d + 1), .k k]
  | .rotCg d a _ k _ => [.v a, .v d, .v (d + 1), .k k]
  | .axisC d a _ k _ => [.v a, .v d, .v (d + 1), .k k]
  | .axisCg d a _ k _ => [.v a, .v d, .v (d + 1), .k k]
  | .gainC d _ k _ => [.v d, .v (d + 1), .k k]
  | .rotH d a _ k _ => [.v a, .v d, .v (d + 1), .k k]
  | .rotHg d a _ k _ => [.v a, .v d, .v (d + 1), .k k]
  | .axisH d a _ k _ => [.v a, .v d, .v (d + 1), .k k]
  | .axisHg d a _ k _ => [.v a, .v d, .v (d + 1), .k k]
  | .gainH d _ k _ => [.v d, .v (d + 1), .k k]
  | .rotL d a _ k _ => [.v a, .v d, .v (d + 1), .k k]
  | .axisL d a _ k _ => [.v a, .v d, .v (d + 1), .k k]
  | .rotFold d a k _ => [.v a, .v d, .v (d + 1), .k k]
  | .rotUnfold d a k _ => [.v a, .v d, .v (d + 1), .k k]
  | .mmMov _ a k => [.m a, .k k]
  | .mmExt _ a b k => [.m a, .g b, .k k]
  | .mmIns d a b k => [.v a, .g b, .m d, .k k]
  | .mmLd _ a b k => [.g a, .g b, .k k]
  | .mmSt d a b k => [.g a, .g b, .m d, .k k]
  | .mmMul _ a b k => [.m a, .m b, .k k]
  | .mmMadd d a b k => [.m a, .m b, .m d, .k k]
  | .mmMsub d a b k => [.m a, .m b, .m d, .k k]
  | .mmTrn _ a k => [.m a, .k k]
  | .mmChol _ a k => [.m a, .k k]
  | .mmLu _ a k => [.m a, .k k]
  | .mmTrsl _ a b k => [.m a, .m b, .k k]
  | .mmTrsu _ a b k => [.m a, .m b, .k k]
  | .mmSolve _ a b k => [.m a, .m b, .k k]
  | .mmDet _ a k => [.m a, .k k]
  | .tlShape _ a => [.g a]
  | .tlDesc _ a b => [.g a, .g b]
  | .tlPrec a b => [.g a, .g b]
  | .tlLdp _ a b _ => [.g a, .g b, .g (b + 1), .g (b + 2), .g (b + 3)]
  | .tlStp _ a b => [.g a, .g b, .g (b + 1), .g (b + 2), .g (b + 3)]
  | .tlBcast _ a _ => [.g a]
  | .tlLdsc _ a b _ _ => [.g a, .g b]
  | .tlMma d _ _ => [.acc d]
  | .tlMms d _ _ => [.acc d]
  | .tlExt _ a b k _ => [.acc a, .g b, .k k]
  | .tlExtr _ a b k _ => [.acc a, .g b, .k k]
  | .xsLd d a b _ _ => [.g a, .g b, .g (b + 1), .g (b + 2), .g (b + 3), .g d]
  | .xsSt d a b _ _ => [.g a, .g b, .g (b + 1), .g (b + 2), .g (b + 3), .g d]
  | .xsGth d a b _ _ => [.g a, .g b, .g (b + 1), .g (b + 2), .g (b + 3), .g d]
  | .xsSct d a b _ _ => [.g a, .g b, .g (b + 1), .g (b + 2), .g (b + 3), .g d]
  | .xsCp d _ b _ _ => [.g b, .g (b + 1), .g (b + 2), .g (b + 3), .g d]
  | .xsWait _ b => [.g b]
  | .xsRst _ b => [.g b]
  | .cbCfg _ a b => [.g a, .g b]
  | .cbAcq _ _ b => [.g b]
  | .cbRel _ b => [.g b]
  | .plDec d a b _ _ => [.g a, .g b, .g d]
  | .plIsect d a b _ _ => [.g a, .g b, .g d]
  | .plUnite d a b _ _ => [.g a, .g b, .g d]
  | .plBm25 d a b _ => [.g a, .g b, .g d]
  | .plFuse d a b _ => [.g a, .v b, .v (b + 1), .g d]
  | .plTopk d a b _ => [.g a, .g b, .g d]
  | .plPrm a _ => [.g a]
  | .plQry a b => [.g a, .g b]
  | .plClr a => [.g a]
  | .rsvOpen a b k => [.g a, .g b, .k k]
  | .rsvClaim _ a b k => [.v a, .g b, .k k]
  | .rsvRetire k => [.k k]
  | .amoAdd _ a b => [.g a, .g b]
  | .amoMin _ a b => [.g a, .g b]
  | .amoMax _ a b => [.g a, .g b]
  | .amoAnd _ a b => [.g a, .g b]
  | .amoOr _ a b => [.g a, .g b]
  | .amoXor _ a b => [.g a, .g b]
  | .amoSwap _ a b => [.g a, .g b]
  | .amoCas d a b => [.g a, .g b, .g d]
  | .amoFadd _ a b => [.g a, .g b]
  | .gbInit _ a => [.g a]
  | .gbWait _ b => [.g b]
  | .claimEl _ a b => [.g a, .g b]
  | .taskSpawn a b => [.g a, .g b]
  | .taskJoin _ a => [.g a]
  | .taskNotify a b => [.g a, .g b]
  | .vpRun a k => [.g a, .k k]
  | .vpBr a k => [.g a, .k k]
  | .vpStop k => [.k k]
  | .vpId _ k => [.k k]
  | .vpAny _ k => [.k k]
  | .sysWr _ a _ => [.g a]
  | .sysSet _ a _ => [.g a]
  | .sysClr _ a _ => [.g a]
  | .sysCall a _ => [.g a]
  | .sysBrk a _ => [.g a]
  | .sysTinval a b => [.g a, .g b]
  | _ => []

/-- What a form writes of a register. -/
inductive Dest where
  | none
  /-- all of it -/
  | whole (r : RegName)
  /-- the elements below VL of a vector register, all of them where no mask keeps one -/
  | elems (v : BitVec 5) (all : Bool)
  /-- the bits below VL of a mask register -/
  | mask (k : BitVec 3) (all : Bool)
  /-- the slots below VL of a small-matrix register, whole -/
  | slots (m : BitVec 3) (all : Bool)
  deriving DecidableEq, Repr

/-- The destination that a form writes without reading it. -/
def destOf : Instr → Dest
  | .add d _ _ => .whole (.g d)
  | .sub d _ _ => .whole (.g d)
  | .and d _ _ => .whole (.g d)
  | .or d _ _ => .whole (.g d)
  | .xor d _ _ => .whole (.g d)
  | .sll d _ _ => .whole (.g d)
  | .srl d _ _ => .whole (.g d)
  | .sra d _ _ => .whole (.g d)
  | .slt d _ _ => .whole (.g d)
  | .sltu d _ _ => .whole (.g d)
  | .min d _ _ => .whole (.g d)
  | .max d _ _ => .whole (.g d)
  | .minu d _ _ => .whole (.g d)
  | .maxu d _ _ => .whole (.g d)
  | .clz d _ => .whole (.g d)
  | .popc d _ => .whole (.g d)
  | .mul d _ _ => .whole (.g d)
  | .mulh d _ _ => .whole (.g d)
  | .mulhu d _ _ => .whole (.g d)
  | .div d _ _ => .whole (.g d)
  | .divu d _ _ => .whole (.g d)
  | .rem d _ _ => .whole (.g d)
  | .remu d _ _ => .whole (.g d)
  | .ldxB d _ _ => .whole (.g d)
  | .ldxBu d _ _ => .whole (.g d)
  | .ldxH d _ _ => .whole (.g d)
  | .ldxHu d _ _ => .whole (.g d)
  | .ldxW d _ _ => .whole (.g d)
  | .ldxWu d _ _ => .whole (.g d)
  | .ldxD d _ _ => .whole (.g d)
  | .blkBrk d => .whole (.g d)
  | .addi d _ _ => .whole (.g d)
  | .andi d _ _ => .whole (.g d)
  | .ori d _ _ => .whole (.g d)
  | .xori d _ _ => .whole (.g d)
  | .slli d _ _ => .whole (.g d)
  | .srli d _ _ => .whole (.g d)
  | .srai d _ _ => .whole (.g d)
  | .lui d _ => .whole (.g d)
  | .auipc d _ => .whole (.g d)
  | .jal d _ => .whole (.g d)
  | .jalr d _ _ => .whole (.g d)
  | .ldD d _ _ => .whole (.g d)
  | .vsetvl d _ _ => .whole (.g d)
  | .vprof d _ => .whole (.g d)
  | .vmfc d _ => .whole (.g d)
  | .vlq d _ => .whole (.g d)
  | .vfill d _ => .whole (.v d)
  | .vLd d _ _ => .elems d (true)
  | .vLds d _ _ k z => .elems d (k == 0 || z)
  | .vLdx d _ _ k z _ => .elems d (k == 0 || z)
  | .vLdb d _ k z => .elems d (k == 0 || z)
  | .vLdk d _ => .mask d (true)
  | .vLdq d _ k z => .elems d (k == 0 || z)
  | .vLdff d _ _ k z => .elems d (k == 0 || z)
  | .vLdc d _ k z => .elems d (k == 0 || z)
  | .vAdd d _ _ k z _ => .elems d (k == 0 || z)
  | .vSub d _ _ k z _ => .elems d (k == 0 || z)
  | .vMul d _ _ k z _ => .elems d (k == 0 || z)
  | .vMulh d _ _ k z _ => .elems d (k == 0 || z)
  | .vMin d _ _ k z _ => .elems d (k == 0 || z)
  | .vMax d _ _ k z _ => .elems d (k == 0 || z)
  | .vAbs d _ k z => .elems d (k == 0 || z)
  | .vNeg d _ k z => .elems d (k == 0 || z)
  | .vAnd d _ _ k z _ => .elems d (k == 0 || z)
  | .vOr d _ _ k z _ => .elems d (k == 0 || z)
  | .vXor d _ _ k z _ => .elems d (k == 0 || z)
  | .vNot d _ k z => .elems d (k == 0 || z)
  | .vSll d _ _ k z _ => .elems d (k == 0 || z)
  | .vSrl d _ _ k z _ => .elems d (k == 0 || z)
  | .vSra d _ _ k z _ => .elems d (k == 0 || z)
  | .vCeq d _ _ k z _ => .mask d (k == 0 || z)
  | .vCne d _ _ k z _ => .mask d (k == 0 || z)
  | .vClt d _ _ k z _ => .mask d (k == 0 || z)
  | .vCle d _ _ k z _ => .mask d (k == 0 || z)
  | .vCun d _ _ k z _ => .mask d (k == 0 || z)
  | .vCvt d _ _ k z => .elems d (k == 0 || z)
  | .vCvtz d _ _ k z => .elems d (k == 0 || z)
  | .vCvtp d _ _ k z => .elems d (k == 0 || z)
  | .vCvtm d _ _ k z => .elems d (k == 0 || z)
  | .vCvts d _ _ k z _ => .elems d (k == 0 || z)
  | .vPerm d _ _ k z _ => .elems d (k == 0 || z)
  | .vSlup d _ _ _ z => .elems d z
  | .vSldn d _ _ k z => .elems d (k == 0 || z)
  | .vComp d _ k z => .elems d (k == 0 || z)
  | .vExpd d _ k z => .elems d (k == 0 || z)
  | .vMrg d _ _ _ _ => .elems d true
  | .vCdet d _ k z => .elems d (k == 0 || z)
  | .vIota d _ k z => .elems d (k == 0 || z)
  | .vSplat d _ k z => .elems d (k == 0 || z)
  | .vExtr d _ _ => .whole (.g d)
  | .vKand d _ _ => .mask d (true)
  | .vKor d _ _ => .mask d (true)
  | .vKxor d _ _ => .mask d (true)
  | .vKandn d _ _ => .mask d (true)
  | .vKpop d _ => .whole (.g d)
  | .vKfirst d _ => .whole (.g d)
  | .vRsum d _ _ => .whole (.g d)
  | .vRmax d _ _ => .whole (.g d)
  | .vRmin d _ _ => .whole (.g d)
  | .vRall d _ _ => .whole (.g d)
  | .vRany d _ _ => .whole (.g d)
  | .vRxor d _ _ => .whole (.g d)
  | .vPsum d _ k z => .elems d (k == 0 || z)
  | .vPmax d _ k z => .elems d (k == 0 || z)
  | .vPmin d _ k z => .elems d (k == 0 || z)
  | .vRng d _ _ k z => .elems d (k == 0 || z)
  | .vRngf d _ _ k z => .elems d (k == 0 || z)
  | .mmMov d _ k => .slots d (k == 0)
  | .mmExt d _ _ k => .elems d (k == 0)
  | .mmDet d _ k => .elems d (k == 0)
  | .tlShape d _ => .whole (.g d)
  | .tlZero d => .whole (.acc d)
  | .tlExt d _ _ k z => .elems d (k == 0 || z)
  | .tlExtr d _ _ k z => .elems d (k == 0 || z)
  | .xsCnt d _ => .whole (.g d)
  | .xsWm d _ => .whole (.g d)
  | .xsCsum d _ => .whole (.g d)
  | .cbAcq d _ _ => .whole (.g d)
  | .cbStat d _ => .whole (.g d)
  | .plStat d => .whole (.g d)
  | .rsvWave d => .mask d (true)
  | .rsvStat d => .whole (.g d)
  | .amoAdd d _ _ => .whole (.g d)
  | .amoMin d _ _ => .whole (.g d)
  | .amoMax d _ _ => .whole (.g d)
  | .amoAnd d _ _ => .whole (.g d)
  | .amoOr d _ _ => .whole (.g d)
  | .amoXor d _ _ => .whole (.g d)
  | .amoSwap d _ _ => .whole (.g d)
  | .amoFadd d _ _ => .whole (.g d)
  | .gbArr d _ => .whole (.g d)
  | .detStep d => .whole (.g d)
  | .detLog d => .whole (.g d)
  | .claimEl d _ _ => .whole (.g d)
  | .taskJoin d _ => .whole (.g d)
  | .vpId d k => .elems d (k == 0)
  | .vpAny d _ => .whole (.g d)
  | .sysRd d _ _ => .whole (.g d)
  | .sysId d => .whole (.g d)
  | _ => .none

/-- A form that the XU executes and that writes a register of the control thread: g, or VL (R137, R217). -/
def controlDest (i : Instr) : Bool :=
  match i with
  | .vLdff _ _ _ _ _ | .vComp _ _ _ _ => true
  | i => match destOf i with
    | .whole (.g _) => true
    | _ => false

/-- Destination class and register of a form, as PIX names them: 2 and 0 also for one that writes no register of a class of
R188. -/
def pixDest (i : Instr) : BitVec 2 × BitVec 5 :=
  match i with
  | .vMadd d _ _ _ _ _ | .vMsub d _ _ _ _ _ | .vClamp d _ _ _ _ _ | .vWacc d _ _ _ _ _ | .rotC d _ _ _ _
  | .rotCg d _ _ _ _ | .axisC d _ _ _ _ | .axisCg d _ _ _ _ | .gainC d _ _ _ | .rotH d _ _ _ _
  | .rotHg d _ _ _ _ | .axisH d _ _ _ _ | .axisHg d _ _ _ _ | .gainH d _ _ _ | .rotL d _ _ _ _
  | .axisL d _ _ _ _ | .rotFold d _ _ _ | .rotUnfold d _ _ _ | .vcfg d _ _ _ => (clsV, d)
  | .mmShape d _ _ | .mmMov d _ _ | .mmIns d _ _ _ | .mmLd d _ _ _ | .mmMul d _ _ _ | .mmMadd d _ _ _
  | .mmMsub d _ _ _ | .mmTrn d _ _ | .mmChol d _ _ | .mmLu d _ _ | .mmTrsl d _ _ _ | .mmTrsu d _ _ _
  | .mmSolve d _ _ _ => (clsM, d.setWidth 5)
  | i => match destOf i with
    | .elems v _ | .whole (.v v) => (clsV, v)
    | .mask k _ | .whole (.k k) => (clsK, k.setWidth 5)
    | .slots m _ | .whole (.m m) => (clsM, m.setWidth 5)
    | _ => (clsMem, 0)

/-- The registers behind a name: rotated in loop mode (R192), the members of a group (R175). -/
def State.behind (s : State) (r : RegName) : List RegName :=
  match r with
  | .v n =>
    let o := s.vop n
    (List.range o.regs).map (fun i => .v (BitVec.ofNat 5 (o.base + i)))
  | r => [r]

/-- Storage that holds nothing: g0, and k0 as a mask. -/
def regFixed : RegName → Bool
  | .g n => n == 0
  | .k n => n == 0
  | _ => false

/-- The registers that a form reads in a state: tl.acc reads the accumulator word, or g[d] where g[b][15] has it written
(R269). -/
def State.readsIn (s : State) (i : Instr) : List RegName :=
  match i with
  | .tlAcc d a b => if (s.g b).getLsbD 15 then [.g b, .g d] else [.g b, .acc a]
  | .vLdff _ a _ k _ => [.g a, .k k]
  | i => readsOf i

/-- blk.run reads g[a] only where it starts a run of a body (R135, R136). -/
def State.runReads (s : State) (i : Instr) : Bool :=
  match i with
  | .blkRun _ _ => !blkAct s.core.blk.blk && blkN s.core.blk.blk != 0
  | _ => true

/-- The form reads a register that holds an uncorrectable error (R119). -/
def State.readsBad (s : State) (i : Instr) : Bool :=
  !s.core.regErr.isEmpty && s.runReads i && (s.readsIn i).any (fun r => !regFixed r && (s.behind r).any s.core.regErr.contains)

/-- A g register that a form writes beside its destination, or in some states only: the count of v.ldff (R207), the word
that tl.acc reads (R269). -/
def State.alsoWritten (s : State) (i : Instr) : List RegName :=
  match i with
  | .vLdff _ _ b _ _ => [.g b]
  | .tlAcc d _ b => if (s.g b).getLsbD 15 then [] else [.g d]
  | _ => []

/-- The registers that a completed form has written in full (R119). -/
def State.writtenWhole (s : State) (i : Instr) : List RegName :=
  s.alsoWritten i ++ match destOf i with
  | .none => []
  | .whole r => s.behind r
  | .elems v all => if all && decide ((s.vop v).cap ≤ s.core.vec.n) then s.behind (.v v) else []
  | .mask k all => if all && decide (8192 ≤ s.core.vec.n) then [.k k] else []
  | .slots m all => if all && decide (64 ≤ s.core.vec.n) then [.m m] else []

/-- After a form has completed, the registers written in full hold no error; a form that waits or traps clears none. -/
def State.clearErr (s : State) (i : Instr) : Out → Out
  | .next t =>
    if t.core.regErr.isEmpty || t.core.wait.isSome || t.core.sys != s.core.sys then .next t
    else
      let l := s.writtenWhole i
      .next (t.onCore (fun c => { c with regErr := c.regErr.filter (fun r => !l.contains r) }))
  | o => o

/-- A meaning with what registers that hold errors make of it: those written in full hold none afterwards; a run that
reads such an exit register traps there (R117, R119, R135; log 84). -/
def State.withErrors (s : State) (i : Instr) (f : State → Out) : Out :=
  if s.exitBad && !(s.writtenWhole i).contains (.g (blkXb s.core.blk.blk)) then
    match s.clearErr i (f (s.setExit 0)) with
    | .next t => .next (s.exitRead t)
    | o => o
  else s.clearErr i (f s)

end Sys2Proof.Machine
end

