-- ==== Sys2Proof/Machine/Image.lean ====
section
/-! DEFINITION. The context image, pre-emption and restore (R162, R187, R278, R300, R318, R399, R403–R408). The image
holds the architected state in the layout of R406; what engines hold beside it stands in the saved gang, to which the
engine records refer by a number (log 17). -/

namespace Sys2Proof.Machine

/-! ## The layout of R406 -/

/-- What a member's header says. -/
structure ImageHead where
  size : Nat
  rank : Nat
  pc : Word
  ctx : BitVec 8
  core : BitVec 8
  /-- double-trapped, with the second cause -/
  second : Option (BitVec 8)
  /-- the XU queue is not empty -/
  xu : Bool
  deriving DecidableEq, Repr

/-- A word of the header. -/
def ImageHead.word (h : ImageHead) (o : Nat) : Word :=
  if o = 0 then BitVec.ofNat 8 h.rank ++ BitVec.ofNat 8 h.size ++ 1#16 ++ 0x5A364358#32
  else if o = 8 then h.pc
  else if o = 16 then zext h.ctx
  else if o = 24 then
    let flags : BitVec 8 := (BitVec.ofBool h.xu ++ BitVec.ofBool h.second.isSome).setWidth 8
    match h.second with
    | none => (flags ++ (0#8 ++ h.core)).setWidth 64
    | some c => (0x9F#8 ++ c ++ flags ++ (0#8 ++ h.core)).setWidth 64
  else 0

/-- Tag, F and group of a register as vcfg writes them (R57). -/
def VReg.cfg (x : VReg) : Word := (x.grp ++ x.frac ++ x.tag.code).setWidth 64

/-- A word of an entry of the tile queue image. -/
def TileCmd.imageWord (t : TileCmd) (k : Nat) : Word :=
  match k with
  | 0 => zext t.word
  | 1 => 0
  | 2 => t.ga
  | 7 => BitVec.ofNat 64 t.seq
  | n + 3 => (t.gb.toList).getD n 0

/-- A word of an entry of the XU queue image (R187): the form's word, the mark of an entry and the progress index; VL,
MFC, VPROF; the scalar operands; MSHAPE; the address of the word (log 17). -/
def XuEntry.imageWord (x : XuEntry) (progress k : Nat) : Word :=
  match k with
  | 0 => (BitVec.ofNat 16 progress ++ 1#16 ++ x.word).setWidth 64
  | 1 => x.vl
  | 2 => x.mfc
  | 3 => x.vprof
  | 4 => rget x.g (fld x.word 11 5 : BitVec 5)
  | 5 => rget x.g (fld x.word 16 5 : BitVec 5)
  | 6 => x.mshape
  | _ => x.pc

/-- A word of the XU queue image (R406): PIX carries the progress of the oldest entry. -/
def VecState.xuWord (v : VecState) (o : Nat) : Word :=
  ((v.xuq[o / 64]?).map (fun x => x.imageWord (if o / 64 = 0 && pixV v.pix then pixG v.pix else 0) (o / 8 % 8))).getD 0

/-- A word of the body of a member's image below the scratchpad; sreg gives the state registers, id the number that the
engine records carry. -/
def Core.imageWord (c : Core) (h : ImageHead) (sreg : BitVec 7 → BitVec 5 → Word) (id o : Nat) : Word :=
  if o < 0x40 then h.word o
  else if o < 0x140 then (if o = 0x40 then 0 else (c.g.toList).getD ((o - 0x40) / 8) 0)
  else if o < 0x200 then 0
  else if o < 0x4200 then
    let n := BitVec.ofNat 7 ((o - 0x200) / 8)
    let i := BitVec.ofNat 5 ((o - 0x200) / 1024)
    if sregAssigned n i then sreg n i else 0
  else if o < 0x4300 then (rget c.vec.v (BitVec.ofNat 5 ((o - 0x4200) / 8))).cfg
  else if o < 0x4380 then
    let i := (o - 0x4300) / 4
    rget c.blk.words (BitVec.ofNat 5 (i + 1)) ++ rget c.blk.words (BitVec.ofNat 5 i)
  else if o < 0x4400 then 0
  else if o < 0x4C00 then c.vec.xuWord (o - 0x4400)
  else if o < 0x4E00 then ((c.tile.queue[(o - 0x4C00) / 64]?).map (fun t => t.imageWord ((o - 0x4C00) / 8 % 8))).getD 0
  else if o < 0x5000 then 0
  else if o < 0x7000 then
    let k := (o - 0x5000) / 1024
    if k = 0 then BitVec.allOnes 64 else fld (rget c.vec.k (BitVec.ofNat 3 k)) ((o - 0x5000) % 1024 * 8) 64
  else if o < 0x10000 then 0
  else if o < 0xA0000 then (if o = 0x10000 then BitVec.ofNat 64 (id + 1) else if o = 0x10008 then BitVec.ofNat 64 h.rank else 0)
  else if o < 0xC0000 then fld (rget c.vec.v (BitVec.ofNat 5 ((o - 0xA0000) / 4096))).data ((o - 0xA0000) % 4096 * 8) 64
  else if o < 0xD0000 then
    ((c.vp.pcs.find? (fun x => x.1.toNat == (o - 0xC0000) / 8)).map (fun x => x.2)).getD 0
  else if o < 0xE4000 then
    let m := rget c.mat.m (BitVec.ofNat 3 ((o - 0xD0000) / 10240))
    let e := (o - 0xD0000) % 10240 / 160
    let w := (o - 0xD0000) % 160
    if w < 144 then fld m.grid (1152 * e + 8 * w) 64 else if w = 144 then zext (fld m.perm (48 * e) 48) else 0
  else
    let i := (o - 0xE4000) / 8
    fld (rget c.tile.acc (BitVec.ofNat 1 (i / 15360))) (64 * (i % 15360)) 64

/-- Offsets within a slot: a member, the scratchpad in a member's image, the gang record (R405, R406). -/
def memberOff (r : Nat) : Nat := r * 0x320000
def scratchOff : Nat := 0x120000
def gangOff : Nat := 0x3200000

/-! ## Saving -/

/-- The offsets of the pages of a slot that a gang of a size fills. -/
def slotPages (g : Nat) : List Nat := (List.range (800 * g)).map (fun i => 4096 * i) ++ [gangOff]

/-- Every 4 KiB of a slot can be reached through the context's translation, and no data refuses the access (R405). -/
def State.slotReachable (s : State) (ctx : BitVec 8) (kind : AccKind) (va : Word) (g : Nat) : Bool :=
  (slotPages g).all (fun o => (s.unitPlace ctx kind (va + BitVec.ofNat 64 o) 4096).isSome)

/-- The frames of a core's scratchpad. -/
def scratchFrames (core : BitVec 8) : List Nat := (List.range 32).map (fun i => scratchBase core.toNat + 65536 * i)

/-- The data of a core's scratchpad refuses a save or a restore: a quarantined frame, or uncorrectable bytes that are read
(R118, R119). -/
def State.scratchRefuses (s : State) (kind : AccKind) (core : BitVec 8) : Bool :=
  (scratchFrames core).any (fun pa => s.unitRefused kind pa 65536)

/-- What ECC makes of the pages of a slot that are read or written for a context (R116–R118). -/
def State.touchSlot (s : State) (ctx : BitVec 8) (kind : AccKind) (va : Word) (g : Nat) : State :=
  if s.dev.softBytes.isEmpty && s.dev.badBytes.isEmpty then s
  else (slotPages g).foldl (fun t o => t.unitTouch ctx kind (va + BitVec.ofNat 64 o) 4096) s

/-- What ECC makes of a scratchpad that is read for a save (R116–R118). -/
def State.scrubScratch (s : State) (ctx : BitVec 8) (core : BitVec 8) : State :=
  (scratchFrames core).foldl (fun t pa => match eccFault t.dev pa 65536 with
    | some (_, bad) => t.unitBad ctx bad
    | none => t.correct pa 65536) s

/-- Writes words over a range, zeros included. -/
def putBlock (m : List Host.Cell) (pa : Nat) (l : List Byte) : List Host.Cell :=
  l.zipIdx.foldl (fun t b => if b.1 = 0 then t else Memory.set t (pa + b.2) b.1) (Memory.clear m pa (pa + l.length))

/-- Writes 4 KiB of words at an offset of a slot. -/
def State.putChunk (s : State) (ctx : BitVec 8) (va : Word) (o : Nat) (word : Nat → Word) : State :=
  match s.unitPlace ctx .xwrite (va + BitVec.ofNat 64 o) 4096 with
  | none => s
  | some pa => { s.overwrite pa 4096 with mem := putBlock s.mem pa ((List.range 512).flatMap (fun i => toBytes 8 (word (8 * i)).toNat)) }

/-- Copies 4 KiB of a core's scratchpad to an offset of a slot. -/
def State.saveScratch (s : State) (ctx : BitVec 8) (va : Word) (o : Nat) (core : BitVec 8) (i : Nat) : State :=
  match s.unitPlace ctx .xwrite (va + BitVec.ofNat 64 o) 4096 with
  | none => s
  | some pa => { s.overwrite pa 4096 with mem := Memory.copy s.mem (scratchBase core.toNat + 4096 * i) 4096 pa }

/-- Writes a member's image. -/
def State.saveMember (s : State) (ctx : BitVec 8) (va : Word) (g : Gang) (second : Option (BitVec 8)) (sid : Nat) (c : Core) : State :=
  let h : ImageHead := ⟨g.cores.length, c.rank, c.pc, ctx, c.id, second, !c.vec.xuq.isEmpty⟩
  let sreg := sregOf c (s.ctxAt ctx) g.share.gb (s.qstat ctx) s.dev.ecccnt
  let base := memberOff c.rank
  let s1 := (List.range 0x120).foldl (fun t i =>
    t.putChunk ctx va (base + 4096 * i) (fun o => c.imageWord h sreg sid (4096 * i + o))) s
  (List.range 512).foldl (fun t i => t.saveScratch ctx va (base + scratchOff + 4096 * i) c.id i) s1

/-- A word of the gang record: the barriers, and the session (R406; log 78). -/
def gangRecordWord (g : Gang) (x : Option Session) (sid o : Nat) : Word :=
  if o < 0x80 then rget g.share.gb (BitVec.ofNat 4 (o / 8))
  else if o = 0x100 then (if x.isSome then BitVec.ofNat 64 (sid + 1) else 0)
  else 0

/-- The session of a gang. -/
def State.sessionOf (s : State) (g : Gang) : Option Session :=
  (s.clAt g.cluster).quince.find? (fun x => x.owner == .gang g.id)

/-- The cores of a gang, by rank. -/
def State.members (s : State) (g : Gang) : List Core := g.cores.filterMap (fun c => s.coreAt (numbered c))

/-- Writes the whole image of a gang, under the number of the save. -/
def State.saveImage (s : State) (va : Word) (g : Gang) (second : Option (BitVec 8)) (sid : Nat) : State :=
  let x := s.sessionOf g
  let s1 := (s.members g).foldl (fun t c => t.saveMember g.ctx va g second sid c) s
  s1.putChunk g.ctx va gangOff (gangRecordWord g x sid)

/-- Destination class and register of the form of a word, as PIX names them (R188). -/
def wordDest (w : BitVec 32) : BitVec 2 × BitVec 5 :=
  match formOf (fieldsOf w) with
  | .error _ => (clsMem, 0)
  | .ok f => pixDest f.instr

/-- PIX at a pre-emption and at an event reports the oldest entry of the XU queue, also where none of its groups has
completed (R188); the entry keeps the shapes of its issue (R246). -/
def VecState.reported (v : VecState) : VecState :=
  match v.xuq with
  | [] => v
  | x :: _ =>
    let d := wordDest x.word
    if pixV v.pix && pixCls v.pix == d.1 && pixReg v.pix == d.2 then v
    else { v with pix := pixWord d.1 d.2 0, mcap := some x.mshape, rep := [], part := [] }

/-- A member as it stops: runs and lines stop being issued, a tile form after its step (R136, R278, R401). -/
def Core.stopped (c : Core) : Core :=
  let c := c.pauseRuns
  { c with tile := { c.tile with running := false }, vec := c.vec.reported }

/-- Streams to the members of a saved gang are held by their senders (R148, R409). -/
def Cmd.toAway (g : Gang) : Cmd → Cmd
  | .stream c => match c.near with
    | .remote t ch off => match g.cores.findIdx? (fun x => x == t) with
      | some r => .stream { c with near := .away g.id r ch off }
      | none => .stream c
    | _ => .stream c
  | .sloe c => .sloe c

/-- The cores of a gang that has been saved are free, and nothing of it is resident. -/
def State.evict (s : State) (g : Gang) : State :=
  let s1 := { s with gangs := s.gangs.filter (fun x => x.id != g.id) }
  let s2 := s1.onCl g.cluster (fun c => { c with quince := c.quince.filter (fun q => q.owner != .gang g.id) })
  (s2.mapCores (fun c => c.gang == some g.id) Core.freed).unholdCores g.cores

/-- The senders of a context hold what they send to a saved gang. -/
def State.holdSends (s : State) (g : Gang) : State :=
  let f (c : Core) : Core := { c with cmds := c.cmds.map (Cmd.toAway g) }
  (s.mapCores (fun c => !c.fw && s.inPart c.id g.ctx) f).onCtx g.ctx (fun x => { x with
    saved := x.saved.map (fun y => { y with cores := y.cores.map f }) })

/-- The lowest free slot, or the slot before it whose MAGIC cannot be read, at which a pre-emption stops (R405). -/
def State.freeSlotOf (s : State) (ctx : BitVec 8) : Option Nat :=
  (List.range (saveSlots (s.ctxAt ctx).savea)).find? (fun i => !s.slotFull ctx i)

/-- What ECC makes of the MAGIC words that a search for a free slot reads (R116–R118). -/
def State.scrubSearch (s : State) (ctx : BitVec 8) : State :=
  let n := match s.freeSlotOf ctx with
    | some i => i + 1
    | none => saveSlots (s.ctxAt ctx).savea
  if s.dev.softBytes.isEmpty && s.dev.badBytes.isEmpty then s
  else (List.range n).foldl (fun t i => t.unitScrub ctx ((t.ctxAt ctx).slotVa i) 8) s

/-- An event of a port of the core in focus is not due. -/
def State.idlePort (s : State) (f : State → Out) (p : BitVec 4) : Bool :=
  match f { s with ev := { EventArg.none with c := s.core.ref, p := p } } with
  | .next _ => false
  | _ => true

/-- A stream of the core in focus stands where a pre-emption may stop it: after a group of 16, or where it waits, with
what it has sent landed, or held (R153, R162, R401, R409). -/
def State.streamStands (s : State) (c : Cmd) : Bool :=
  match c with
  | .sloe _ => true
  | .stream x =>
    !x.active || ((decide (x.next % 16 = 0) && x.ahead.isEmpty)
      || s.idlePort execStreamElementComplete x.port)
      && (x.sends.isEmpty || s.idlePort execRemoteArrival x.port)

/-- Every member stands at a pre-emption point that admits it: each state between two steps is one (R401, R403). -/
def State.stoppable (s : State) (g : Gang) : Bool :=
  (s.members g).all (fun c => (c.run != .running || c.sys.admits)
    && c.cmds.all (s.focus c.ref).streamStands)

/-- A register of a member holds an uncorrectable error (R119). -/
def State.memberError (s : State) (g : Gang) : Bool := (s.members g).any (fun c => !c.regErr.isEmpty)

/-- The save traffic of a gang into the slot at va meets no fault: what it reads, registers included, holds no
uncorrectable error, and what it writes can be written (R118, R119, R405). -/
def State.saveable (s : State) (g : Gang) (va : Word) : Bool :=
  (s.slotWord g.ctx va).isSome && s.slotReachable g.ctx .xwrite va g.cores.length
    && g.cores.all (fun c => !s.scratchRefuses .xread c) && !s.memberError g

/-- What ECC makes of what a save into the slot at va reads and writes: the scratchpads, the registers, the descriptors
behind QSTAT and the slot (R116–R119). -/
def State.touchSave (s : State) (g : Gang) (va : Word) : State :=
  let s1 := (g.cores.foldl (fun t c => t.scrubScratch g.ctx c) s).scrubDescs g.ctx
  let s2 := s1.touchSlot g.ctx .xwrite va g.cores.length
  if s2.memberError g then s2.countUnc else s2

/-- A gang goes into a slot to be restored later; a fault of the save traffic stops the pre-emption, and QERR is posted
(R405). -/
def State.saveGang (s : State) (g : Gang) (slot : Nat) : State :=
  let va := (s.ctxAt g.ctx).slotVa slot
  let s' := s.touchSave g va
  if !s.saveable g va then (s'.onGang g.id (fun x => { x with due := none })).postEvt g.ctx evtQerr
  else
    let s0 := { s' with nextGang := s'.nextGang + 1 }.mapCores (fun c => c.gang == some g.id) Core.stopped
    let x : SavedGang :=
      { id := s.nextGang, gang := { g with due := none }, cores := s0.members g, session := s0.sessionOf g, slot := slot, stepped := false }
    let s1 := ((s0.saveImage va g none x.id).evict g).onCtx g.ctx (fun c => { c with saved := c.saved ++ [x] })
    s1.holdSends g

/-- A double-trapped gang goes into a slot, and its task ends as aborted (R399). -/
def State.saveDouble (s : State) (g : Gang) (slot : Nat) (second : BitVec 8) : State :=
  let va := (s.ctxAt g.ctx).slotVa slot
  let s' := s.touchSave g va
  if !s.saveable g va then s'.postEvt g.ctx evtQerr
  else
    let s0 := { s' with nextGang := s'.nextGang + 1 }.mapCores (fun c => c.gang == some g.id) Core.stopped
    ((s0.saveImage va g (some second) s.nextGang).endGang g true).queueErr g.ctx g.queue

/-- GANG_PREEMPT: every member stops, and the gang is saved into the lowest free slot, or discarded (R382, R399, R403,
R405). With nothing due it is a request of the service procedures (R403). -/
def execGangPreempt (s : State) : Out :=
  let g? := (s.coreAt s.ev.c).bind (fun c => c.gang.bind s.gangAt)
  match g? with
  | none => notDue "GANG_PREEMPT"
  | some g =>
    if !s.stoppable g then notDue "GANG_PREEMPT"
    else
      let u := s.scrubSearch g.ctx
      -- no free slot, and a search that has met an error
      let waits : Out := if u.dev = s.dev then notDue "GANG_PREEMPT" else .next u
      match g.due with
      | some .discard => .next (s.endGang g true)
      | some (.double c) => match s.freeSlotOf g.ctx with
        | some i => .next (u.saveDouble g i c)
        | none => waits
      | _ => match s.freeSlotOf g.ctx with
        | some i => .next (u.saveGang g i)
        | none => waits

/-! ## Restoring (R408, R449) -/

/-- The registers that a restore takes from the image, with their instances (R406; log 45). -/
def restoreRegs : List (BitVec 7) :=
  [0x00, 0x01, 0x03, 0x04, 0x05, 0x06, 0x07, 0x08, 0x09, 0x0A, 0x0B, 0x0C, 0x0D, 0x0E, 0x0F, 0x10, 0x11, 0x12, 0x13, 0x1B,
    0x1C, 0x20, 0x21, 0x22, 0x23, 0x24, 0x25, 0x27, 0x28, 0x41, 0x42, 0x43, 0x44, 0x45, 0x49]

/-- The bits of (N, I) that a restore takes: those of a supervisor write, and the ring registers, which no sys.wr sets
(R162, R166, R411). -/
def restoreMask (n : BitVec 7) (i : BitVec 5) : Word :=
  match n.toNat with
  | 0x24 => 0x3FFFFFFFFFFFFF
  | 0x25 => BitVec.allOnes 64
  | _ => sregMask n i ||| sregW1c n

/-- The number of words of a list as one value. -/
def wordsNat (rd : Nat → Word) (o n : Nat) : Nat := (List.range n).foldr (fun i a => a * 2 ^ 64 + (rd (o + 8 * i)).toNat) 0

/-- Where a state register stands in an image. -/
def sregOff (n : BitVec 7) (i : Nat) : Nat := 0x200 + 8 * (n.toNat + 128 * i)

/-- Puts a register of the image into a core. -/
def Core.restoreSreg (rd : Nat → Word) (c : Core) (n : BitVec 7) : Core :=
  let m := match sregRow n with
    | some (k, _, _) => k
    | none => 0
  (List.range (m + 1)).foldl (fun c i =>
    let b := BitVec.ofNat 5 i
    c.putSreg n b (sregFix (rd (sregOff 0x01 0)) n (rd (sregOff n i) &&& restoreMask n b))) c

/-- The STATUS of an image, at a level that a numbered core has. -/
def restoredStatus (x : Word) : Word := (x &&& 0x7C) ||| (if fld x 0 2 = 0#2 then 0 else 1)

/-- A vector register of the image; scale and extra bytes come with the engine records (R406). -/
def restoredV (rd : Nat → Word) (x : VReg) (i : Nat) : VReg :=
  let w := rd (0x4200 + 8 * i)
  { x with
    data := BitVec.ofNat 32768 (wordsNat rd (0xA0000 + 4096 * i) 512)
    tag := (Tag.ofCode (fld w 0 5)).getD x.tag
    frac := fld w 5 5
    grp := fld w 10 2 }

/-- The slots of an m register of the image, as one value of a field: width w bits from byte o of each. -/
def restoredSlots (rd : Nat → Word) (j o words w : Nat) : Nat :=
  (List.range 64).foldr (fun e a => a * 2 ^ w + wordsNat rd (0xD0000 + 10240 * j + 160 * e + o) words % 2 ^ w) 0

/-- The tile queue of the image; what the journal keeps of an entry comes with the engine records. -/
def restoredTiles (rd : Nat → Word) (old : List TileCmd) (j : Journal) : List TileCmd :=
  ((List.range 8).map (fun i =>
    let o := 0x4C00 + 64 * i
    (⟨fld (rd o) 0 32, rd (o + 16), Vector.ofFn (fun k : Fin 4 => rd (o + 24 + 8 * k.val)), (rd (o + 56)).toNat,
      ((old[i]?).map (fun t => t.journal)).getD j⟩ : TileCmd))).takeWhile (fun t => t.word != 0)

/-- The XU queue of the image (R187): the g registers at the issue of an entry come with the engine records, but for its
operands. -/
def restoredXu (rd : Nat → Word) (old : List XuEntry) : List XuEntry :=
  (((List.range 32).map (fun i => (i, 0x4400 + 64 * i))).takeWhile (fun x => fld (rd x.2) 32 16 == 1#16)).map (fun x =>
    let rd (k : Nat) : Word := rd (x.2 + 8 * k)
    let w : BitVec 32 := fld (rd 0) 0 32
    let g := ((old[x.1]?).map (fun y => y.g)).getD (Vector.replicate 32 0)
    { word := w, pc := rd 7, vl := rd 1, mfc := rd 2, vprof := rd 3, mshape := rd 6
      g := rset (rset g (fld w 11 5 : BitVec 5) (rd 4)) (fld w 16 5 : BitVec 5) (rd 5) })

/-- An entry of PERM of the image, from 0 to 5 (R244): one that no device writes is taken as 0. -/
def restoredPerm (x : Nat) : BitVec 3072 :=
  BitVec.ofNat 3072 ((List.range 384).foldr (fun i a =>
    let v := x / 2 ^ (8 * i) % 256
    256 * a + (if v < 6 then v else 0)) 0)

/-- A core with the architected state of an image over what else it holds. -/
def Core.overlay (c : Core) (rd : Nat → Word) : Core :=
  let c1 := restoreRegs.foldl (Core.restoreSreg rd) c
  { c1 with
    pc := rd 8
    g := Vector.ofFn (fun i : Fin 32 => if i.val = 0 then 0 else rd (0x40 + 8 * i.val))
    sys := { c1.sys with status := restoredStatus (rd (sregOff 0x40 0)), xlinfo := rd (sregOff 0x46 0) &&& 0xFFFF00FF00FF }
    vec := { c1.vec with
      v := Vector.ofFn (fun i : Fin 32 => restoredV rd (c1.vec.v[i]) i.val)
      k := Vector.ofFn (fun i : Fin 8 => if i.val = 0 then BitVec.allOnes 8192
        else BitVec.ofNat 8192 (wordsNat rd (0x5000 + 1024 * i.val) 128))
      xuq := restoredXu rd c.vec.xuq }
    blk := { c1.blk with words := Vector.ofFn (fun i : Fin 32 => fld (rd (0x4300 + i.val / 2 * 8)) (i.val % 2 * 32) 32) }
    mat := { c1.mat with m := Vector.ofFn (fun j : Fin 8 =>
      ⟨BitVec.ofNat 73728 (restoredSlots rd j.val 0 18 1152), restoredPerm (restoredSlots rd j.val 144 1 48)⟩) }
    tile := { c1.tile with
      acc := Vector.ofFn (fun i : Fin 2 => BitVec.ofNat 983040 (wordsNat (fun o => rd o &&& 0x3FFFFFFFFFFFFFF)
        (0xE4000 + 122880 * i.val) 15360))
      queue := restoredTiles rd c.tile.queue c.journal }
    vp := { c1.vp with pcs := c1.vp.pcs.map (fun x => (x.1, rd (0xC0000 + 8 * x.1.toNat))) } }

/-- A member as it starts again on a core: what belongs to the core itself stays (log 45). -/
def Core.restored (old new : Core) (gid rank : Nat) (ctx : BitVec 8) (q : BitVec 4) (rd : Nat → Word) : Core :=
  let c := old.overlay rd
  { c with
    id := new.id, fw := false, gang := some gid, rank := rank, tlb := new.tlb, ibuf := new.ibuf, mgmtReq := new.mgmtReq
    lastTask := some (ctx, q)
    run := if old.run = .exited then .exited else .running
    sys := { c.sys with evt := new.sys.evt ||| (rd (sregOff 0x48 0) &&& 0x1F), dsig := new.sys.dsig }
    vec := { c.vec with alc := new.vec.alc } }

/-- The bytes of an offset range of a slot, page by page, are all zero but for those below a place within the first. -/
def State.slotClear (s : State) (ctx : BitVec 8) (va : Word) (o pages skip : Nat) : Bool :=
  (List.range pages).all (fun i => match s.unitPlace ctx .xread (va + BitVec.ofNat 64 (o + 4096 * i)) 4096 with
    | none => false
    | some pa => (Memory.slice s.mem (if i = 0 then pa + skip else pa) (pa + 4096)).isEmpty)

/-- The header of a member's image and its engine records are as the device wrote them (R408; log 17): va is the member's
image, id the number of the save. -/
def State.memberOk (s : State) (ctx : BitVec 8) (va : Word) (id : Option Nat) (rank : Nat) : Bool :=
  let rd (o : Nat) : Word := (s.slotWord ctx (va + BitVec.ofNat 64 o)).getD 0
  fld (rd 0) 0 32 == 0x5A364358#32 && fld (rd 0) 32 16 == 1#16 && rd 16 == zext ctx
    && (match id with
      | some n => (rd 0x10000).toNat == n + 1 && (rd 0x10008).toNat == rank
      | none => false)
    && s.slotClear ctx va 0x10000 0x90 16

/-- A GBSTAT that no device writes (R408). -/
def gbBad (x : Word) : Bool := decide (16 < gbCount x) || (gbCount x != 0 && decide (gbCount x ≤ gbArrived x))

/-- The gang record of the slot at va is malformed (R408; log 78). -/
def State.recordBad (s : State) (ctx : BitVec 8) (va : Word) (x : Option SavedGang) : Bool :=
  let rd (o : Nat) : Word := (s.slotWord ctx (va + BitVec.ofNat 64 (gangOff + o))).getD 0
  (List.range 16).any (fun i => gbBad (rd (8 * i))) || !s.slotClear ctx va gangOff 1 0x108
    || match x with
      | some y => (rd 0x100).toNat != (if y.session.isSome then y.id + 1 else 0)
      | none => rd 0x100 != 0

/-- What a slot offers for restore: its words, the gang size, the save its engine records name, and whether that save has
been restored already, so that the slot holds a copy (R407, R408, R449). -/
structure SlotView where
  va : Word
  size : Nat
  saved : Option SavedGang
  copy : Bool
  deriving DecidableEq, Repr

/-- The words of a slot. -/
def State.slotRead (s : State) (ctx : BitVec 8) (va : Word) (o : Nat) : Word :=
  (s.slotWord ctx (va + BitVec.ofNat 64 o)).getD 0

/-- A slot that may be restored, with its save: the one that the engine records of its members name, those of the lowest rank
first, else the one that the gang record names, else the one that went into this slot (R408; log 17). It holds an image of
a possible size, not double-trapped, of a gang whose queue is not ABORTING (R449). -/
def State.slotView (s : State) (ctx : BitVec 8) (slot : Nat) : Option SlotView :=
  let va := (s.ctxAt ctx).slotVa slot
  let rd := s.slotRead ctx va
  let size := (fld (rd 0) 48 8).toNat
  let named (l : List SavedGang) : Option SavedGang := (List.range size).findSome? (fun r =>
    if (rd (memberOff r + 0x10008)).toNat = r then l.find? (fun y => y.id + 1 == (rd (memberOff r + 0x10000)).toNat) else none)
  let first := named (s.ctxAt ctx).saved
  let kept (_ : Unit) : Option SavedGang := ((s.ctxAt ctx).saved.find? (fun y => y.id + 1 == (rd (gangOff + 0x100)).toNat)).orElse
    (fun _ => (s.ctxAt ctx).saved.find? (fun y => y.slot == slot))
  let copy := if first.isSome then none else named (s.ctxAt ctx).copies
  let x := first.orElse (fun _ => copy.orElse kept)
  let aborting := match x with
    | some y => (s.queueRaw ctx y.gang.queue).state == .aborting
    | none => false
  if s.slotFull ctx slot && gangSizeOk size && !(rd 24).getLsbD 16 && !aborting then some ⟨va, size, x, copy.isSome⟩ else none

/-- Streams held for a gang go on to its new cores (R409). -/
def Cmd.fromAway (gid : Nat) (cores : List (BitVec 8)) : Cmd → Cmd
  | .stream c => match c.near with
    | .away g r ch off => if g = gid then .stream { c with near := .remote (cores.getD r 0) ch off } else .stream c
    | _ => .stream c
  | .sloe c => .sloe c

/-- The senders of a context go on sending to a gang that is resident again. -/
def State.freeSends (s : State) (ctx : BitVec 8) (gid : Nat) (cores : List (BitVec 8)) : State :=
  let f (c : Core) : Core := { c with cmds := c.cmds.map (Cmd.fromAway gid cores) }
  (s.mapCores (fun c => !c.fw && s.inPart c.id ctx) f).onCtx ctx (fun x => { x with
    saved := x.saved.map (fun y => { y with cores := y.cores.map f }) })

/-- A member takes cause 0x8E at once (R408). -/
def State.badImage (s : State) (core : BitVec 8) (tval : Word) : State :=
  let f := s.core.ref
  ((s.focus (numbered core)).enterTrap { cause := 0x8E, tval := tval }).focus f

/-- Copies the scratchpad of a member's image to a core. -/
def State.loadScratch (s : State) (ctx : BitVec 8) (va : Word) (o : Nat) (core : BitVec 8) (i : Nat) : State :=
  match s.unitPlace ctx .xread (va + BitVec.ofNat 64 o) 4096 with
  | none => s
  | some pa =>
    let dst := scratchBase core.toNat + 4096 * i
    { s.overwrite dst 4096 with mem := Memory.copy s.mem pa 4096 dst }

/-- Starts a member of a restored gang on its core. -/
def State.restoreMember (s : State) (ctx : BitVec 8) (v : SlotView) (gid : Nat) (q : BitVec 4) (core : BitVec 8) (r : Nat) :
    State :=
  let rd (o : Nat) : Word := s.slotRead ctx v.va (memberOff r + o)
  let base := match v.saved.bind (fun x => x.cores[r]?) with
    | some c => c
    | none => Core.reset core false .running
  -- DSTAT of a step that has ended meanwhile (R343)
  let stepped := !v.copy && v.saved.any (fun x => x.stepped)
  let s1 := s.mapCore (numbered core) (fun new =>
    let c := base.restored new gid r ctx q rd
    if stepped then { c with dstat := base.dstat } else c)
  (List.range 512).foldl (fun t i => t.loadScratch ctx v.va (memberOff r + scratchOff + 4096 * i) core i) s1

/-- A gang of a slot is restored into a position (R408). A slot whose save has been restored already holds a copy, whose
gang is a new one (R407). -/
def State.restoreGang (s : State) (ctx : BitVec 8) (slot : Nat) (v : SlotView) (base : Nat) : State :=
  let cl := BitVec.ofNat 4 (base / 16)
  let cores := positionCores base v.size
  let rd := s.slotRead ctx v.va
  let bad := s.recordBad ctx v.va v.saved
  let gid := match v.saved with
    | some x => if v.copy then s.nextGang else x.gang.id
    | none => s.nextGang
  let kept := match v.saved with
    | some x => x.gang.share
    | none => GangShare.start v.size
  let share := if bad then { kept with rendez := [], rdone := [] } else kept
  let gb := if bad then (GangShare.start v.size).gb
    else Vector.ofFn (fun i : Fin 16 => rd (gangOff + 8 * i.val) &&& 0xFFFFFFFF001F001F)
  let gang : Gang := {
    id := gid, ctx := ctx, cluster := cl, cores := cores, due := none, share := { share with gb := gb }
    queue := (v.saved.map (fun x => x.gang.queue)).getD 0
    join := (v.saved.map (fun x => x.gang.join)).getD 0
    exited := (v.saved.map (fun x => x.gang.exited)).getD [] }
  let s1 := { s with gangs := s.gangs ++ [gang], nextGang := s.nextGang + 1 }
  let s2 := cores.zipIdx.foldl (fun t x =>
    (t.restoreMember ctx v gid gang.queue x.1 x.2).mapCore (numbered x.1) (fun c => if bad then { c with rsvstat := 0 } else c)) s1
  let s3 := match (if bad then none else v.saved.bind (fun x => x.session)) with
    | some q => s2.onCl cl (fun c => { c with quince := c.quince ++ [{ q with owner := .gang gid }] })
    | none => s2
  let s4 := ((s3.freeSlot ctx slot).onCtx ctx (fun x => match v.saved with
    | some y => if v.copy then x else
      { x with saved := x.saved.filter (fun z => z.id != y.id), copies := x.copies ++ [y] }
    | none => x)).freeSends ctx gid cores
  let s5 := s4.wakeCluster cl
  cores.zipIdx.foldl (fun t x =>
    let at' := v.va + BitVec.ofNat 64 (memberOff x.2)
    if bad then t.badImage x.1 (v.va + BitVec.ofNat 64 gangOff)
    else if s.memberOk ctx at' (v.saved.map (fun y => y.id)) x.2 then t
    else t.badImage x.1 at') s5

/-- The position of a saved gang: one whose Quince can take its session (R365, R449). -/
def State.restorePosition (s : State) (ctx : BitVec 8) (v : SlotView) : Option Nat :=
  s.findPosition ctx v.size ((v.saved.bind (fun x => x.session)).map (fun x => x.ni))

/-- The restore traffic of a slot into a position meets no fault (R405). -/
def State.restorable (s : State) (ctx : BitVec 8) (v : SlotView) (base : Nat) : Bool :=
  s.slotReachable ctx .xread v.va v.size && (positionCores base v.size).all (fun c => !s.scratchRefuses .xwrite c)

/-- What ECC makes of the words of a slot by which the dispatcher sees what it offers (R116–R118): those of the header of
rank 0, and the names in the engine records. -/
def State.scrubView (s : State) (ctx : BitVec 8) (slot : Nat) : State :=
  let va := (s.ctxAt ctx).slotVa slot
  if s.dev.softBytes.isEmpty && s.dev.badBytes.isEmpty then s
  else
    let s1 := s.unitScrub ctx va 8
    if !s1.slotFull ctx slot then s1
    else (List.range (min 16 (fld (s1.slotRead ctx va 0) 48 8).toNat)).foldl
      (fun t r => t.unitScrub ctx (va + BitVec.ofNat 64 (memberOff r + 0x10000)) 16)
      ((s1.unitScrub ctx (va + 24) 8).unitScrub ctx (va + BitVec.ofNat 64 (gangOff + 0x100)) 8)

/-- A slot is restored where it offers a gang and a position for it is free; a fault of the restore traffic, that of
reading MAGIC among it, stops it, and QERR is posted (R405, R449). -/
def State.restoreSlot (s : State) (ctx : BitVec 8) (slot : Nat) : State :=
  let s := s.scrubView ctx slot
  if (s.slotWord ctx ((s.ctxAt ctx).slotVa slot)).isNone then s.postEvt ctx evtQerr
  else match s.slotView ctx slot with
  | none => s
  | some v => match s.restorePosition ctx v with
    | none => s
    | some b =>
      let s1 := s.touchSlot ctx .xread v.va v.size
      if s.restorable ctx v b then s1.restoreGang ctx slot v b else s1.postEvt ctx evtQerr

/-- Every saved gang for which a position is free is restored, in ascending slot order (R449). -/
def State.restoreAll (s : State) (ctx : BitVec 8) : State :=
  (List.range (saveSlots (s.ctxAt ctx).savea)).foldl (fun t i => t.restoreSlot ctx i) s

/-! ## Dispatch (R371, R372) -/

/-- The context is exhausted: a quota is set and nothing of it remains (R384, R385). -/
def Context.exhausted (x : Context) : Bool := fld x.eqcfg 0 24 != 0#24 && fld x.equota 0 32 == 0#32

/-- The dispatcher of a context places nothing (R385, R431, R444, R450). -/
def State.dispatchHeld (s : State) (ctx : BitVec 8) : Bool :=
  let x := s.ctxAt ctx
  s.dev.hold || s.dev.inReset || x.exhausted || x.heldBack
    || match s.dev.ckRun with
      | some (1, _) => true
      | _ => false

/-- A head of a queue (R371): from the chain, with the join block's address, or from the ring. -/
structure QHead where
  q : BitVec 4
  chain : Option Word
  item : Record
  deriving DecidableEq, Repr

/-- The head of a MAPPED queue (R371). -/
def State.headOf (s : State) (ctx : BitVec 8) (q : BitVec 4) : Option QHead :=
  let x := s.queueRaw ctx q
  if x.state ≠ .mapped then none
  else if x.chainH ≠ 0 then some ⟨q, some x.chainH, s.unitRecord ctx (x.chainH + 32)⟩
  else if x.head ≠ x.tail then some ⟨q, none, s.unitRecord ctx (x.slot x.head)⟩
  else none

/-- The record of the ring at HEAD, which is not the head of its queue while the chain holds one. -/
def State.ringHead (s : State) (ctx : BitVec 8) (q : BitVec 4) : Option QHead :=
  let x := s.queueRaw ctx q
  if x.state ≠ .mapped || x.head == x.tail then none else some ⟨q, none, s.unitRecord ctx (x.slot x.head)⟩

/-- RES (R371): the reserved head stays what it was, also where a join block has come to the chain of its queue since. -/
def State.resHead (s : State) (ctx : BitVec 8) : Option QHead :=
  (s.ctxAt ctx).res.bind (fun r => if r.2 then s.ringHead ctx r.1 else s.headOf ctx r.1)

/-- The heads of a context, in ascending queue number. -/
def State.heads (s : State) (ctx : BitVec 8) : List QHead :=
  (List.range 16).filterMap (fun i => s.headOf ctx (BitVec.ofNat 4 i))

/-- What ECC makes of the records that the dispatcher reads (R116–R118). -/
def State.scrubHeads (s : State) (ctx : BitVec 8) : State :=
  if s.dev.softBytes.isEmpty && s.dev.badBytes.isEmpty then s
  else (List.range 16).foldl (fun t i =>
    let x := t.queueRaw ctx (BitVec.ofNat 4 i)
    if x.state ≠ .mapped then t
    else
      let t1 := if x.head = x.tail then t else t.unitScrub ctx (x.slot x.head) 32
      if x.chainH = 0 then t1 else t1.unitScrub ctx (x.chainH + 32) 32) s

/-- The head cannot be placed (R371). -/
def QHead.bad (h : QHead) : Bool := h.item.bad || h.item.host

/-- A head is taken from its queue. -/
def State.takeHead (s : State) (ctx : BitVec 8) (h : QHead) : State :=
  match h.chain with
  | some _ => s.takeChain ctx h.q
  | none => s.takeRing ctx h.q

/-- A head that cannot be placed is taken; ERR is set, and its JOIN is signalled as aborted (R371). -/
def State.refuseHead (s : State) (ctx : BitVec 8) (h : QHead) : State :=
  let s1 := (s.takeHead ctx h).queueErr ctx h.q
  let s2 := match h.chain with
    | some j => s1.unitWrite ctx (j + 56) (toBytes 8 (putBit h.item.ctl 18 true).toNat)
    | none => s1
  s2.signalJoin ctx true h.item.join h.q

/-- The free position of a head (R365). -/
def State.headPosition (s : State) (ctx : BitVec 8) (h : QHead) : Option Nat :=
  s.findPosition ctx h.item.size (if h.item.rsv then some 0 else none)

/-- A head is placed. -/
def State.placeHead (s : State) (ctx : BitVec 8) (h : QHead) (base : Nat) : State :=
  (s.takeHead ctx h).placeGang ctx h.q h.item base

/-- The order in which the queues are asked (R371). -/
def queueOrder (rr : Vector (BitVec 2) 4) : List (BitVec 4) :=
  (List.range 4).flatMap (fun l => (List.range 4).map (fun i =>
    BitVec.ofNat 2 l ++ (rget rr (BitVec.ofNat 2 l) + BitVec.ofNat 2 i)))

/-- The head of greatest WAIT, the lowest queue on a tie, if some WAIT is at least 32 (R371). -/
def reserveFrom : List (BitVec 4 × Nat) → Option (BitVec 4 × Nat)
  | [] => none
  | x :: r => match reserveFrom r with
    | none => if 32 ≤ x.2 then some x else none
    | some y => if y.2 ≤ x.2 then some x else some y

/-- WAIT of the other heads grows, and one of them may be reserved (R371). -/
def Context.age (x : Context) (others : List QHead) : Context :=
  let qs := others.foldl (fun v h => rset v h.q { rget v h.q with wait := (rget v h.q).wait + 1 }) x.queues
  { x with
    queues := qs
    res := match x.res with
      | some r => some r
      | none => (reserveFrom (others.map (fun h => (h.q, (rget qs h.q).wait)))).bind (fun y =>
          (others.find? (fun h => h.q == y.1)).map (fun h => (h.q, h.chain.isNone))) }

/-- The round-robin place of a level moves past a queue (R371). -/
def Context.passQueue (x : Context) (q : BitVec 4) : Context :=
  { x with rr := rset x.rr (fld q 2 2 : BitVec 2) (fld q 0 2 + 1) }

/-- The head that is placed, with its position: the reserved one, or the first in order (R371). -/
def State.choose (s : State) (ctx : BitVec 8) (l : List QHead) : Option (QHead × Nat) :=
  let place (h : QHead) : Option (QHead × Nat) := (s.headPosition ctx h).map (fun b => (h, b))
  if (s.ctxAt ctx).res.isSome then (s.resHead ctx).bind place
  else (queueOrder (s.ctxAt ctx).rr).findSome? (fun q => (l.find? (fun h => h.q == q)).bind place)

/-- The step of R371; none where nothing can be placed. -/
def State.placeStep (s : State) (ctx : BitVec 8) : Option State :=
  let s := s.scrubHeads ctx
  let l := s.heads ctx
  match ((s.resHead ctx).toList ++ l).find? QHead.bad with
  | some h => some (s.refuseHead ctx h)
  | none => match s.choose ctx l with
    | none => none
    | some (h, b) =>
      let s1 := s.placeHead ctx h b
      if (s.ctxAt ctx).res.isSome then some s1
      else some (s1.onCtx ctx (fun x => (x.passQueue h.q).age (l.filter (fun y => y.q != h.q))))

/-- What the dispatcher of a context does at an opportunity; none where nothing changes (R371, R449). -/
def State.dispatch (s : State) (ctx : BitVec 8) : Option State :=
  if s.dispatchHeld ctx then none
  else
    let t := s.restoreAll ctx
    match t.placeStep ctx with
    | some u => some u
    | none => if t = s then none else some t

/-- DISPATCH: the dispatcher of a context restores saved gangs, then places a head (R371, R449). -/
def execDispatch (s : State) : Out :=
  match s.dispatch s.ev.ctx with
  | some t => .next t
  | none => notDue "DISPATCH"

/-! ## Pre-emption and events at a boundary (R65, R403–R405) -/

/-- The gang has a slot to go into, or needs none (R405). -/
def State.mayLeave (s : State) (g : Gang) : Bool := g.due == some .discard || (s.freeSlotOf g.ctx).isSome

/-- The gang of the core whose pre-emption is due and can go; one that waits for a free slot runs on (R403, R405). -/
def State.leaving (s : State) : Option Gang :=
  s.myGang.bind (fun g => if g.due.isSome && s.mayLeave g then some g else none)

/-- The matrix engine of the core in focus can do no step. -/
def State.engineStands (s : State) : Bool := s.idlePort execTileFormExecute 0 && s.idlePort execTileKStepComplete 0

/-- An enabled event goes before the next word: a pre-emption that is due and can go goes first, and a sys.wfi completes
first (R65, R404, R405, R416). -/
def State.eventPends (s : State) : Bool :=
  s.core.run == .running && !s.core.fw && s.core.sys.eventPending && s.core.sys.admits && s.leaving.isNone
    && s.core.wait != some .wfi

/-- That event is taken: multiply forms issued before it go on to their end, after which no trap of theirs can come in the
handler; one that stands at a wait is stopped at its K step (R396, R398, R401; log 8). -/
def State.eventDue (s : State) : Bool := s.eventPends && (!s.mulPending || s.engineStands)

/-- The state in which a trap between two words is precise: what was issued behind the oldest form that may still trap is
undone, and that form is the next word to issue; PIX or TPROG holds its progress (R63, R113, R188, R275, R398). -/
def State.rolledBack (s : State) : State :=
  match s.core.tile.queue.find? TileCmd.multiplies with
  | some c => s.undo c.journal
  | none => match s.core.vec.xuq with
    | x :: _ => (s.onVec VecState.reported).asEntry x
    | [] => s

/-- EVENT_TAKE: cause 0x80 (R404). It goes before what the queues hold, at the boundary of a group or a step (R113). -/
def execEventTake (s : State) : Out :=
  let s := s.focus s.ev.c
  if s.eventDue then (Res.trap s.rolledBack { cause := 0x80, tval := s.core.sys.eventVal, sync := false }).finish
  else notDue "EVENT_TAKE"

end Sys2Proof.Machine
end

