-- ==== Sys2Proof/Machine/Outside.lean ====
section
/-! DEFINITION. What the host, the peers and the management controller do: the command windows, CXL.mem accesses, Spaes
ports and Tygen messages (R333, R436–R445). -/

namespace Sys2Proof.Machine

/-! ## The command window of a context (R438) -/

/-- A write of HDOOR: a notify, or QERR (R379, R438). -/
def State.doorbell (s : State) (ctx : BitVec 8) (v : Word) : State :=
  let q : BitVec 4 := fld v 0 4
  let n := (fld v 16 16).toNat
  if v &&& 0xFFFFFFFF0000FFF0 != 0 || n == 0 || decide ((s.queue ctx q).notifyCap < n) then s.postEvt ctx evtQerr
  else s.notify ctx q n

/-- HOST_DOORBELL (R438). -/
def execHostDoorbell (s : State) : Out := .next (s.doorbell s.ev.ctx s.ev.val)

/-- The lowest-numbered core of a partition. -/
def State.lowestCore (s : State) (ctx : BitVec 8) : Option (BitVec 8) :=
  ((List.range 256).map (fun i => BitVec.ofNat 8 i)).find? (fun c => s.inPart c ctx)

/-- A write of EVTPOST (R404, R438). -/
def State.evtpost (s : State) (ctx : BitVec 8) (v : Word) : State :=
  if !v.getLsbD 0 then s
  else match s.lowestCore ctx with
    | some c => s.mapCore (numbered c) (fun x => { x with sys := { x.sys with evt := x.sys.evt ||| evtDoor } })
    | none => s

/-- HOST_EVTPOST (R438). -/
def execHostEvtpost (s : State) : Out := .next (s.evtpost s.ev.ctx s.ev.val)

/-- The port acts in the window of the context (R441). -/
def SpaesPort.serves (x : SpaesPort) (ctx : BitVec 8) : Bool := x.spown.getLsbD 63 && fld x.spown 0 8 == ctx

/-- A host write of SPRING or SPRX in the window of the owner; others ignore it (R440, R441). The engine begins a new ring
at its entry 0, once an entry in flight has completed (R442; log 19). -/
def State.spaesWrite (s : State) (ctx : BitVec 8) (p : BitVec 4) (rx : Bool) (v : Word) : State :=
  let x := rget s.dev.spaes p
  if !x.serves ctx then s
  else s.onDev (fun d => { d with spaes := rset d.spaes p (
    if rx then { x with sprx := v &&& 0xFFFFFFFFFFFF0000 }
    else { x with spring := v &&& 0xF0FFFFFFFFFFFFFF, head := 0, past := x.busy.isSome }) })

/-- A host write to a register at an offset of BAR0 (R438, R441, R444, R450; log 21). -/
def State.barWrite (s : State) (o : Nat) (v : Word) : State :=
  if o < 0x100000 then
    let ctx := BitVec.ofNat 8 (o / 0x1000)
    let r := o % 0x1000
    if r = 0x00 then s.hostQctl ctx v
    else if r = 0x10 then s.doorbell ctx v
    else if r = 0x18 then s.evtpost ctx v
    else if 0x100 ≤ r ∧ r < 0x200 ∧ r % 8 = 0 then
      s.spaesWrite ctx (BitVec.ofNat 4 ((r - 0x100) / 16)) (r % 16 == 8) v
    else s
  else if o = 0x100000 then s.ckCmd v
  else if o = 0x102000 then s.dierstWrite (v.getLsbD 0)
  else s

/-- What the host reads at an offset of BAR0 (R438, R441, R444, R450). -/
def State.barRead (s : State) (o : Nat) : Word :=
  if o < 0x100000 then
    let ctx := BitVec.ofNat 8 (o / 0x1000)
    let r := o % 0x1000
    let x := rget s.dev.spaes (BitVec.ofNat 4 ((r - 0x100) / 16))
    if r = 0x08 then s.qstat ctx
    else if r = 0x20 then (s.ctxAt ctx).qres
    else if 0x100 ≤ r ∧ r < 0x200 ∧ r % 8 = 0 ∧ x.serves ctx then (if r % 16 = 8 then x.sprx else x.spring)
    else 0
  else if o = 0x100000 then s.dev.ckctl
  else if 0x101000 ≤ o ∧ o < 0x101080 ∧ o % 8 = 0 then (rget s.dev.spaes (BitVec.ofNat 4 ((o - 0x101000) / 8))).spown
  else if o = 0x102000 then s.dev.dierst
  else 0

/-- CONTROL_REGISTER_WRITE: the management controller writes a register of the control space, or the host one of BAR0,
whose offsets lie below 2 MiB (R6, R8, R438; log 21). -/
def execControlRegisterWrite (s : State) : Out :=
  let a := s.ev.pa.toNat
  if a < 0x200000 then .next (s.barWrite a s.ev.val)
  else match ctlReg a with
    | some r => .next (ctlWrite s r s.ev.val)
    | none => notDue "CONTROL_REGISTER_WRITE"

/-! ## CXL.mem (R333, R437) -/

/-- Memory that an HDM decoder serves now: the region of a range that lies in one (R98, R437). -/
def State.hdmRegion (s : State) (pa n : Nat) : Option Region :=
  let r := regionOf pa
  if regionOf (pa + n - 1) != r then none
  else match r with
    | .device => if s.dev.inReset || s.dev.hold || !s.dev.mainPower then none else some r
    | .tier | .checkpoint => if s.dev.auxPower then some r else none
    | _ => none

/-- HOST_MEM_READ: served, or refused with an error completion; an uncorrectable error quarantines its frame (R118,
R437). -/
def execHostMemRead (s : State) : Out :=
  let pa := s.ev.pa.toNat
  let n := s.ev.len.toNat
  match s.hdmRegion pa n with
  | none => .next (s.send (.readError s.ev.pa))
  | some _ => match eccFault s.dev pa n with
    | some (_, some b) => .next ((s.quarantine b).send (.readError s.ev.pa))
    | some (_, none) => .next (s.send (.readError s.ev.pa))
    | none => .next ((s.correct pa n).send (.readData s.ev.pa (s.bytesAt pa n)))

/-- Writes are held at the I/O die while a take runs (R444). -/
def State.taking (s : State) : Bool := match s.dev.ckRun with
  | some (1, _) => true
  | _ => false

/-- A write from outside is performed, or held during a take; a page with DT = 1 takes it as it stands (R333, R338,
R444). -/
def State.outsideWrite (s : State) (w : HeldWrite) : State :=
  if s.taking then s.onDev (fun d => { d with heldWrites := d.heldWrites ++ [w] }) else s.landWrite w

/-- HOST_MEM_WRITE: applied in order of arrival, or refused with an error completion (R333, R437). -/
def execHostMemWrite (s : State) : Out :=
  let pa := s.ev.pa.toNat
  let n := s.ev.bytes.length
  match s.hdmRegion pa n with
  | none | some .checkpoint => .next (s.send (.writeError s.ev.pa))
  | some _ => .next (s.outsideWrite ⟨none, pa, s.ev.bytes⟩)

/-! ## Spaes (R439–R442) -/

/-- PEER_WRITE_IN: applied within the receive window of a port that serves a context, or refused (R333, R440, R441). -/
def execPeerWriteIn (s : State) : Out :=
  let x := rget s.dev.spaes s.ev.p
  let pa := sprxBase x.sprx + s.ev.off.toNat
  let n := s.ev.bytes.length
  if x.spown.getLsbD 63 && decide (s.ev.off.toNat + n ≤ sprxLen x.sprx) && s.hdmRegion pa n == some .device then
    .next (s.outsideWrite ⟨some s.ev.p, pa, s.ev.bytes⟩)
  else .next (s.send (.peerRefused s.ev.p))

/-- The local bytes of an entry, 64 at a time; none where a read or a translation fails. -/
def spaesBytes (s : State) (ctx : BitVec 8) (va : Word) : Nat → Option (List Byte)
  | 0 => some []
  | n + 1 =>
    match s.unitPlace ctx .xread va 64, spaesBytes s ctx (va + 64) n with
    | some pa, some l => some (Memory.read s.mem pa 64 ++ l)
    | _, _ => none

/-- What ECC makes of the local bytes that an entry names, 64 at a time (R116–R118). -/
def State.spaesScrub (s : State) (ctx : BitVec 8) (va : Word) (n : Nat) : State :=
  if s.dev.softBytes.isEmpty && s.dev.badBytes.isEmpty then s
  else (List.range n).foldl (fun t i => t.unitScrub ctx (va + BitVec.ofNat 64 (64 * i)) 64) s

/-- The entry's fields are as R440 asks. -/
def spaesOk (va len : Word) : Bool :=
  fld va 0 6 == 0#6 && fld len 0 6 == 0#6 && decide (64 ≤ len.toNat) && decide (len.toNat ≤ 2 ^ 30)

/-- SPAES_SEND_ENTRY: the engine of a port reads the next entry of its ring and sends its bytes (R440, R442). -/
def execSpaesSendEntry (s : State) : Out :=
  let p := s.ev.p
  let x := rget s.dev.spaes p
  let ctx : BitVec 8 := fld x.spown 0 8
  let k := springLog x.spring
  let due := x.spown.getLsbD 63 && decide (1 ≤ k) && decide (k ≤ 12) && x.busy.isNone
  let u := s.springScrub p
  -- a read of TAIL that finds an error, and nothing to send
  let idle : Out := if due && u != s then .next u else notDue "SPAES_SEND_ENTRY"
  match (if due then s.springTail p else none) with
  | none => idle
  | some t =>
    if t = x.head then idle
    else
      let va := springBase x.spring + BitVec.ofNat 64 (32 * (x.head.toNat % 2 ^ k))
      let s0 := u.unitScrub ctx va 32
      let r := s0.unitRecord ctx va
      let ok := spaesOk r.code r.join
      let data := if ok then spaesBytes s0 ctx r.code (r.join.toNat / 64) else none
      let s1 := (if ok then s0.spaesScrub ctx r.code (r.join.toNat / 64) else s0).onDev (fun d => { d with
        spaes := rset d.spaes p { x with busy := some r.ctl, bad := data.isNone } })
      .next (match data with
        | some l => s1.send (.peerData p r.frame l)
        | none => s1)

/-- SPAES_ENTRY_COMPLETE: the completion word gains 1, or 2^32 on a failure (R442). -/
def execSpaesEntryComplete (s : State) : Out :=
  let p := s.ev.p
  let x := rget s.dev.spaes p
  match x.busy with
  | none => notDue "SPAES_ENTRY_COMPLETE"
  | some c =>
    let add : Word := if s.ev.ok && !x.bad then 1 else 0x100000000
    let s0 := s.onDev (fun d => { d with spaes := rset d.spaes p { x with
      busy := none, past := false, bad := false, head := if x.past then x.head else x.head + 1 } })
    let s1 := s0.unitScrub (fld x.spown 0 8) c 8
    .next (match (if fld c 0 3 == 0#3 then s1.unitPlace (fld x.spown 0 8) .atomic c 8 else none) with
      | some pa => s1.poke pa (toBytes 8 (s1.peek64 pa + add).toNat)
      | none => s1)

/-! ## Tygen (R430, R445) -/

/-- The field of n bytes at an offset of a datagram. -/
def gramField (l : List Byte) (o n : Nat) : Nat := ofBytes ((l.drop o).take n)

/-- The header that every message carries. -/
def gramHeader (type count : Nat) (seq : Word) : List Byte :=
  toBytes 4 0x5459474E ++ toBytes 2 type ++ toBytes 2 count ++ toBytes 8 seq.toNat

/-- A datagram is a message of a type: its MAGIC and TYPE, and a body of a size before COUNT items of an item's size. -/
def gramIs (l : List Byte) (type body item : Nat) : Bool :=
  decide (gramField l 0 4 = 0x5459474E) && decide (gramField l 4 2 = type)
    && decide (l.length = 16 + body + item * gramField l 6 2)

/-- The offsets of the items of a datagram. -/
def gramItems (l : List Byte) (body item : Nat) : List Nat :=
  (List.range (gramField l 6 2)).map (fun i => 16 + body + item * i)

/-- The cap set that a datagram holds; none where it holds none. -/
def capSetOf (l : List Byte) : Option CapSet :=
  if gramIs l 1 8 8 && decide (gramField l 20 4 = 0) then some {
    seq := BitVec.ofNat 64 (gramField l 8 8)
    moduleCap := BitVec.ofNat 32 (gramField l 16 4)
    entries := (gramItems l 8 8).map (fun o =>
      ⟨BitVec.ofNat 8 (gramField l o 1), BitVec.ofNat 8 (gramField l (o + 1) 1), BitVec.ofNat 16 (gramField l (o + 4) 2)⟩) }
  else none

/-- SEQ and requests of a readback that a datagram holds; none where it holds none. -/
def readbackOf (l : List Byte) : Option (Word × List ReadReq) :=
  if gramIs l 2 0 16 then some (BitVec.ofNat 64 (gramField l 8 8), (gramItems l 0 16).map (fun o =>
    ⟨BitVec.ofNat 8 (gramField l o 1), BitVec.ofNat 8 (gramField l (o + 1) 1), BitVec.ofNat 8 (gramField l (o + 2) 1),
      BitVec.ofNat 8 (gramField l (o + 3) 1), BitVec.ofNat 64 (gramField l (o + 8) 8)⟩))
  else none

/-- The datagram of a reply; COUNT of an acknowledgement is 0 (log 22). -/
def OutMsg.datagram : OutMsg → List Byte
  | .capAck seq r => gramHeader 0x81 0 seq ++ toBytes 4 r.toNat
  | .readback seq l => gramHeader 0x82 l.length seq ++ l.flatMap (fun x => toBytes 8 x.1.toNat ++ toBytes 8 x.2.toNat)
  | _ => []

/-- Some quad belongs to the partition. -/
def State.partitionExists (s : State) (p : BitVec 8) : Bool :=
  s.dev.quadmap.toList.any (fun q => q.getLsbD 62 && !q.getLsbD 63 && fld q 0 8 == p)

/-- A cap set arrives: it is kept for the next interval unless stale, and acknowledged (R430, R445). -/
def State.capSet (s : State) (m : CapSet) : State :=
  let last := match s.dev.pendingCap with
    | some x => if s.dev.capSeq.ult x.seq then x.seq else s.dev.capSeq
    | none => s.dev.capSeq
  if !last.ult m.seq then s.send (.capAck m.seq 1)
  else
    let r : BitVec 32 := if m.entries.all (fun e => s.partitionExists e.part) then 0 else 2
    (s.onDev (fun d => { d with pendingCap := some m })).send (.capAck m.seq r)

/-- TYGEN_CAP_SET (R430, R445; log 22): a datagram that is no cap set is none. -/
def execTygenCapSet (s : State) : Out :=
  match (if s.ev.bytes.isEmpty then some s.ev.msg else capSetOf s.ev.bytes) with
  | some m => .next (s.capSet m)
  | none => notDue "TYGEN_CAP_SET"

/-- The saved image that holds the state of a core whose gang is not resident: its context, and the address of the member
where a slot still holds it (R445). -/
def State.imageOf (s : State) (core : BitVec 8) : Option (BitVec 8 × Option Word) :=
  let ctx := s.partOf core
  (s.ctxAt ctx).saved.findSome? (fun x => (x.cores.findIdx? (fun c => c.id == core)).map (fun r =>
    (ctx, ((s.slotsOf ctx x).head?).map (fun i => (s.ctxAt ctx).slotVa i + BitVec.ofNat 64 (memberOff r)))))

/-- Where the register of a readback lies in the saved image of the core, if it is read from there. -/
def State.imageReg (s : State) (core n i : BitVec 8) : Option (BitVec 8 × Option Word) :=
  match (s.coreAt (numbered core)).bind (fun c => c.gang), s.imageOf core with
  | none, some (x, va) => some (x, va.map (fun a => a + BitVec.ofNat 64 (sregOff (n.setWidth 7) (i.setWidth 5 : BitVec 5).toNat)))
  | _, _ => none

/-- What ECC makes of what a readback of a state register reads in memory: the saved image, or the descriptors behind QSTAT
(R116–R118). -/
def State.readbackTouch (s : State) (core n i : BitVec 8) : State :=
  match s.imageReg core n i with
  | some (x, _) =>
    let s1 := s.scrubSlots x
    match s1.imageReg core n i with
    | some (_, some va) => s1.unitScrub x va 8
    | _ => s1
  | none => if n = 0x18 then s.scrubDescs (s.partOf core) else s

/-- The value of a state register of a numbered core, from the core or its saved image; none where the number is
unassigned, or where the image cannot be read (R118, R445; log 22). -/
def State.readbackReg (s : State) (core n i : BitVec 8) : Option Word :=
  let n7 : BitVec 7 := n.setWidth 7
  let i5 : BitVec 5 := i.setWidth 5
  if n.getLsbD 7 || fld i 5 3 != 0#3 || !sregAssigned n7 i5 then none
  else match s.coreAt (numbered core) with
    | none => none
    | some c =>
      let ctx := s.partOf core
      let live : Word :=
        let gb := match c.gang.bind s.gangAt with
          | some g => g.share.gb
          | none => c.solo.gb
        sregOf c (s.ctxAt ctx) gb (s.qstat ctx) s.dev.ecccnt n7 i5
      match s.imageReg core n i with
      | some (x, va) => va.bind (s.slotWord x)
      | none => some live

/-- One reply of a readback: status and value (R445). -/
def State.readback (s : State) (r : ReadReq) : Word × Word :=
  let v := if r.kind = 0 then (ctlReg r.addr.toNat).map (ctlRead s)
    else if r.kind = 1 then s.readbackReg r.core r.n r.i else none
  match v with
  | some w => (0, w)
  | none => (1, 0)

/-- The requests of a readback, answered in turn: what each reads in memory is repaired, counted or quarantined first. -/
def State.readbacks (s : State) (l : List ReadReq) : State × List (Word × Word) :=
  l.foldl (fun x r =>
    let t := if r.kind = 1 then x.1.readbackTouch r.core r.n r.i else x.1
    (t, x.2 ++ [t.readback r])) (s, [])

/-- TYGEN_READBACK (R445; log 22): the reply carries the SEQ of the request; a datagram that is no readback is none. -/
def execTygenReadback (s : State) : Out :=
  match (if s.ev.bytes.isEmpty then some (s.ev.val, s.ev.reqs) else readbackOf s.ev.bytes) with
  | some (seq, l) =>
    let x := s.readbacks l
    .next (x.1.send (.readback seq x.2))
  | none => notDue "TYGEN_READBACK"

end Sys2Proof.Machine
end

