-- ==== Sys2Proof/Machine/Power.lean ====
section
/-! DEFINITION. Power, current and energy: current limits, the control interval, the currant token, and the energy quota
(R384, R385, R424–R432; log 18). Power and caps count in currants of 0.5 W, currents in units of 0.25 A, energy in units of
0.5 pJ. -/

namespace Sys2Proof.Machine

/-! ## Current and temperature (R426) -/

/-- ALC.LANES one value down: 64, 48, 32, 16 (R426). -/
def lanesDown (x : Word) : Word := if (fld x 0 7).toNat = 64 then 48 else if (fld x 0 7).toNat = 48 then 32 else 16

/-- ALC.LANES one value up (R426). -/
def lanesUp (x : Word) : Word := if (fld x 0 7).toNat = 16 then 32 else if (fld x 0 7).toNat = 32 then 48 else 64

/-- TJEM, TJHI and TJLO (R426). -/
def tjEm : Nat := 110
def tjHi : Nat := 100
def tjLo : Nat := 95

/-- Changes ALC of every core of a cluster. -/
def State.onLanes (s : State) (cl : BitVec 4) (f : Word → Word) : State :=
  s.mapCores (fun c => !c.fw && clusterOf c.id == cl) (fun c => { c with vec := { c.vec with alc := f c.vec.alc } })

/-- Every core of the cluster has 64 active lanes. -/
def State.allLanes (s : State) (cl : BitVec 4) : Bool :=
  s.cores.all (fun c => c.fw || clusterOf c.id != cl || c.vec.alc == 64)

/-- CLPSTAT.TEMP. -/
def Cluster.temp (c : Cluster) : Nat := (fld c.clpstat 32 8).toNat

/-- Current above ICMAX: one step down, Fcur of the next interval the target less 4; at TJEM or above, the emergency
(R426). -/
def State.overCurrent (s : State) (cl : BitVec 4) : State :=
  let s1 := (s.onLanes cl lanesDown).onCl cl (fun c => { c with fcurNext := some (max 32 (c.target - 4)) })
  if tjEm ≤ (s.clAt cl).temp then ((s1.onLanes cl (fun _ => 16)).onCl cl (fun c => { c with fth := 32 })).dropBoost else s1

/-- ICMAX, 220 A (R426). -/
def icMax : Nat := 880

/-- A sensed current is above ICMAX. -/
def overIcMax (amps : Nat) : Bool := decide (icMax < amps)

/-- The current of a cluster stayed below 0.9 × ICMAX for a whole interval (R426). -/
def quietSample (x : ClusterSample) : Bool := decide (10 * x.peak.toNat < 9 * icMax)

/-- CURRENT_LIMIT_TRIP (R426): the current that the sensor reads stands above ICMAX. -/
def execCurrentLimitTrip (s : State) : Out :=
  if overIcMax s.ev.val.toNat then .next (s.overCurrent s.ev.cl) else notDue "CURRENT_LIMIT_TRIP"

/-- CURRENT_LIMIT_REPEAT (R426): it still does, a further 50 ns on. -/
def execCurrentLimitRepeat (s : State) : Out :=
  if overIcMax s.ev.val.toNat then .next (s.overCurrent s.ev.cl) else notDue "CURRENT_LIMIT_REPEAT"

/-- The sensors' record of a cluster. -/
def clusterSample (x : Samples) (cl : BitVec 4) : ClusterSample := (x.clusters[cl.toNat]?).getD ⟨0, 0, 0xFFF, 0, 0, 0, 0, []⟩

/-- The record of a partition. -/
def partSample (x : Samples) (p : BitVec 8) : PartSample :=
  (x.parts.find? (fun y => y.part == p)).getD ⟨p, 0, 0, 0, 0, 0⟩

/-- Fth after an interval at a temperature (R426). -/
def thermalLimit (fth temp : Nat) : Nat :=
  if tjEm ≤ temp then 32 else if tjHi ≤ temp then max 32 (fth - 1) else if temp < tjLo then min 148 (fth + 1) else fth

/-- Fcur of the interval that begins (R426). -/
def Cluster.nextFcur (c : Cluster) (rises : Bool) : Nat :=
  match c.fcurNext with
  | some n => n
  | none => if rises then min 148 (c.fcur + 4) else c.fcur

/-- The response of a cluster to what its sensors report (R425, R426); one that is waking stays at 16 lanes (R434). -/
def State.senseCluster (s : State) (x : ClusterSample) (cl : BitVec 4) : State :=
  let hot := decide (tjEm ≤ x.temp.toNat)
  let full := s.allLanes cl
  let s1 := s.onCl cl (fun c => { c with
    fth := thermalLimit c.fth x.temp.toNat
    fcur := c.nextFcur (quietSample x && full)
    fcurNext := none
    power := x.power
    need := x.need
    clpstat := putFld (putFld c.clpstat 40 x.curr) 32 x.temp })
  s1.onLanes cl (fun a => if hot then 16 else if quietSample x && (s.clAt cl).state != clWaking then lanesUp a else a)

/-! ## Caps (R430, R431) -/

/-- THCAUSE.CAP and RANK. -/
def thCap (x : Word) : Nat := (fld x 48 16).toNat
def thRank (x : Word) : Nat := (fld x 40 8).toNat

/-- The controller applies the cap set that has arrived (R430); of two entries for one partition the later one holds. -/
def State.applyCaps (s : State) : State :=
  match s.dev.pendingCap with
  | none => s
  | some m =>
    let kept : CapSet := { m with entries := m.entries.filter (fun e => s.partitionExists e.part) }
    let s1 := s.onDev (fun d => { d with moduleCap := m.moduleCap, capSeq := m.seq, pendingCap := none, caps := some kept })
    { s1 with ctxs := s1.ctxs.mapIdx (fun i x =>
        let e := (m.entries.reverse.find? (fun e => e.part.toNat == i && s.partitionExists e.part)).getD ⟨0, 0, 0⟩
        { x with thcause := putFld (putFld x.thcause 48 e.cap) 40 e.rank }) }

/-- What the division knows of a partition (R431): D, cap, Fl, A, and whether a cut applies. -/
structure Portion where
  part : BitVec 8
  rank : Nat
  want : Nat
  cap : Nat
  floor : Nat
  allow : Nat
  cut : Bool
  deriving DecidableEq, Repr

/-- A partition's portion before the cuts. -/
def portionOf (x : Context) (y : PartSample) : Portion :=
  { part := y.part, rank := thRank x.thcause, want := y.demand, cap := thCap x.thcause, floor := y.floor
    allow := if thCap x.thcause = 0 then y.demand else min y.demand (thCap x.thcause), cut := false }

/-- Puts a portion into ascending rank, behind those of its rank. -/
def insertPortion (p : Portion) : List Portion → List Portion
  | [] => [p]
  | q :: r => if q.rank ≤ p.rank then q :: insertPortion p r else p :: q :: r

/-- Ascending rank, then ascending partition (R431). -/
def byRank (l : List Portion) : List Portion := l.foldl (fun r p => insertPortion p r) []

/-- The cuts (R431), and what remains excess. -/
def cutPortions : List Portion → Int → List Portion × Int
  | [], excess => ([], excess)
  | p :: r, excess =>
    if excess ≤ 0 then (p :: r, excess)
    else
      let cut := min excess (p.allow - p.floor : Nat)
      let t := cutPortions r (excess - cut)
      ({ p with allow := p.allow - cut.toNat, cut := decide (0 < cut) } :: t.1, t.2)

/-- The partitions held back while something remains excess (R431). -/
def heldPortions : List Portion → Int → List (BitVec 8)
  | [], _ => []
  | p :: r, excess => if excess ≤ 0 then [] else p.part :: heldPortions r (excess - p.allow)

/-- BC (R431): the module cap, or 3.2 kW, less the overhead, in currants. -/
def State.allowance (s : State) (overhead : Nat) : Int :=
  (if s.dev.moduleCap = 0 then 6400 else 2 * (s.dev.moduleCap.toNat : Int)) - overhead

/-- The partitions that exist, ascending. -/
def State.partitions (s : State) : List (BitVec 8) := ((List.range 256).map (BitVec.ofNat 8)).filter s.partitionExists

/-- The division of the allowance (R431): the portions in order of rank, and the partitions held back. -/
def State.divide (s : State) (x : Samples) : List Portion × List (BitVec 8) :=
  let l := byRank (s.partitions.map (fun p => portionOf (s.ctxAt p) (partSample x p)))
  let excess := l.foldl (fun n p => n + (p.allow : Int)) 0 - s.allowance x.overhead
  let t := cutPortions l excess
  (t.1, heldPortions t.1 t.2)

/-- A limit that follows a power: down a step above it, up a step below 0.97 of it (R431). -/
def followLimit (f power lim : Nat) : Nat :=
  if lim < power then max 32 (f - 1) else if 100 * power < 97 * lim then min 148 (f + 1) else f

/-! ## Energy (R384, R432) -/

/-- EQCFG.PERIOD. -/
def Context.period (x : Context) : Nat := (fld x.eqcfg 0 24).toNat

/-- Half picojoules in a millijoule. -/
def perMillijoule : Nat := 2000000000

/-- Takes the energy of an interval of 1 µs from REM: whole millijoules, the fraction carried (R384, R425, R432). EXH is
set when REM reaches 0 with a quota set (R385). -/
def Context.spend (x : Context) (energy : Nat) : Context :=
  let total := x.energy + energy
  let rem := (fld x.equota 0 32).toNat
  let rest := rem - total / perMillijoule
  let e := putFld x.equota 0 (BitVec.ofNat 32 rest)
  { x with
    energy := total % perMillijoule
    elapsed := if x.period = 0 then x.elapsed else x.elapsed + 1
    equota := if x.period ≠ 0 ∧ 0 < rem ∧ rest = 0 then putBit e 63 true else e }

/-- Fq (R432). -/
def Context.quotaLimit (x : Context) (energy : Nat) : Nat :=
  if x.period = 0 then 148
  else min 148 (max 32 (Config.quotaSteps energy (fld x.equota 0 32).toNat (x.period - x.elapsed) (fld x.thcause 32 8).toNat))

/-- The limits of a partition and its energy after an interval (R431, R432). -/
def Context.measure (x : Context) (y : PartSample) (p : Option Portion) (held : Bool) (energy : Nat) : Context :=
  let z := x.spend energy
  { z with
    fpc := if thCap x.thcause = 0 then min 148 (x.fpc + 1) else followLimit x.fpc y.power (min y.demand (thCap x.thcause))
    frk := match p with
      | some p => if p.cut then followLimit x.frk y.power p.allow else min 148 (x.frk + 1)
      | none => min 148 (x.frk + 1)
    fq := z.quotaLimit energy
    heldBack := held }

/-- The places in a cluster of the cores of a partition. -/
def State.coresIn (s : State) (p : BitVec 8) (cl : BitVec 4) : List Nat :=
  (List.range 16).filter (fun i => s.inPart (BitVec.ofNat 8 (16 * cl.toNat + i)) p)

/-- A partition's share of what a cluster measured (R432): of the cores' energy by active cycles, of the shared structures'
by core count, each rounded down; where no core was active, nothing is shared out by cycles (log 18). -/
def State.clusterEnergy (s : State) (x : ClusterSample) (p : BitVec 8) (cl : BitVec 4) : Nat :=
  let mine := s.coresIn p cl
  let cycles (l : List Nat) : Nat := l.foldl (fun n i => n + (x.active[i]?).getD 0) 0
  x.energy * cycles mine / max 1 (cycles (List.range 16)) + x.shared * mine.length / 16

/-- The energy of a partition in an interval (R432): its shares, 10 pJ a byte in device memory, 62.5 pJ in the second
tier. -/
def State.energyOf (s : State) (x : Samples) (p : BitVec 8) : Nat :=
  let y := partSample x p
  (List.range 16).foldl (fun n i =>
    let cl := BitVec.ofNat 4 i
    n + s.clusterEnergy (clusterSample x cl) p cl) (20 * y.devBytes + 125 * y.tierBytes)

/-! ## Targets (R427–R429) -/

/-- The boost need of a power: 0.18 of it, in whole currants (R427). -/
def boostNeed (power : Nat) : Nat := (18 * power + 99) / 100

/-- A move of a target by at most 8 steps, but for the emergency (R424). -/
def slew (old new : Nat) (emergency : Bool) : Nat := if emergency then new else max (old - 8) (min (old + 8) new)

/-- The boost grant of an interval (R427): the currants cover the need of the power last measured, and no limiter is
active. -/
def State.grant (s : State) (before : Vector Cluster 16) (cl : BitVec 4) : State :=
  let need := boostNeed (rget before cl).power
  let e := s.eligible cl
  s.onCl cl (fun c => { c with boost := e && decide (0 < need) && decide (need ≤ c.currants) })

/-- Every cluster moves toward its target (R424, R428); one that is waking stays at 32 steps until the interval after it
has returned to RUN (R434). -/
def State.retarget (s : State) (cl : BitVec 4) : State :=
  let f := s.fTarget cl
  s.onCl cl (fun c => if c.state == clWaking then c
    else
      let t := slew c.target f (decide (tjEm ≤ c.temp))
      { c with target := t, clpstat := putFld c.clpstat 24 (BitVec.ofNat 8 t) })

/-- THCAUSE of a partition as an interval begins (R429): ACT, HIST and BOOST tell of the interval that ends, in which the
limits and grants of the state before held. -/
def State.thcauseOf (s before : State) (p : BitVec 8) : Word :=
  let x := (s.ctxAt p).thcause
  let act := before.activeOf p
  let boost := (before.clustersOf p).any (fun c => (before.clAt c).boost)
  s.withTarget p (putBit (putFld (putFld x 16 ((fld x 16 5 : BitVec 5) ||| act)) 8 act) 0 boost)

/-- Every cluster in turn. -/
def State.eachCluster (s : State) (f : State → BitVec 4 → State) : State :=
  (List.range 16).foldl (fun t i => f t (BitVec.ofNat 4 i)) s

/-- The pool of spare currants at the start of an interval (R427): the allowance less the sum of every cluster's need at
its target without boost. -/
def State.spare (s : State) (overhead : Nat) : Nat :=
  (s.allowance overhead - s.clusters.toList.foldl (fun n c => n + (c.need : Int)) 0).toNat

/-- The gangs of the partitions held back become due (R403, R431). -/
def State.holdBack (s : State) (l : List (BitVec 8)) : State :=
  { s with gangs := s.gangs.map (fun g => if l.contains g.ctx && g.due.isNone then { g with due := some .save } else g) }

/-- The events of an interval: THROT where CAP, RANK or BIND changed, QUOTA where EXH was set (R385, R404, R429). -/
def State.intervalEvents (s : State) (before : Vector Context 256) : State :=
  (List.range 256).foldl (fun t i =>
    let p := BitVec.ofNat 8 i
    let x := rget before p
    let y := t.ctxAt p
    let t1 := if thKey x.thcause != thKey y.thcause then t.postEvt p evtThrot else t
    if !x.equota.getLsbD 63 && y.equota.getLsbD 63 then t1.postEvt p evtQuota else t1) s

/-- CONTROL_INTERVAL (R425): samples, caps, limits, division, energy, grants, targets and THCAUSE. -/
def execControlInterval (s : State) : Out :=
  let x := s.ev.smp
  let s1 := s.applyCaps.eachCluster (fun t cl => t.senseCluster (clusterSample x cl) cl)
  let d := s1.divide x
  let s2 : State := { s1 with ctxs := s1.ctxs.mapIdx (fun i c =>
    let p := BitVec.ofNat 8 i
    c.measure (partSample x p) (d.1.find? (fun y => y.part == p)) (d.2.contains p) (s1.energyOf x p)) }
  let s3 := ((s2.holdBack d.2).eachCluster (fun t cl => t.grant s.clusters cl)).eachCluster State.retarget
  let s4 : State := { s3 with ctxs := s3.ctxs.mapIdx (fun i c => { c with thcause := s3.thcauseOf s (BitVec.ofNat 8 i) }) }
  .next ((s4.intervalEvents s.ctxs).onDev (fun v => { v with
    interval := v.interval + 1, visits := 0, overhead := x.overhead, pool := s4.spare x.overhead }))

/-! ## The currant ring (R427) -/

/-- The need of a cluster at a visit: 0.18 of its power while eligible. -/
def State.needOf (s : State) (cl : BitVec 4) : Nat := if s.eligible cl then boostNeed (s.clAt cl).power else 0

/-- Moves currants between the pool and a cluster so that it holds n. -/
def State.holdCurrants (s : State) (cl : BitVec 4) (n : Nat) : State :=
  let h := (s.clAt cl).currants
  (s.onDev (fun d => { d with pool := d.pool + h - n })).onCl cl (fun c => { c with currants := n })

/-- The clusters of a die, ascending (R15). -/
def dieClusters (d : BitVec 2) : List (BitVec 4) := (List.range 4).map (fun i => d ++ BitVec.ofNat 2 i)

/-- CURRANT_TOKEN_VISIT (R427): due at the die that the token reaches next in this interval; the ring skips an isolated
cluster (R446). -/
def execCurrantTokenVisit (s : State) : Out :=
  if decide (s.dev.visits < 4) && decide (s.ev.die.toNat = (s.dev.interval + s.dev.visits) % 4) then
    let l := (dieClusters s.ev.die).filter (fun cl => !(s.clAt cl).isolated)
    let s1 := l.foldl (fun t cl => t.holdCurrants cl (min (t.clAt cl).currants (t.needOf cl))) s
    let s2 := l.foldl (fun t cl =>
      t.holdCurrants cl (min (t.needOf cl) ((t.clAt cl).currants + t.dev.pool))) s1
    .next (s2.onDev (fun d => { d with visits := d.visits + 1 }))
  else notDue "CURRANT_TOKEN_VISIT"

/-! ## Quotas (R384, R385) -/

/-- EQUOTA_EXHAUST (R385): REM stands at 0 with a quota set; EXH is set, and every gang of the context is to be
pre-empted. -/
def execEquotaExhaust (s : State) : Out :=
  let p := s.ev.ctx
  let x := s.ctxAt p
  let exh := x.equota.getLsbD 63
  if x.exhausted && (!exh || s.gangs.any (fun g => g.ctx == p && g.due.isNone)) then
    let s1 := s.onCtx p (fun c => { c with equota := putBit c.equota 63 true })
    let s2 := if exh then s1 else s1.postEvt p evtQuota
    .next (s2.holdBack [p])
  else notDue "EQUOTA_EXHAUST"

/-- QUOTA_REFILL (R384, R385): a period is over, REM := LIMIT; EXH stays. -/
def execQuotaRefill (s : State) : Out :=
  let p := s.ev.ctx
  let x := s.ctxAt p
  if x.period ≠ 0 ∧ x.period ≤ x.elapsed then
    .next (s.onCtx p (fun c => { c with
      equota := putFld c.equota 0 (fld c.eqcfg 32 32 : BitVec 32), elapsed := c.elapsed - c.period }))
  else notDue "QUOTA_REFILL"

end Sys2Proof.Machine
end

