-- ==== Sys2Proof/Machine/Rotation.lean ====
section
/-! DEFINITION. The rotation lanes: majors 0x24 to 0x27 (R224–R236). -/

namespace Sys2Proof.Machine

/-- The modes of the pipe (R227). -/
inductive RotMode where
  | circ | hyp | lin
  deriving DecidableEq, Repr

/-- The shift of iteration j (R227). -/
def rotShift (m : RotMode) (j : Nat) : Nat :=
  match m with
  | .hyp => if j ≤ 3 then j + 1 else if j ≤ 13 then j else j - 1
  | _ => j

/-! ## Angles and gains from their definitions (R228, R230; log 15) -/

/-- floor(π·2^160). -/
def piFix : Nat := 0x3243F6A8885A308D313198A2E03707344A4093822

/-- The odd power series of atan(2^−s) (alternating) or atanh(2^−s), in units of 2^−160; fuel terms from the k-th. -/
def angleSeries (alt : Bool) (s : Nat) : Nat → Nat → Int
  | 0, _ => 0
  | f + 1, k =>
    let t : Int := (2 ^ 160 / 2 ^ ((2 * k + 1) * s) / (2 * k + 1) : Nat)
    (if alt && k % 2 == 1 then -t else t) + angleSeries alt s f (k + 1)

/-- n / d rounded to nearest, ties to even. -/
def rdiv (n : Int) (d : Nat) : Int :=
  let q := n / (d : Int)
  let r := n % (d : Int)
  if (d : Int) < 2 * r || ((2 * r = (d : Int)) && q % 2 == 1) then q + 1 else q

/-- θ(mode, j) in units of 2^−160 radians (R228). -/
def thetaFix (m : RotMode) (j : Nat) : Int :=
  let s := rotShift m j
  match m with
  | .lin => (2 ^ (160 - s) : Nat)
  | .hyp => angleSeries false s 80 0
  | .circ => if s = 0 then (piFix / 4 : Nat) else angleSeries true s 80 0

/-- A(mode, j) for uz = 2^−k, in turns for an ang operand (R228). -/
def angleEntry (m : RotMode) (turns : Bool) (k j : Nat) : Int :=
  if turns && rotShift m j == 0 then (2 ^ (k - 3) : Nat)
  else if turns then rdiv (thetaFix m j * (2 ^ k : Nat)) (2 * piFix)
  else rdiv (thetaFix m j * (2 ^ k : Nat)) (2 ^ 160)

/-- Θ(mode, n) (R228). -/
def angleSum (m : RotMode) (turns : Bool) (k n : Nat) : Int := ((List.range n).map (angleEntry m turns k)).sum

/-- K² = num/den of n iterations (R230). -/
def gainSq (m : RotMode) : Nat → Nat × Nat
  | 0 => (1, 1)
  | n + 1 =>
    let r := gainSq m n
    let p := 4 ^ rotShift m n
    match m with
    | .lin => (1, 1)
    | .hyp => (r.1 * (p - 1), r.2 * p)
    | .circ => (r.1 * (p + 1), r.2 * p)

/-- C(mode, n) = round(2^32 / K) (R230). -/
def gainConst (m : RotMode) (n : Nat) : Nat :=
  let r := gainSq m n
  (XVal.isqrt (2 ^ 66 * r.2 / r.1) + 1) / 2

/-! ## Working values (R226) -/

/-- round_rne(x / 2^e) as an integer, of a finite value. -/
def toUnits (x : XVal) (e : Int) : Int :=
  match x with
  | .fin m f => roundInt .rne 0 m (f - e)
  | _ => 0

/-- The exponent of the working unit U of the pair (R226). -/
def pairUnit (t : VOp) (x y : XVal) : Int :=
  if t.tag.isFx then -((t.frac : Int) + 8)
  else
    match x.isZero, y.isZero with
    | true, true => -149
    | true, false => y.log2 - 37
    | false, true => x.log2 - 37
    | false, false => max x.log2 y.log2 - 37

/-- −log2 of uz (R226). -/
def angleUnit (q : VOp) : Nat := if q.tag.isAng then q.tag.width + 8 else if q.tag.isFx then q.frac + 8 else 38

/-- A value that stops an element from iterating (R235). -/
def XVal.special : XVal → Bool
  | .nan => true
  | .inf _ => true
  | _ => false

/-- Output rounding (R233): a result that rounds to zero takes +0. -/
def rotOut (t : VOp) (m e : Int) : Nat × Flags :=
  let r := t.tag.roundRne t.frac (.fin m e)
  if t.tag.isFloat && r.1 % 2 ^ (t.tag.width - 1) == 0 then (0, r.2) else r

/-- The quarter turns that a vector lies in (R232). -/
def sector (x y : Int) : Nat :=
  if 0 < x && -x ≤ y && y < x then 0
  else if 0 < y && -y < x && x ≤ y then 1
  else if x < 0 && x < y && y ≤ -x then 2
  else if y < 0 && y ≤ x && x < -y then 3
  else 0

/-- X, Y, Z in the pipe. -/
structure RotVals where
  x : Int
  y : Int
  z : Int
  deriving DecidableEq, Repr

/-- One iteration (R229). -/
def rotStep (m : RotMode) (rotates : Bool) (angle : Nat → Int) (v : RotVals) (j : Nat) : RotVals :=
  let sg : Int :=
    if rotates then (if m = .lin && v.z == 0 then 0 else if 0 ≤ v.z then 1 else -1)
    else if m = .lin && v.y == 0 then 0 else if 0 ≤ v.y then -1 else 1
  let xs := v.x / (2 ^ rotShift m j : Nat)
  let ys := v.y / (2 ^ rotShift m j : Nat)
  { x := match m with
      | .circ => v.x - sg * ys
      | .hyp => v.x + sg * ys
      | .lin => v.x
    y := v.y + sg * xs
    z := v.z - sg * angle j }

/-- The n iterations (R229). -/
def rotRun (m : RotMode) (rotates turns : Bool) (k n : Nat) (v : RotVals) : RotVals :=
  (List.range n).foldl (rotStep m rotates (angleEntry m turns k)) v

/-- A vector-to-axis operand lies outside the range (R236). -/
def axisOutside (m : RotMode) (n : Nat) (x y : Int) : Bool :=
  let ay : Int := y.natAbs
  match m with
  | .circ => x < 0 || (n == 1 && x < ay) || (n == 2 && 3 * x < ay) || (n == 3 && 13 * x < ay)
  | .hyp =>
    (x ≤ 0 && !(x == 0 && y == 0))
      || (match n with
          | 1 => x < 2 * ay
          | 2 => 2 * x < 3 * ay
          | 3 => 19 * x < 26 * ay
          | _ => 3 * x < 4 * ay)
  | .lin => (x ≤ 0 && !(x == 0 && y == 0)) || (2 ^ n - 1 : Nat) * x < (2 ^ (n - 1) : Nat) * ay

/-! ## Elements -/

/-- What a rotation form writes for an element: encodings, and flags. -/
structure RotOut where
  x : Nat
  y : Nat
  z : Nat
  flags : Flags
  deriving DecidableEq, Repr

/-- The forms: what they do and what they write (R225). -/
inductive RotKind where
  | rotate (g : Bool)
  | axis (g : Bool)
  | gain
  | fold
  | unfold
  deriving DecidableEq, Repr

/-- The pair rounded out, times c·2^ce (R233). -/
def pairOut (p : VOp) (x y eu c : Int) (ce : Int) (z : Nat) (fl : Flags) : RotOut :=
  let a := rotOut p (x * c) (eu + ce)
  let b := rotOut p (y * c) (eu + ce)
  ⟨a.1, b.1, z, fl ||| a.2 ||| b.2⟩

/-- A rotate form on working values (R229, R232–R236). -/
def rotateElem (m : RotMode) (g : Bool) (n : Nat) (p q : VOp) (xb yb zb : Nat) (x y eu : Int) : RotOut :=
  let k := angleUnit q
  let turns := q.tag.isAng
  let f := angFold zb q.tag.width
  let xy := if turns then quadRot f.1 x y else (x, y)
  let z : Int := if turns then f.2 * 256 else toUnits (q.tag.widen q.frac zb) (-k)
  if g && z == 0 then
    if turns && f.1 != 0 then pairOut p xy.1 xy.2 eu 1 0 zb 0 else ⟨xb, yb, zb, 0⟩
  else
    let out : Bool := !turns && angleSum m false k n < (z.natAbs : Int)
    let v := rotRun m true turns k n ⟨xy.1, xy.2, z⟩
    pairOut p v.x v.y eu (if g then (gainConst m n : Int) else 1) (if g then -32 else 0) zb (if out then flagRange else 0)

/-- A vector-to-axis form on working values (R229, R232–R236). -/
def axisElem (m : RotMode) (g : Bool) (n : Nat) (p q : VOp) (xb yb zb : Nat) (x y eu : Int) : RotOut :=
  let k := angleUnit q
  let turns := q.tag.isAng
  if x == 0 && y == 0 then ⟨xb, yb, zb, 0⟩
  else if g && y == 0 && 0 < x then ⟨xb, 0, zb, 0⟩
  else
    let qd := if turns then sector x y else 0
    let xy := quadRot ((4 - qd) % 4) x y
    let z0 : Int := if turns then 0 else toUnits (q.tag.widen q.frac zb) (-k)
    let out : Bool := !turns && axisOutside m n xy.1 xy.2
    let v := rotRun m false turns k n ⟨xy.1, xy.2, z0⟩
    let zr : Nat × Flags :=
      if turns then (wrapBits q.tag.width (zb + qd * (2 ^ (q.tag.width - 2) : Nat) + rdiv v.z 256), 0)
      else rotOut q v.z (-k)
    pairOut p v.x v.y eu (if g then (gainConst m n : Int) else 1) (if g then -32 else 0) zr.1
      (zr.2 ||| (if out then flagRange else 0))

/-- One active element of a rotation form (R226–R236). That a NaN or an infinity goes before the cases of R234 is the model's
choice (log 115), and so is that a gain form gives +0 for an f32 −0 (R233; log 13). -/
def rotElem (m : RotMode) (kd : RotKind) (n : Nat) (p q : VOp) (xb yb zb : Nat) : RotOut :=
  let xv := p.tag.widen p.frac xb
  let yv := p.tag.widen p.frac yb
  let zNan : Bool := match kd with
    | .gain => false
    | _ => (q.tag.widen q.frac zb).special
  if xv.special || yv.special || zNan then
    ⟨(p.tag.roundRne p.frac .nan).1, (p.tag.roundRne p.frac .nan).1, (q.tag.roundRne q.frac .nan).1, flagInv⟩
  else
    let eu := pairUnit p xv yv
    let x := toUnits xv eu
    let y := toUnits yv eu
    match kd with
    | .gain =>
      let c : XVal := .fin (gainConst m n) (-32)
      let zero (r : Nat × Flags) : Nat × Flags :=
        if p.tag.isFloat && r.1 % 2 ^ (p.tag.width - 1) == 0 then (0, r.2) else r
      let a := zero (p.tag.roundRne p.frac (xv.mul c))
      let b := zero (p.tag.roundRne p.frac (yv.mul c))
      ⟨a.1, b.1, zb, a.2 ||| b.2⟩
    | .fold =>
      let f := angFold zb q.tag.width
      let xy := quadRot f.1 x y
      pairOut p xy.1 xy.2 eu 1 0 (wrapBits q.tag.width f.2) 0
    | .unfold =>
      let qd := sector x y
      let xy := quadRot ((4 - qd) % 4) x y
      pairOut p xy.1 xy.2 eu 1 0 (wrapBits q.tag.width (zb + qd * (2 ^ (q.tag.width - 2) : Nat))) 0
    | .rotate g => rotateElem m g n p q xb yb zb x y eu
    | .axis g => axisElem m g n p q xb yb zb x y eu

/-- The form writes x: every one but the linear ones (R225). -/
def writesX (m : RotMode) : Bool := m != .lin

/-- The form writes z (R225). -/
def RotKind.writesZ : RotKind → Bool
  | .axis _ | .fold | .unfold => true
  | _ => false

/-- Angle tags that a major accepts (R224). -/
def angleOk (m : RotMode) (kd : RotKind) (t : Tag) : Bool :=
  match kd with
  | .gain => true
  | .fold | .unfold => t.isAng
  | _ => t.isFx || t == .f32 || (m == .circ && t.isAng)

/-- The checks of R224 in their order. -/
def State.rotTrap (s : State) (m : RotMode) (kd : RotKind) (d a : BitVec 5) : Option Trap :=
  let p := s.vop d
  let y := s.vop (d + 1)
  let q := s.vop a
  let usesA : Bool := kd != .gain
  firstTrap [(usesA && (s.physV a == s.physV d || s.physV a == s.physV (d + 1)), plainTrap 0x46),
    (!(p.tag.isFx || p.tag == .f32) || (usesA && !angleOk m kd q.tag), plainTrap 0x43), (p.differs y, plainTrap 0x42),
    (s.overCap (if usesA then [p, y, q] else [p, y]), plainTrap 0x44)]

/-- Writes what a rotation form writes for element e. -/
def State.putRot (s : State) (m : RotMode) (kd : RotKind) (p y q : VOp) (e : Nat) (o : RotOut) : State :=
  let s1 := if writesX m then s.putElem p e o.x else s
  let s2 := s1.putElem y e o.y
  (if kd.writesZ then s2.putElem q e o.z else s2).flag o.flags

/-- A rotation form (R225, R237): element-wise over v[d], v[d+1] and v[a]. -/
def rotForm (m : RotMode) (kd : RotKind) (d a : BitVec 5) (n : Nat) (k : BitVec 3) (z : Bool) (s : State) : Res :=
  let p := s.vop d
  let y := s.vop (d + 1)
  let q := s.vop a
  Res.check s (s.rotTrap m kd d a)
    (.done ((s.elems (s.startGroup clsV d)).foldl (fun u e =>
      if s.act k e then u.putRot m kd p y q e (rotElem m kd n p q (s.vbits p e) (s.vbits y e) (s.vbits q e))
      else if z && s.inact k e then u.putRot m kd p y q e ⟨0, 0, 0, 0⟩
      else u) s.clearPix))

/-- rot.c (R229). -/
def execRotC (d a b : BitVec 5) (k : BitVec 3) (z : Bool) (s : State) : Out :=
  (rotForm .circ (.rotate false) d a (b.toNat + 1) k z s).finish

/-- rot.cg (R229, R231). -/
def execRotCg (d a b : BitVec 5) (k : BitVec 3) (z : Bool) (s : State) : Out :=
  (rotForm .circ (.rotate true) d a (b.toNat + 1) k z s).finish

/-- axis.c (R229). -/
def execAxisC (d a b : BitVec 5) (k : BitVec 3) (z : Bool) (s : State) : Out :=
  (rotForm .circ (.axis false) d a (b.toNat + 1) k z s).finish

/-- axis.cg (R229, R231). -/
def execAxisCg (d a b : BitVec 5) (k : BitVec 3) (z : Bool) (s : State) : Out :=
  (rotForm .circ (.axis true) d a (b.toNat + 1) k z s).finish

/-- gain.c (R231). -/
def execGainC (d b : BitVec 5) (k : BitVec 3) (z : Bool) (s : State) : Out :=
  (rotForm .circ .gain d 0 (b.toNat + 1) k z s).finish

/-- rot.h (R229). -/
def execRotH (d a b : BitVec 5) (k : BitVec 3) (z : Bool) (s : State) : Out :=
  (rotForm .hyp (.rotate false) d a (b.toNat + 1) k z s).finish

/-- rot.hg (R229, R231). -/
def execRotHg (d a b : BitVec 5) (k : BitVec 3) (z : Bool) (s : State) : Out :=
  (rotForm .hyp (.rotate true) d a (b.toNat + 1) k z s).finish

/-- axis.h (R229). -/
def execAxisH (d a b : BitVec 5) (k : BitVec 3) (z : Bool) (s : State) : Out :=
  (rotForm .hyp (.axis false) d a (b.toNat + 1) k z s).finish

/-- axis.hg (R229, R231). -/
def execAxisHg (d a b : BitVec 5) (k : BitVec 3) (z : Bool) (s : State) : Out :=
  (rotForm .hyp (.axis true) d a (b.toNat + 1) k z s).finish

/-- gain.h (R231). -/
def execGainH (d b : BitVec 5) (k : BitVec 3) (z : Bool) (s : State) : Out :=
  (rotForm .hyp .gain d 0 (b.toNat + 1) k z s).finish

/-- rot.l (R229). -/
def execRotL (d a b : BitVec 5) (k : BitVec 3) (z : Bool) (s : State) : Out :=
  (rotForm .lin (.rotate false) d a (b.toNat + 1) k z s).finish

/-- axis.l (R229). -/
def execAxisL (d a b : BitVec 5) (k : BitVec 3) (z : Bool) (s : State) : Out :=
  (rotForm .lin (.axis false) d a (b.toNat + 1) k z s).finish

/-- rot.fold (R232). -/
def execRotFold (d a : BitVec 5) (k : BitVec 3) (z : Bool) (s : State) : Out :=
  (rotForm .circ .fold d a 1 k z s).finish

/-- rot.unfold (R232). -/
def execRotUnfold (d a : BitVec 5) (k : BitVec 3) (z : Bool) (s : State) : Out :=
  (rotForm .circ .unfold d a 1 k z s).finish

end Sys2Proof.Machine
end

