-- ==== Sys2Proof/Machine/SmallMat.lean ====
section
/-! DEFINITION. Small-matrix registers: majors 0x28 to 0x2B (R244–R263). -/

namespace Sys2Proof.Machine

/-! ## Shapes (R247) -/

/-- The MSHAPE byte of a register: KIND, COLS, ROWS. -/
structure Shape where
  kind : BitVec 2
  cols : Nat
  rows : Nat
  deriving DecidableEq, Repr

/-- The byte of register r in an MSHAPE word. -/
def shapeOf (x : Word) (r : BitVec 3) : Shape :=
  let b : Byte := getF 8 x r.toNat
  ⟨fld b 6 2, (fld b 3 3 : BitVec 3).toNat, (fld b 0 3 : BitVec 3).toNat⟩

/-- A shape as its byte. -/
def Shape.byte (h : Shape) : Byte := h.kind ++ BitVec.ofNat 3 h.cols ++ BitVec.ofNat 3 h.rows

/-- Sets the shape and KIND of a register (R246). -/
def State.setShape (s : State) (r : BitVec 3) (h : Shape) : State :=
  s.onMat (fun m => { m with mshape := setF m.mshape r.toNat h.byte })

/-- KIND codes (R244). -/
def kGen : BitVec 2 := 0
def kChol : BitVec 2 := 1
def kLu : BitVec 2 := 2

/-- The shapes that a form captures: those it captured before, where PIX stands at it, else the present ones (R246). -/
def State.captured (s : State) (cls : BitVec 2) (reg : BitVec 5) : Word :=
  if s.pixAt cls reg then s.core.vec.mcap.getD s.core.mat.mshape else s.core.mat.mshape

/-! ## Grids -/

/-- The 36 values of a slot. -/
abbrev Grid := Vector Nat 36

/-- Value (i, j). -/
def Grid.at (g : Grid) (i j : Nat) : Nat := (g[6 * i + j]?).getD 0

/-- Replaces value (i, j). -/
def Grid.put (g : Grid) (i j v : Nat) : Grid := g.setIfInBounds (6 * i + j) v

/-- The grid of slot e. -/
def MReg.slot (m : MReg) (e : Nat) : Grid := Vector.ofFn (fun p => (getF 32 m.grid (36 * e + p) : BitVec 32).toNat)

/-- PERM of slot e. -/
def MReg.permOf (m : MReg) (e : Nat) : List Nat := (List.range 6).map (fun i => (getF 8 m.perm (6 * e + i) : Byte).toNat)

/-- Writes the values inside a shape. -/
def MReg.putSlot (m : MReg) (e rows cols : Nat) (g : Grid) : MReg :=
  { m with grid := (List.range rows).foldl (fun x i => (List.range cols).foldl (fun x j =>
      setF x (36 * e + 6 * i + j) (BitVec.ofNat 32 (g.at i j))) x) m.grid }

/-- Writes PERM of slot e. -/
def MReg.putPerm (m : MReg) (e : Nat) (l : List Nat) : MReg :=
  { m with perm := (l.zipIdx).foldl (fun x p => setF x (6 * e + p.2) (BitVec.ofNat 8 p.1)) m.perm }

/-- The identity permutation. -/
def permId : List Nat := [0, 1, 2, 3, 4, 5]

/-! ## Arithmetic (R250) -/

/-- A slot at work: values, PERM, the flags so far and the column or row of the first failure. -/
structure MW where
  w : Grid
  perm : List Nat
  flags : Flags
  fail : Option Nat
  deriving DecidableEq, Repr

/-- Starts on a grid. -/
def MW.of (g : Grid) (p : List Nat) : MW := ⟨g, p, 0, none⟩

/-- Stores a rounded value with its flags. -/
def MW.put (m : MW) (i j : Nat) (r : Nat × Flags) : MW := { m with w := m.w.put i j r.1, flags := m.flags ||| r.2 }

/-- fail(j) (R249). -/
def MW.failAt (m : MW) (j : Nat) : MW := { m with fail := some (m.fail.getD j) }

/-- A fused step: round_rne(t + x·y) or round_rne(t − x·y). -/
def fused (sub : Bool) (t x y : Nat) : Nat × Flags :=
  let p := (wF32 x).mul (wF32 y)
  rF32 (if sub then (wF32 t).sub p else (wF32 t).add p)

/-- A chain of fused steps on one value. -/
def fusedSum (sub : Bool) (t : Nat × Flags) (l : List (Nat × Nat)) : Nat × Flags :=
  l.foldl (fun a p => let r := fused sub a.1 p.1 p.2; (r.1, a.2 ||| r.2)) t

/-- A division and a root. -/
def divF32 (x y : Nat) : Nat × Flags := rF32 ((wF32 x).div (wF32 y))
def sqrtF32 (x : Nat) : Nat × Flags := rF32 (wF32 x).sqrt

/-- MMCTL. -/
structure Pivot where
  thr : XVal
  te : Bool
  deriving DecidableEq, Repr

/-- thr and TE of MMCTL (R248). -/
def MatState.pivot (m : MatState) : Pivot := ⟨(wF32 (fld m.mmctl 0 32 : BitVec 32).toNat).abs, m.mmctl.getLsbD 32⟩

/-- A pivot value fails (R249). -/
def Pivot.fails (p : Pivot) (x : XVal) : Bool := x.isNan || p.thr.isNan || x.abs.lt p.thr || x.isZero

/-- The value s under the root fails (R249, R256). -/
def Pivot.rootFails (p : Pivot) (x : XVal) : Bool := x.isNan || p.thr.isNan || x.lt p.thr || !XVal.zero.lt x

/-! ## The algorithms -/

/-- mm.mul, mm.madd, mm.msub (R254): T of A (r × c) and B (c × q). -/
def matProduct (mul sub : Bool) (r c q : Nat) (d a b : Grid) : MW :=
  (List.range r).foldl (fun m i => (List.range q).foldl (fun m j =>
    let terms := (List.range c).map (fun k => (a.at i k, b.at k j))
    let t := if mul then
        fusedSum false (rF32 ((wF32 (a.at i 0)).mul (wF32 (b.at 0 j)))) (terms.drop 1)
      else fusedSum sub (d.at i j, 0) terms
    m.put i j t) m) (MW.of d permId)

/-- mm.chol (R256). A NaN that only meets the test of a pivot or of THR, here as in the other algorithms, sets no INV: R249
and R250 name MMFLG and the arithmetic steps, R77 any operation that receives a NaN, and this reading is the model's
(log 94). -/
def cholesky (p : Pivot) (n : Nat) (a : Grid) : MW :=
  (List.range n).foldl (fun m j =>
    let s := fusedSum true (a.at j j, 0) ((List.range j).map (fun k => (m.w.at j k, m.w.at j k)))
    let m := { m with flags := m.flags ||| s.2 }
    if p.rootFails (wF32 s.1) then
      (List.range' j (n - j)).foldl (fun m i => m.put i j (0, 0)) (m.failAt j)
    else
      let m := m.put j j (sqrtF32 s.1)
      (List.range' (j + 1) (n - j - 1)).foldl (fun m i =>
        let t := fusedSum true (a.at i j, 0) ((List.range j).map (fun k => (m.w.at i k, m.w.at j k)))
        let q := divF32 t.1 (m.w.at j j)
        m.put i j (q.1, t.2 ||| q.2)) m) (MW.of (Vector.replicate 36 0) permId)

/-- The first magnitude is greater; NaN counts above every number (R257). -/
def magGreater (x y : Nat) : Bool :=
  let a := (wF32 x).abs
  let b := (wF32 y).abs
  if b.isNan then false else if a.isNan then true else b.lt a

/-- Swaps two entries of a list. -/
def swapAt (l : List Nat) (i j : Nat) : List Nat := (l.set i (l.getD j 0)).set j (l.getD i 0)

/-- mm.lu (R257). -/
def luFactor (p : Pivot) (n : Nat) (a : Grid) : MW :=
  (List.range n).foldl (fun m j =>
    let r := (List.range' (j + 1) (n - j - 1)).foldl (fun r i => if magGreater (m.w.at i j) (m.w.at r j) then i else r) j
    let m := { m with
      w := (List.range n).foldl (fun w c => (w.put j c (m.w.at r c)).put r c (m.w.at j c)) m.w
      perm := swapAt m.perm j r }
    if p.fails (wF32 (m.w.at j j)) then
      (List.range' (j + 1) (n - j - 1)).foldl (fun m i => m.put i j (0, 0)) (m.failAt j)
    else
      (List.range' (j + 1) (n - j - 1)).foldl (fun m i =>
        let m := m.put i j (divF32 (m.w.at i j) (m.w.at j j))
        (List.range' (j + 1) (n - j - 1)).foldl (fun m c =>
          m.put i c (fused true (m.w.at i c) (m.w.at i j) (m.w.at j c))) m) m) (MW.of a permId)

/-- One row of a triangular solve, in every column's turn: value (i, c) from the rows ks already solved (R258). -/
def solveRow (p : Pivot) (f : Nat → Nat → Nat) (unit : Bool) (ks : List Nat) (c : Nat) (m : MW) (i : Nat) : MW :=
  let t := fusedSum true (m.w.at i c, 0) (ks.map (fun k => (f i k, m.w.at k c)))
  let m := { m with flags := m.flags ||| t.2 }
  if unit then m.put i c (t.1, 0)
  else if p.fails (wF32 (f i i)) then (m.failAt i).put i c (0, 0)
  else m.put i c (divF32 t.1 (f i i))

/-- LX = B, in place (R258). -/
def solveLower (p : Pivot) (f : Nat → Nat → Nat) (unit : Bool) (n q : Nat) (m : MW) : MW :=
  (List.range q).foldl (fun m c => (List.range n).foldl (fun m i => solveRow p f unit (List.range i) c m i) m) m

/-- UX = B, in place (R258). -/
def solveUpper (p : Pivot) (f : Nat → Nat → Nat) (n q : Nat) (m : MW) : MW :=
  (List.range q).foldl (fun m c => ((List.range n).reverse).foldl (fun m i =>
    solveRow p f false (List.range' (i + 1) (n - i - 1)) c m i) m) m

/-- The upper factor as mm.trsu reads it (R258). -/
def upperOf (kind : BitVec 2) (a : Grid) (i k : Nat) : Nat := if kind = kChol then a.at k i else a.at i k

/-- mm.trsl (R258). -/
def trsl (p : Pivot) (kind : BitVec 2) (n q : Nat) (a b : Grid) : MW :=
  solveLower p a.at (kind == kLu) n q (MW.of b permId)

/-- mm.trsu (R258). -/
def trsu (p : Pivot) (kind : BitVec 2) (n q : Nat) (a b : Grid) : MW := solveUpper p (upperOf kind a) n q (MW.of b permId)

/-- Rows of B in the order of PERM (R259). -/
def permuteRows (perm : List Nat) (n q : Nat) (b : Grid) : Grid :=
  (List.range n).foldl (fun g i => (List.range q).foldl (fun g c => g.put i c (b.at (perm.getD i 0) c)) g) b

/-- mm.solve (R259) from a factor of a KIND other than general. -/
def solveFactored (p : Pivot) (kind : BitVec 2) (n q : Nat) (a : Grid) (perm : List Nat) (b : Grid) : MW :=
  let b1 := if kind = kLu then permuteRows perm n q b else b
  solveUpper p (upperOf kind a) n q (solveLower p a.at (kind == kLu) n q (MW.of b1 permId))

/-- mm.solve (R259). -/
def solveAny (p : Pivot) (kind : BitVec 2) (n q : Nat) (a : Grid) (perm : List Nat) (b : Grid) : MW :=
  if kind = kGen then
    let f := luFactor p n a
    let x := solveFactored p kLu n q f.w f.perm b
    { x with flags := f.flags ||| x.flags, fail := match f.fail with
        | some j => some j
        | none => x.fail }
  else solveFactored p kind n q a perm b

/-- perm[0] to perm[n−1] are a permutation of 0 to n−1 (R259). -/
def permOk (n : Nat) (l : List Nat) : Bool := (List.range n).all (fun i => (l.take n).contains i)

/-- Inversions of a permutation. -/
def inversions : List Nat → Nat
  | [] => 0
  | x :: r => (r.filter (fun y => decide (y < x))).length + inversions r

/-- The product, greatest and least magnitude of a diagonal, from a sign (R260). -/
def diagProduct (start : Nat) (l : List Nat) : Nat × Flags :=
  l.foldl (fun a x => let r := rF32 ((wF32 a.1).mul (wF32 x)); (r.1, a.2 ||| r.2)) (start, 0)

/-- mm.det of a factor of a KIND other than general (R260): determinant, condition, flags. -/
def detFactored (kind : BitVec 2) (n : Nat) (a : Grid) (perm : List Nat) : Nat × Nat × Flags :=
  let diag := (List.range n).map (fun j => a.at j j)
  let mags := diag.map (fun x => (wF32 x).abs)
  if mags.any XVal.isNan then (fmtF32.nanBits, fmtF32.nanBits, flagInv ||| (diagProduct 0x3F800000 diag).2)
  else
    let dmax := mags.foldl (fun m x => if m.lt x then x else m) XVal.zero
    let dmin := mags.foldl (fun m x => if x.lt m then x else m) dmax
    let ratio := rF32 (dmax.div dmin)
    let one : Nat := 0x3F800000
    let neg1 : Nat := 0xBF800000
    if kind = kChol then
      let p := diagProduct one diag
      let d := rF32 ((wF32 p.1).mul (wF32 p.1))
      let c := rF32 ((wF32 ratio.1).mul (wF32 ratio.1))
      if dmin.isZero then (d.1, fmtF32.infBits, p.2 ||| d.2) else (d.1, c.1, p.2 ||| d.2 ||| ratio.2 ||| c.2)
    else
      let p := diagProduct (if inversions (perm.take n) % 2 = 0 then one else neg1) diag
      if dmin.isZero then (p.1, fmtF32.infBits, p.2) else (p.1, ratio.1, p.2 ||| ratio.2)

/-! ## How a form runs over its slots -/

/-- What a slot's work leaves: its values and PERM where the form writes it, flags, and a failure. -/
structure SlotOut where
  e : Nat
  m : MW
  deriving DecidableEq, Repr

/-- Slots of a group on which the form acts (R245). -/
def State.slots (s : State) (k : BitVec 3) (j : Nat) : List Nat := (groupElems s.core.vec.n j 1).filter (s.act k)

/-- With TE = 1 a failure in the group stops it; else the failing slots are flagged (R249). -/
def pivotCheck (te : Bool) (s : State) (outs : List SlotOut) (k : State → State) : Except GErr State :=
  let bad := outs.filter (fun o => o.m.fail.isSome)
  match bad with
  | [] => .ok (k s)
  | o :: _ =>
    if te then
      .error (.pivot (bad.map (fun o => o.e)) { cause := 0x4B, tval := BitVec.ofNat 64 ((o.m.fail.getD 0) * 256 + o.e) })
    else .ok (bad.foldl (fun u o => u.flagSlot o.e) (k s))

/-- The slots of a group, each with its checks in ascending order (R112, R249, R259): permBad is the check of PERM, which
takes cause 0x4A unless with TE = 1 a lower slot fails at a pivot. -/
def slotsCheck (te : Bool) (permBad : Nat → Bool) (work : Nat → SlotOut) (s : State) (slots : List Nat) (k : State → State) :
    Except GErr State :=
  match slots.find? permBad with
  | none => pivotCheck te s (slots.map work) k
  | some e =>
    let outs := (slots.filter (fun i => !permBad i)).map work
    if te && outs.any (fun o => o.m.fail.isSome && decide (o.e < e)) then pivotCheck te s outs id
    else .error (.trap { cause := 0x4A, tval := BitVec.ofNat 64 e })

/-- Writes the results of a group into m[d] (R250). -/
def State.putSlots (s : State) (d : BitVec 3) (rows cols : Nat) (perm : Bool) (outs : List SlotOut) : State :=
  let m := outs.foldl (fun m o =>
    let m1 := m.putSlot o.e rows cols o.m.w
    if perm then m1.putPerm o.e o.m.perm else m1) (s.mreg d)
  (s.setM d m).flag (orFlags (outs.map (fun o => o.m.flags)))

/-- Keeps what a form captured where it stops (R246). -/
def Res.keepShapes (x : Word) : Res → Res
  | .done s => .done s
  | .trap s t => .trap (s.onVec (fun v => { v with mcap := some x })) t
  | .wait s w => .wait (s.onVec (fun v => { v with mcap := some x })) w

/-- What a form captured goes when it completes from where PIX stood; what an interrupted one captured stays for a handler
that writes its PIX back (R246, R402). -/
def State.dropShapes (s : State) (mine : Bool) : State :=
  if mine then s.onVec (fun v => { v with mcap := none }) else s

/-- Runs a small-matrix form over its groups from where PIX stands. -/
def matGroups (cls : BitVec 2) (reg : BitVec 5) (x : Word) (h : State → State) (f : State → Nat → Except GErr State)
    (s : State) : Res :=
  ((runGroups cls reg f (groupList s.core.vec.n (s.startGroup cls reg) 1) (h s.clearPix)).andThen
    (fun t => .done (t.dropShapes (s.pixAt cls reg)))).keepShapes x

/-- VL lies above 64 (R245). -/
def State.over64 (s : State) : Bool := decide (64 < s.core.vec.n)

/-- The checks of R246 in their order. -/
def State.matTrap (s : State) (badTag badShape : Bool) : Option Trap :=
  firstTrap [(badTag, plainTrap 0x42), (s.over64, plainTrap 0x44), (badShape, plainTrap 0x4A)]

/-- A form that computes m[d] from the slots' old contents, with the destination's new shape (R254–R259). -/
def matForm (d : BitVec 3) (k : BitVec 3) (badShape : Word → Bool) (new : Word → Shape) (perm : Bool)
    (permBad : Word → State → Nat → Bool) (work : Word → State → Nat → MW) (s : State) : Res :=
  let x := s.captured clsM (d.setWidth 5)
  let h := new x
  Res.check s (s.matTrap false (badShape x))
    (matGroups clsM (d.setWidth 5) x (fun u => u.setShape d h)
      (fun u j =>
        let out (e : Nat) : SlotOut := ⟨e, work x u e⟩
        slotsCheck u.core.mat.pivot.te (permBad x u) out u (u.slots k j)
          (fun t => t.putSlots d h.rows h.cols perm ((u.slots k j).map out))) s)

/-- No PERM is checked. -/
def noPermCheck (_ : Word) (_ : State) (_ : Nat) : Bool := false

/-! ## Major 0x28 (R251) -/

/-- mm.shape (R251). -/
def execMmShape (d a b : BitVec 3) (s : State) : Out :=
  (Res.done (s.clearPix.setShape d ⟨kGen, b.toNat, a.toNat⟩)).finish

/-- mm.mov (R251). -/
def execMmMov (d a k : BitVec 3) (s : State) : Out :=
  let x := s.captured clsM (d.setWidth 5)
  (Res.check s (s.matTrap false false)
    (matGroups clsM (d.setWidth 5) x (fun u => u.setShape d (shapeOf x a))
      (fun u j => .ok ((u.slots k j).foldl (fun u e =>
        u.setM d (((u.mreg d).putSlot e 6 6 ((u.mreg a).slot e)).putPerm e ((u.mreg a).permOf e))) u)) s)).finish

/-- Element (i, j) of an index operand. -/
def idxI (p : Word) : Nat := (fld p 3 3 : BitVec 3).toNat
def idxJ (p : Word) : Nat := (fld p 0 3 : BitVec 3).toNat

/-- An index of mm.ext or mm.ins outside what R251 allows. -/
def idxBad (p : Word) (h : Shape) : Bool :=
  fld p 6 58 != 0 || idxI p == 6 || (decide (idxI p ≤ 5) && (decide (h.rows ≤ idxI p) || decide (h.cols ≤ idxJ p)))
    || (idxI p == 7 && decide (5 < idxJ p))

/-- mm.ext (R251). -/
def execMmExt (d : BitVec 5) (a : BitVec 3) (b : BitVec 5) (k : BitVec 3) (s : State) : Out :=
  let x := s.captured clsV d
  let p := s.g b
  let t := s.vop d
  (Res.check s (s.matTrap (t.tag != .f32) (idxBad p (shapeOf x a)))
    (matGroups clsV d x id (fun u j => .ok ((u.slots k j).foldl (fun u e =>
      u.putElem t e (if idxI p = 7 then (rF32 (.ofInt (((u.mreg a).permOf e).getD (idxJ p) 0 : Nat))).1
        else ((u.mreg a).slot e).at (idxI p) (idxJ p))) u)) s)).finish

/-- mm.ins (R251). -/
def execMmIns (d : BitVec 3) (a b : BitVec 5) (k : BitVec 3) (s : State) : Out :=
  let x := s.captured clsM (d.setWidth 5)
  let p := s.g b
  let t := s.vop a
  (Res.check s (s.matTrap (t.tag != .f32) (idxBad p (shapeOf x d) || idxI p == 7))
    (matGroups clsM (d.setWidth 5) x id (fun u j => .ok ((u.slots k j).foldl (fun u e =>
      u.setM d ((u.mreg d).putSlot e 6 6 (((u.mreg d).slot e).put (idxI p) (idxJ p) (u.vbits t e)))) u)) s)).finish

/-! ## Major 0x29 (R252, R253) -/

/-- Address of word (i, j) of slot e. -/
def matAddr (base stride : Word) (cols e i j : Nat) : Word :=
  base + BitVec.ofNat 64 e * stride + BitVec.ofNat 64 (4 * (i * cols + j))

/-- Positions of a shape in ascending address order. -/
def positions (rows cols : Nat) : List (Nat × Nat) := (List.range rows).flatMap (fun i => (List.range cols).map (fun j => (i, j)))

/-- What the translation of a slot's words finds, before any of its data is accessed (R112, R253). -/
def slotFault (kind : AccKind) (base stride : Word) (cols e : Nat) (l : List (Nat × Nat)) (s : State) : Option GErr :=
  l.findSome? (fun p => match reach s s.core.cmds s.pl kind (matAddr base stride cols e p.1 p.2) 4 with
    | .error (.fault f) => if f.early || f.kind == 8 then some (.access e (.fault f)) else none
    | _ => none)

/-- A slot's accesses, after the translation of all its words. -/
def slotAccess (kind : AccKind) (base stride : Word) (cols e : Nat) (l : List (Nat × Nat)) (s : State)
    (f : List (Nat × Nat) → State → Except GErr State) : Except GErr State :=
  match slotFault kind base stride cols e l s with
  | some x => .error x
  | none => f l s

/-- Loads the words of slot e. -/
def loadSlot (d : BitVec 3) (base stride : Word) (cols e : Nat) : List (Nat × Nat) → State → Except GErr State
  | [], s => .ok s
  | (i, j) :: r, s =>
    match gload s e (matAddr base stride cols e i j) 4 with
    | .error x => .error x
    | .ok (w, s1) =>
      loadSlot d base stride cols e r
        (s1.setM d { s1.mreg d with grid := setF (s1.mreg d).grid (36 * e + 6 * i + j) (w.setWidth 32) })

/-- Stores the words of slot e. -/
def storeSlot (g : Grid) (base stride : Word) (cols e : Nat) : List (Nat × Nat) → State → Except GErr State
  | [], s => .ok s
  | (i, j) :: r, s =>
    match gstore s e (matAddr base stride cols e i j) 4 (BitVec.ofNat 64 (g.at i j)) with
    | .error x => .error x
    | .ok s1 => storeSlot g base stride cols e r s1

/-- mm.ld (R252). -/
def execMmLd (d : BitVec 3) (a b : BitVec 5) (k : BitVec 3) (s : State) : Out :=
  let x := s.captured clsM (d.setWidth 5)
  let h := shapeOf x d
  (Res.check s (s.matTrap false false)
    (matGroups clsM (d.setWidth 5) x (fun u => u.setShape d ⟨kGen, h.cols, h.rows⟩)
      (fun u j => foldAccess (fun u e => slotAccess .vread (s.g a) (s.g b) h.cols e (positions h.rows h.cols) u
        (loadSlot d (s.g a) (s.g b) h.cols e)) (u.slots k j) u)
      s)).finish

/-- mm.st (R252). -/
def execMmSt (d : BitVec 3) (a b : BitVec 5) (k : BitVec 3) (s : State) : Out :=
  let x := s.captured clsMem 0
  let h := shapeOf x d
  (Res.check s (s.matTrap false false)
    (matGroups clsMem 0 x id
      (fun u j => foldAccess (fun u e =>
        slotAccess .vwrite (s.g a) (s.g b) h.cols e (positions h.rows h.cols) u
          (storeSlot ((s.mreg d).slot e) (s.g a) (s.g b) h.cols e)) (u.slots k j) u) s)).finish

/-! ## Major 0x2A (R254) -/

/-- The shapes of a product do not agree. -/
def productBad (d a b : BitVec 3) (x : Word) : Bool :=
  let ha := shapeOf x a
  let hb := shapeOf x b
  let hd := shapeOf x d
  hb.rows != ha.cols || hd.rows != ha.rows || hd.cols != hb.cols

/-- A destination that keeps its shape and becomes KIND k. -/
def sameShape (d : BitVec 3) (kind : BitVec 2) (x : Word) : Shape := { shapeOf x d with kind := kind }

/-- A product form. -/
def productForm (mul sub : Bool) (d a b k : BitVec 3) (s : State) : Res :=
  matForm d k (productBad d a b) (sameShape d kGen) false noPermCheck
    (fun x u e => matProduct mul sub (shapeOf x a).rows (shapeOf x a).cols (shapeOf x b).cols
      ((u.mreg d).slot e) ((u.mreg a).slot e) ((u.mreg b).slot e)) s

/-- mm.mul (R254). -/
def execMmMul (d a b k : BitVec 3) (s : State) : Out := (productForm true false d a b k s).finish

/-- mm.madd (R254). -/
def execMmMadd (d a b k : BitVec 3) (s : State) : Out := (productForm false false d a b k s).finish

/-- mm.msub (R254). -/
def execMmMsub (d a b k : BitVec 3) (s : State) : Out := (productForm false true d a b k s).finish

/-- mm.trn (R254). -/
def execMmTrn (d a k : BitVec 3) (s : State) : Out :=
  (matForm d k (fun x => (shapeOf x d).rows != (shapeOf x a).cols || (shapeOf x d).cols != (shapeOf x a).rows)
    (sameShape d kGen) false noPermCheck
    (fun x u e =>
      let g := (u.mreg a).slot e
      MW.of ((positions (shapeOf x a).rows (shapeOf x a).cols).foldl (fun t p => t.put p.2 p.1 (g.at p.1 p.2))
        ((u.mreg d).slot e)) permId) s).finish

/-! ## Major 0x2B (R255–R260) -/

/-- m[a] is not square, or m[d] is not n × n. -/
def squareBad (d a : BitVec 3) (x : Word) : Bool :=
  let ha := shapeOf x a
  let hd := shapeOf x d
  ha.rows != ha.cols || hd.rows != ha.rows || hd.cols != ha.rows

/-- m[a] is not square, or m[b] and m[d] are not n × q alike. -/
def solveBad (d a b : BitVec 3) (x : Word) : Bool :=
  let ha := shapeOf x a
  let hb := shapeOf x b
  let hd := shapeOf x d
  ha.rows != ha.cols || hb.rows != ha.rows || hd.rows != ha.rows || hd.cols != hb.cols

/-- mm.chol (R256). -/
def execMmChol (d a k : BitVec 3) (s : State) : Out :=
  (matForm d k (squareBad d a) (sameShape d kChol) true noPermCheck
    (fun x u e => cholesky u.core.mat.pivot (shapeOf x a).rows ((u.mreg a).slot e)) s).finish

/-- mm.lu (R257). -/
def execMmLu (d a k : BitVec 3) (s : State) : Out :=
  (matForm d k (squareBad d a) (sameShape d kLu) true noPermCheck
    (fun x u e =>
      let n := (shapeOf x a).rows
      let m := luFactor u.core.mat.pivot n ((u.mreg a).slot e)
      { m with perm := m.perm.take n }) s).finish

/-- mm.trsl (R258). -/
def execMmTrsl (d a b k : BitVec 3) (s : State) : Out :=
  (matForm d k (solveBad d a b) (sameShape d kGen) false noPermCheck
    (fun x u e => trsl u.core.mat.pivot (shapeOf x a).kind (shapeOf x a).rows (shapeOf x b).cols ((u.mreg a).slot e)
      ((u.mreg b).slot e)) s).finish

/-- mm.trsu (R258). -/
def execMmTrsu (d a b k : BitVec 3) (s : State) : Out :=
  (matForm d k (solveBad d a b) (sameShape d kGen) false noPermCheck
    (fun x u e => trsu u.core.mat.pivot (shapeOf x a).kind (shapeOf x a).rows (shapeOf x b).cols ((u.mreg a).slot e)
      ((u.mreg b).slot e)) s).finish

/-- PERM of slot e of a KIND 2 operand is no permutation (R259). -/
def luPermBad (a : BitVec 3) (x : Word) (s : State) (e : Nat) : Bool :=
  (shapeOf x a).kind == kLu && !permOk (shapeOf x a).rows ((s.mreg a).permOf e)

/-- mm.solve (R259). -/
def execMmSolve (d a b k : BitVec 3) (s : State) : Out :=
  (matForm d k (solveBad d a b) (sameShape d kGen) false (luPermBad a)
    (fun x u e => solveAny u.core.mat.pivot (shapeOf x a).kind (shapeOf x a).rows (shapeOf x b).cols ((u.mreg a).slot e)
      ((u.mreg a).permOf e) ((u.mreg b).slot e)) s).finish

/-- mm.det of slot e (R260): determinant, condition, and the factoring of a KIND 0 operand. -/
def detSlot (x : Word) (a : BitVec 3) (s : State) (e : Nat) : Nat × Nat × SlotOut :=
  let h := shapeOf x a
  let g := (s.mreg a).slot e
  let f := if h.kind = kGen then luFactor s.core.mat.pivot h.rows g else MW.of g ((s.mreg a).permOf e)
  let r := detFactored (if h.kind = kGen then kLu else h.kind) h.rows f.w f.perm
  (r.1, r.2.1, ⟨e, { f with flags := f.flags ||| r.2.2 }⟩)

/-- mm.det (R260). -/
def execMmDet (d : BitVec 5) (a k : BitVec 3) (s : State) : Out :=
  let x := s.captured clsV d
  let t := s.vop d
  let y := s.vop (d + 1)
  (Res.check s (s.matTrap (t.tag != .f32 || y.tag != .f32) ((shapeOf x a).rows != (shapeOf x a).cols))
    (matGroups clsV d x id (fun u j =>
      slotsCheck u.core.mat.pivot.te (luPermBad a x u) (fun e => (detSlot x a u e).2.2) u (u.slots k j) (fun v =>
        let outs := (u.slots k j).map (detSlot x a u)
        (outs.foldl (fun v o => (v.putElem t o.2.2.e o.1).putElem y o.2.2.e o.2.1) v).flag
          (orFlags (outs.map (fun o => o.2.2.m.flags))))) s)).finish

end Sys2Proof.Machine
end

