-- ==== Sys2Proof/Machine/Waits.lean ====
section
/-! DEFINITION. The word that the control thread has in hand, and the ends of the wait points of R137: a form that
stands at one is attempted again, and goes on where it can. -/

namespace Sys2Proof.Machine

/-- What the control thread of the core in focus has next: a word, a fetch that faults, or the end of a VP block. -/
inductive Hand where
  | word (w : BitVec 32) (s : State)
  | fault (f : MemFault)
  | blockEnd

/-- A fetch as a hand. -/
def fetched : Except MemFault (BitVec 32 × State) → Hand
  | .ok x => .word x.1 x.2
  | .error f => .fault f

/-- The next word: of the least PC of a VP block (R388), of the block buffer (R135), or at the pc (R132). -/
def State.hand (s : State) : Hand :=
  if s.core.vp.live then
    match leastPc s.core.vp.pcs with
    | none => .blockEnd
    | some p => fetched (fetchWord (s.onVp VpState.choose) p)
  else if s.core.blk.live then .word (rget s.core.blk.words (fld s.core.blk.blk 7 5 : BitVec 5)) s
  else fetched (fetchWord s s.core.pc)

/-- The core in focus issues: it runs, and its cluster is in RUN (R365, R434). -/
def State.mayRun (s : State) : Bool :=
  s.core.run == .running && (s.core.fw || (s.clAt (clusterOf s.core.id)).open)

/-- The forms that a wait point may hold, and those that the XU executes group by group, issued again (R137, R185, R401). -/
def reissue (i : Instr) (s : State) : Option Out :=
  match i with
  | .ldxB d a b => some (Sys2Proof.Machine.execLdxB d a b s)
  | .ldxBu d a b => some (Sys2Proof.Machine.execLdxBu d a b s)
  | .ldxH d a b => some (Sys2Proof.Machine.execLdxH d a b s)
  | .ldxHu d a b => some (Sys2Proof.Machine.execLdxHu d a b s)
  | .ldxW d a b => some (Sys2Proof.Machine.execLdxW d a b s)
  | .ldxWu d a b => some (Sys2Proof.Machine.execLdxWu d a b s)
  | .ldxD d a b => some (Sys2Proof.Machine.execLdxD d a b s)
  | .stxB d a b => some (Sys2Proof.Machine.execStxB d a b s)
  | .stxH d a b => some (Sys2Proof.Machine.execStxH d a b s)
  | .stxW d a b => some (Sys2Proof.Machine.execStxW d a b s)
  | .stxD d a b => some (Sys2Proof.Machine.execStxD d a b s)
  | .ldD d a imm => some (Sys2Proof.Machine.execLdD d a imm s)
  | .stD d a imm => some (Sys2Proof.Machine.execStD d a imm s)
  | .vprof d a => some (Sys2Proof.Machine.execVprof d a s)
  | .vspill a b => some (Sys2Proof.Machine.execVspill a b s)
  | .vfill d b => some (Sys2Proof.Machine.execVfill d b s)
  | .vLd d a imm => some (Sys2Proof.Machine.execVLd d a imm s)
  | .vSt d a imm => some (Sys2Proof.Machine.execVSt d a imm s)
  | .vLds d a b k z => some (Sys2Proof.Machine.execVLds d a b k z s)
  | .vLdx d a b k z r => some (Sys2Proof.Machine.execVLdx d a b k z r s)
  | .vLdb d a k z => some (Sys2Proof.Machine.execVLdb d a k z s)
  | .vLdk d a => some (Sys2Proof.Machine.execVLdk d a s)
  | .vLdq d a k z => some (Sys2Proof.Machine.execVLdq d a k z s)
  | .vLdff d a b k z => some (Sys2Proof.Machine.execVLdff d a b k z s)
  | .vSts d a b k => some (Sys2Proof.Machine.execVSts d a b k s)
  | .vStx d a b k r => some (Sys2Proof.Machine.execVStx d a b k r s)
  | .vStk d a => some (Sys2Proof.Machine.execVStk d a s)
  | .vSxadd d a b k r => some (Sys2Proof.Machine.execVSxadd d a b k r s)
  | .vSxmin d a b k r => some (Sys2Proof.Machine.execVSxmin d a b k r s)
  | .vSxmax d a b k r => some (Sys2Proof.Machine.execVSxmax d a b k r s)
  | .vPf a b => some (Sys2Proof.Machine.execVPf a b s)
  | .vLdc d a k z => some (Sys2Proof.Machine.execVLdc d a k z s)
  | .vStc d a k => some (Sys2Proof.Machine.execVStc d a k s)
  | .vAdd d a b k z r => some (Sys2Proof.Machine.execVAdd d a b k z r s)
  | .vSub d a b k z r => some (Sys2Proof.Machine.execVSub d a b k z r s)
  | .vMul d a b k z r => some (Sys2Proof.Machine.execVMul d a b k z r s)
  | .vMulh d a b k z r => some (Sys2Proof.Machine.execVMulh d a b k z r s)
  | .vMadd d a b k z r => some (Sys2Proof.Machine.execVMadd d a b k z r s)
  | .vMsub d a b k z r => some (Sys2Proof.Machine.execVMsub d a b k z r s)
  | .vMin d a b k z r => some (Sys2Proof.Machine.execVMin d a b k z r s)
  | .vMax d a b k z r => some (Sys2Proof.Machine.execVMax d a b k z r s)
  | .vAbs d a k z => some (Sys2Proof.Machine.execVAbs d a k z s)
  | .vNeg d a k z => some (Sys2Proof.Machine.execVNeg d a k z s)
  | .vClamp d a b k z r => some (Sys2Proof.Machine.execVClamp d a b k z r s)
  | .vAnd d a b k z r => some (Sys2Proof.Machine.execVAnd d a b k z r s)
  | .vOr d a b k z r => some (Sys2Proof.Machine.execVOr d a b k z r s)
  | .vXor d a b k z r => some (Sys2Proof.Machine.execVXor d a b k z r s)
  | .vNot d a k z => some (Sys2Proof.Machine.execVNot d a k z s)
  | .vSll d a b k z r => some (Sys2Proof.Machine.execVSll d a b k z r s)
  | .vSrl d a b k z r => some (Sys2Proof.Machine.execVSrl d a b k z r s)
  | .vSra d a b k z r => some (Sys2Proof.Machine.execVSra d a b k z r s)
  | .vCeq d a b k z r => some (Sys2Proof.Machine.execVCeq d a b k z r s)
  | .vCne d a b k z r => some (Sys2Proof.Machine.execVCne d a b k z r s)
  | .vClt d a b k z r => some (Sys2Proof.Machine.execVClt d a b k z r s)
  | .vCle d a b k z r => some (Sys2Proof.Machine.execVCle d a b k z r s)
  | .vCun d a b k z r => some (Sys2Proof.Machine.execVCun d a b k z r s)
  | .vCvt d a sat k z => some (Sys2Proof.Machine.execVCvt d a sat k z s)
  | .vCvtz d a sat k z => some (Sys2Proof.Machine.execVCvtz d a sat k z s)
  | .vCvtp d a sat k z => some (Sys2Proof.Machine.execVCvtp d a sat k z s)
  | .vCvtm d a sat k z => some (Sys2Proof.Machine.execVCvtm d a sat k z s)
  | .vCvts d a b k z r => some (Sys2Proof.Machine.execVCvts d a b k z r s)
  | .vWacc d a b k z r => some (Sys2Proof.Machine.execVWacc d a b k z r s)
  | .vMrg d a b k r => some (Sys2Proof.Machine.execVMrg d a b k r s)
  | .vIota d a k z => some (Sys2Proof.Machine.execVIota d a k z s)
  | .vSplat d a k z => some (Sys2Proof.Machine.execVSplat d a k z s)
  | .vRng d a b k z => some (Sys2Proof.Machine.execVRng d a b k z s)
  | .vRngf d a b k z => some (Sys2Proof.Machine.execVRngf d a b k z s)
  | .rotC d a b k z => some (Sys2Proof.Machine.execRotC d a b k z s)
  | .rotCg d a b k z => some (Sys2Proof.Machine.execRotCg d a b k z s)
  | .axisC d a b k z => some (Sys2Proof.Machine.execAxisC d a b k z s)
  | .axisCg d a b k z => some (Sys2Proof.Machine.execAxisCg d a b k z s)
  | .gainC d b k z => some (Sys2Proof.Machine.execGainC d b k z s)
  | .rotH d a b k z => some (Sys2Proof.Machine.execRotH d a b k z s)
  | .rotHg d a b k z => some (Sys2Proof.Machine.execRotHg d a b k z s)
  | .axisH d a b k z => some (Sys2Proof.Machine.execAxisH d a b k z s)
  | .axisHg d a b k z => some (Sys2Proof.Machine.execAxisHg d a b k z s)
  | .gainH d b k z => some (Sys2Proof.Machine.execGainH d b k z s)
  | .rotL d a b k z => some (Sys2Proof.Machine.execRotL d a b k z s)
  | .axisL d a b k z => some (Sys2Proof.Machine.execAxisL d a b k z s)
  | .rotFold d a k z => some (Sys2Proof.Machine.execRotFold d a k z s)
  | .rotUnfold d a k z => some (Sys2Proof.Machine.execRotUnfold d a k z s)
  | .mmLd d a b k => some (Sys2Proof.Machine.execMmLd d a b k s)
  | .mmSt d a b k => some (Sys2Proof.Machine.execMmSt d a b k s)
  | .mmMov d a k => some (Sys2Proof.Machine.execMmMov d a k s)
  | .mmExt d a b k => some (Sys2Proof.Machine.execMmExt d a b k s)
  | .mmIns d a b k => some (Sys2Proof.Machine.execMmIns d a b k s)
  | .mmMul d a b k => some (Sys2Proof.Machine.execMmMul d a b k s)
  | .mmMadd d a b k => some (Sys2Proof.Machine.execMmMadd d a b k s)
  | .mmMsub d a b k => some (Sys2Proof.Machine.execMmMsub d a b k s)
  | .mmTrn d a k => some (Sys2Proof.Machine.execMmTrn d a k s)
  | .mmChol d a k => some (Sys2Proof.Machine.execMmChol d a k s)
  | .mmLu d a k => some (Sys2Proof.Machine.execMmLu d a k s)
  | .mmTrsl d a b k => some (Sys2Proof.Machine.execMmTrsl d a b k s)
  | .mmTrsu d a b k => some (Sys2Proof.Machine.execMmTrsu d a b k s)
  | .mmSolve d a b k => some (Sys2Proof.Machine.execMmSolve d a b k s)
  | .mmDet d a k => some (Sys2Proof.Machine.execMmDet d a k s)
  | .tlShape d a => some (Sys2Proof.Machine.execTlShape d a s)
  | .tlDesc d a b => some (Sys2Proof.Machine.execTlDesc d a b s)
  | .tlPrec a b => some (Sys2Proof.Machine.execTlPrec a b s)
  | .tlZero d => some (Sys2Proof.Machine.execTlZero d s)
  | .tlAcc d a b => some (Sys2Proof.Machine.execTlAcc d a b s)
  | .tlLdp d a b op => some (Sys2Proof.Machine.execTlLdp d a b op s)
  | .tlStp d a b => some (Sys2Proof.Machine.execTlStp d a b s)
  | .tlBcast d a p => some (Sys2Proof.Machine.execTlBcast d a p s)
  | .tlLdsc d a b op p => some (Sys2Proof.Machine.execTlLdsc d a b op p s)
  | .tlMma d a b => some (Sys2Proof.Machine.execTlMma d a b s)
  | .tlMmz d a b => some (Sys2Proof.Machine.execTlMmz d a b s)
  | .tlMms d a b => some (Sys2Proof.Machine.execTlMms d a b s)
  | .tlExt d a b k z => some (Sys2Proof.Machine.execTlExt d a b k z s)
  | .tlExtr d a b k z => some (Sys2Proof.Machine.execTlExtr d a b k z s)
  | .xsLd d a b op p => some (Sys2Proof.Machine.execXsLd d a b op p s)
  | .xsSt d a b op p => some (Sys2Proof.Machine.execXsSt d a b op p s)
  | .xsGth d a b op p => some (Sys2Proof.Machine.execXsGth d a b op p s)
  | .xsSct d a b op p => some (Sys2Proof.Machine.execXsSct d a b op p s)
  | .xsCp d a b op p => some (Sys2Proof.Machine.execXsCp d a b op p s)
  | .xsWait a b => some (Sys2Proof.Machine.execXsWait a b s)
  | .xsRst a b => some (Sys2Proof.Machine.execXsRst a b s)
  | .cbAcq d a b => some (Sys2Proof.Machine.execCbAcq d a b s)
  | .plDec d a b op p => some (Sys2Proof.Machine.execPlDec d a b op p s)
  | .plIsect d a b op p => some (Sys2Proof.Machine.execPlIsect d a b op p s)
  | .plUnite d a b op p => some (Sys2Proof.Machine.execPlUnite d a b op p s)
  | .plBm25 d a b p => some (Sys2Proof.Machine.execPlBm25 d a b p s)
  | .plFuse d a b p => some (Sys2Proof.Machine.execPlFuse d a b p s)
  | .plTopk d a b p => some (Sys2Proof.Machine.execPlTopk d a b p s)
  | .plWait => some (Sys2Proof.Machine.execPlWait s)
  | .plAbort => some (Sys2Proof.Machine.execPlAbort s)
  | .rsvRetire k => some (Sys2Proof.Machine.execRsvRetire k s)
  | .amoAdd d a b => some (Sys2Proof.Machine.execAmoAdd d a b s)
  | .amoMin d a b => some (Sys2Proof.Machine.execAmoMin d a b s)
  | .amoMax d a b => some (Sys2Proof.Machine.execAmoMax d a b s)
  | .amoAnd d a b => some (Sys2Proof.Machine.execAmoAnd d a b s)
  | .amoOr d a b => some (Sys2Proof.Machine.execAmoOr d a b s)
  | .amoXor d a b => some (Sys2Proof.Machine.execAmoXor d a b s)
  | .amoSwap d a b => some (Sys2Proof.Machine.execAmoSwap d a b s)
  | .amoCas d a b => some (Sys2Proof.Machine.execAmoCas d a b s)
  | .amoFadd d a b => some (Sys2Proof.Machine.execAmoFadd d a b s)
  | .gbArr d a => some (Sys2Proof.Machine.execGbArr d a s)
  | .gbWait a b => some (Sys2Proof.Machine.execGbWait a b s)
  | .fenceRel b => some (Sys2Proof.Machine.execFenceRel b s)
  | .fenceAcq b => some (Sys2Proof.Machine.execFenceAcq b s)
  | .fenceAr b => some (Sys2Proof.Machine.execFenceAr b s)
  | .detStep d => some (Sys2Proof.Machine.execDetStep d s)
  | .claimEl d a b => some (Sys2Proof.Machine.execClaimEl d a b s)
  | .taskSpawn a b => some (Sys2Proof.Machine.execTaskSpawn a b s)
  | .taskExit => some (Sys2Proof.Machine.execTaskExit s)
  | .taskJoin d a => some (Sys2Proof.Machine.execTaskJoin d a s)
  | .taskNotify a b => some (Sys2Proof.Machine.execTaskNotify a b s)
  | .sysRd d a n => some (Sys2Proof.Machine.execSysRd d a n s)
  | .sysWr d a n => some (Sys2Proof.Machine.execSysWr d a n s)
  | .sysSet d a n => some (Sys2Proof.Machine.execSysSet d a n s)
  | .sysClr d a n => some (Sys2Proof.Machine.execSysClr d a n s)
  | .sysIfence => some (Sys2Proof.Machine.execSysIfence s)
  | _ => none

/-- The core still stands where it stood: the same wait, and no element group further. -/
def Core.sameStand (c d : Core) : Bool := c.wait.isSome && c.wait == d.wait && c.vec.pix == d.vec.pix

/-- What goes before the next word of the core in focus, and before a form that stands at a wait point goes on: a
pre-emption that is due, an enabled event, the start of a command (R65, R113, R141, R288, R403). -/
def State.interrupted (s : State) : Bool :=
  (s.leaving.isSome && s.core.sys.admits) || s.eventPends || s.startDue.isSome

/-- A form that may be issued again, issued again: it reads its registers anew (R119). -/
def reissueForm (i : Instr) (s : State) : Option Out :=
  if (reissue i s).isNone then none
  else if s.readsBad i then some (Res.trap s.countUnc (plainTrap 0xC3)).finish
  else some (s.withErrors i (fun t => (reissue i t).getD (.next t)))

/-- The form of a word, where it may be issued again, issued again. -/
def reissueWord (w : BitVec 32) (s : State) : Option Out :=
  match formOf (fieldsOf w) with
  | .ok f => reissueForm f.instr s
  | .error _ => none

/-- The control thread meets the exit register of an iteration that has ended before its next word (R135; log 84). -/
def State.exitDue (s : State) : Bool := s.core.blk.live && s.core.blk.unread

/-- A word of major 0x2E: a multiply form. -/
def mulMajor (w : BitVec 32) : Bool := fld w 0 6 == 0x2E#6

/-- The end of a wait point: the form that stands there goes on (R137); one behind a multiply form that may still trap is
held until that has completed (R398). -/
def State.resume (s : State) (w : Wait) (name : String) : Out :=
  let s := s.focus s.ev.c
  if s.core.wait != some w || !s.mayRun || s.interrupted || s.exitDue then notDue name
  else match s.hand with
    | .word x t => if t.mulPending && !mulMajor x then notDue name else match reissueWord x t with
      | some (.next u) => if u.core.sameStand s.core then notDue name else .next u
      | some o => o
      | none => notDue name
    | _ => notDue name

/-! ## The XU queue (R137, R187) -/

/-- The registers of the control thread as they stand in s, and what remains of the queue. -/
def State.backFrom (t s : State) (q : List XuEntry) : State :=
  t.onCore (fun c => { c with
    pc := s.core.pc, g := s.core.g, wait := none
    vec := { c.vec with vl := s.core.vec.vl, mfc := s.core.vec.mfc, vprof := s.core.vec.vprof, xuq := q }
    mat := { c.mat with mshape := s.core.mat.mshape } })

/-- A form that stood at u has completed in t: the control thread is past it, and no trap was taken. -/
def completedIn (u t : State) : Bool := t.core.wait.isNone && t.core.pc == u.core.pc + 4 && t.core.sys == u.core.sys

/-- The oldest entry of the XU queue is executed, run being its issue. It leaves the queue when it completes; one that
waits stays, with the groups that it has completed. A trap is precise: the g registers and the pc are those of its issue,
and the younger entries have not started (R63, R112). -/
def State.drainXu (s : State) (run : BitVec 32 → State → Option Out) : Option Out :=
  match s.core.vec.xuq with
  | [] => none
  | x :: r =>
    let u := s.asEntry x
    (run x.word u).map (fun o => match o with
      | .next t =>
        if t.core.wait.isSome then .next (t.backFrom s (x :: r))
        else if completedIn u t then .next (t.backFrom s r)
        else .next t
      | o => o)

/-! ## One element group (R184, R185, R401) -/

/-- Element-wise forms, which stop between two groups: each group is written when it completes (R185, R203, R237, R262). -/
def groupwise (i : Instr) : Bool :=
  match i with
  | .vLd _ _ _ | .vSt _ _ _ | .vLds _ _ _ _ _ | .vLdx _ _ _ _ _ _ | .vLdb _ _ _ _ | .vLdk _ _ | .vSts _ _ _ _
  | .vStx _ _ _ _ _ | .vStk _ _ | .vLdc _ _ _ _ | .vStc _ _ _ | .mmLd _ _ _ _ | .mmSt _ _ _ _
  | .vAdd _ _ _ _ _ _ | .vSub _ _ _ _ _ _ | .vMul _ _ _ _ _ _ | .vMulh _ _ _ _ _ _ | .vMadd _ _ _ _ _ _
  | .vMsub _ _ _ _ _ _ | .vMin _ _ _ _ _ _ | .vMax _ _ _ _ _ _ | .vAbs _ _ _ _ | .vNeg _ _ _ _
  | .vClamp _ _ _ _ _ _ | .vAnd _ _ _ _ _ _ | .vOr _ _ _ _ _ _ | .vXor _ _ _ _ _ _ | .vNot _ _ _ _
  | .vSll _ _ _ _ _ _ | .vSrl _ _ _ _ _ _ | .vSra _ _ _ _ _ _ | .vCeq _ _ _ _ _ _ | .vCne _ _ _ _ _ _
  | .vClt _ _ _ _ _ _ | .vCle _ _ _ _ _ _ | .vCun _ _ _ _ _ _ | .vCvt _ _ _ _ _ | .vCvtz _ _ _ _ _
  | .vCvtp _ _ _ _ _ | .vCvtm _ _ _ _ _ | .vCvts _ _ _ _ _ _ | .vWacc _ _ _ _ _ _ | .vMrg _ _ _ _ _
  | .vIota _ _ _ _ | .vSplat _ _ _ _ | .vRng _ _ _ _ _ | .vRngf _ _ _ _ _ | .rotC _ _ _ _ _ | .rotCg _ _ _ _ _
  | .axisC _ _ _ _ _ | .axisCg _ _ _ _ _ | .gainC _ _ _ _ | .rotH _ _ _ _ _ | .rotHg _ _ _ _ _
  | .axisH _ _ _ _ _ | .axisHg _ _ _ _ _ | .gainH _ _ _ _ | .rotL _ _ _ _ _ | .axisL _ _ _ _ _
  | .rotFold _ _ _ _ | .rotUnfold _ _ _ _ | .mmMov _ _ _ | .mmExt _ _ _ _ | .mmIns _ _ _ _ | .mmMul _ _ _ _
  | .mmMadd _ _ _ _ | .mmMsub _ _ _ _ | .mmTrn _ _ _ | .mmChol _ _ _ | .mmLu _ _ _ | .mmTrsl _ _ _ _
  | .mmTrsu _ _ _ _ | .mmSolve _ _ _ _ | .mmDet _ _ _ => true
  | _ => false

/-- The element that a form replicates out of its own destination, as withRep reads it: destination, source, replication. -/
def replicated (i : Instr) : BitVec 5 × BitVec 5 × BitVec 2 :=
  match i with
  | .vLdx d _ b _ _ r => (d, b, r)
  | .vAdd d _ b _ _ r => (d, b, r)
  | .vSub d _ b _ _ r => (d, b, r)
  | .vMul d _ b _ _ r => (d, b, r)
  | .vMulh d _ b _ _ r => (d, b, r)
  | .vMadd d _ b _ _ r => (d, b, r)
  | .vMsub d _ b _ _ r => (d, b, r)
  | .vMin d _ b _ _ r => (d, b, r)
  | .vMax d _ b _ _ r => (d, b, r)
  | .vClamp d _ b _ _ r => (d, b, r)
  | .vAnd d _ b _ _ r => (d, b, r)
  | .vOr d _ b _ _ r => (d, b, r)
  | .vXor d _ b _ _ r => (d, b, r)
  | .vSll d _ b _ _ r => (d, b, r)
  | .vSrl d _ b _ _ r => (d, b, r)
  | .vSra d _ b _ _ r => (d, b, r)
  | .vCvts d _ b _ _ r => (d, b, r)
  | .vWacc d _ b _ _ r => (d, b, r)
  | .vMrg d _ b _ r => (d, b, r)
  | _ => (0, 0, 0)

/-- The groups between two places at which a form may stop: a block of four where an e2m1x register or memory takes part
(R86). -/
def State.groupStep (s : State) (i : Instr) : Nat :=
  let regs := (if (pixDest i).1 == clsV then [(pixDest i).2] else []) ++ (readsOf i).filterMap (fun r => match r with
    | .v n => some n
    | _ => none)
  if regs.any (fun n => (s.vop n).tag == .e2m1x) || (mfcEn s.core.vec.mfc && Tag.ofCode (fld s.core.vec.mfc 15 5) == some .e2m1x)
  then 4 else 1

/-- The form has gone through from s. -/
def wentThrough (s : State) : Option Out → Option State
  | some (.next t) => if t.core.wait.isNone && t.core.sys == s.core.sys then some t else none
  | _ => none

/-- Back at the form with its groups below g completed, and with what it keeps of its issue. -/
def State.atGroup (p s : State) (i : Instr) (g : Nat) : State :=
  let d := pixDest i
  let r := replicated i
  p.onCore (fun c => { c with
    pc := s.core.pc, blk := s.core.blk, vp := s.core.vp, wait := none, regErr := s.core.regErr
    seq := s.core.seq, seqNext := s.core.seqNext
    vec := { c.vec with
      vl := s.core.vec.vl, lrot := s.core.vec.lrot, pix := pixWord d.1 d.2 g, part := []
      mcap := some (s.captured d.1 d.2), rep := s.repIndex r.1 r.2.1 r.2.2 } })

/-- The next group of an element-wise form that has more than one to go, and that goes through: the groups before the
boundary are those of the form with VL there; the run of the block buffer stays at the word. -/
def State.oneGroup (s : State) (w : BitVec 32) : Option State :=
  match formOf (fieldsOf w) with
  | .error _ => none
  | .ok f =>
    let i := f.instr
    let d := pixDest i
    let q := s.groupStep i
    let g := (s.startGroup d.1 d.2 / q + 1) * q
    if !groupwise i || decide (s.core.vec.n ≤ 16 * g) then none
    else
      let short := (s.onVec (fun v => { v with vl := vlWord v.w (16 * g) })).onBlk (fun b => { b with blk := putFld b.blk 12 (0x3F#6) })
      (wentThrough s (reissueForm i s)).bind (fun _ => (wentThrough s (reissueForm i short)).map (fun p => p.atGroup s i g))

/-- XU_GROUP_COMPLETE: an element group of the form at which the control thread stands, or of the oldest entry of the XU
queue, is there: that group alone where more follow and all go through, else what remains of the form (R184, R187, R209;
log 8). -/
def execXuGroupComplete (s : State) : Out :=
  let t := s.focus s.ev.c
  let name := "XU_GROUP_COMPLETE"
  if !t.mayRun || t.interrupted then notDue name
  else match t.core.vec.xuq with
    | x :: r => match (t.asEntry x).oneGroup x.word with
      | some u => .next (u.backFrom t (x :: r))
      | none => match t.drainXu reissueWord with
        | some (.next u) =>
          if u.core.vec.xuq == t.core.vec.xuq && u.core.vec.pix == t.core.vec.pix then notDue name else .next u
        | _ => notDue name
    | [] =>
      if t.core.wait.isSome then s.resume .xuGroup name
      else match t.hand with
        | .word w u =>
          if t.mulPending || t.exitDue || (u.wordCause w).isSome then notDue name
          else match u.oneGroup w with
            | some v => .next v
            | none => notDue name
        | _ => notDue name

/-- WATERMARK_RELEASE (R153). -/
def execWatermarkRelease (s : State) : Out := s.resume .watermark "WATERMARK_RELEASE"

/-- DAU_STALL_RELEASE (R137). -/
def execDauStallRelease (s : State) : Out := s.resume .dauStall "DAU_STALL_RELEASE"

/-- XS_WAIT_COMPLETE (R157). -/
def execXsWaitComplete (s : State) : Out := s.resume .xsWait "XS_WAIT_COMPLETE"

/-- CB_ACQ_GRANT (R165). -/
def execCbAcqGrant (s : State) : Out := s.resume .cbAcq "CB_ACQ_GRANT"

/-- PL_WAIT_COMPLETE (R297, R298). -/
def execPlWaitComplete (s : State) : Out := s.resume .plWait "PL_WAIT_COMPLETE"

/-- GB_WAIT_RELEASE (R335). -/
def execGbWaitRelease (s : State) : Out := s.resume .gbWait "GB_WAIT_RELEASE"

/-- FENCE_COMPLETE (R327). -/
def execFenceComplete (s : State) : Out := s.resume .fence "FENCE_COMPLETE"

/-- TASK_SPAWN_PUSH (R375). -/
def execTaskSpawnPush (s : State) : Out := s.resume .spawn "TASK_SPAWN_PUSH"

end Sys2Proof.Machine
end

