-- ==== Sys2Proof/Machine/Dispatch.lean ====
section
/-! DEFINITION. The dispatch of every instruction and event to its meaning. -/

namespace Sys2Proof.Machine

def exec (i : Instr) (s : State) : Host.Outcome State Fault Refusal :=
  match i with
  | .add d a b => Sys2Proof.Machine.execAdd d a b s
  | .sub d a b => Sys2Proof.Machine.execSub d a b s
  | .and d a b => Sys2Proof.Machine.execAnd d a b s
  | .or d a b => Sys2Proof.Machine.execOr d a b s
  | .xor d a b => Sys2Proof.Machine.execXor d a b s
  | .sll d a b => Sys2Proof.Machine.execSll d a b s
  | .srl d a b => Sys2Proof.Machine.execSrl d a b s
  | .sra d a b => Sys2Proof.Machine.execSra d a b s
  | .slt d a b => Sys2Proof.Machine.execSlt d a b s
  | .sltu d a b => Sys2Proof.Machine.execSltu d a b s
  | .min d a b => Sys2Proof.Machine.execMin d a b s
  | .max d a b => Sys2Proof.Machine.execMax d a b s
  | .minu d a b => Sys2Proof.Machine.execMinu d a b s
  | .maxu d a b => Sys2Proof.Machine.execMaxu d a b s
  | .clz d a => Sys2Proof.Machine.execClz d a s
  | .popc d a => Sys2Proof.Machine.execPopc d a s
  | .mul d a b => Sys2Proof.Machine.execMul d a b s
  | .mulh d a b => Sys2Proof.Machine.execMulh d a b s
  | .mulhu d a b => Sys2Proof.Machine.execMulhu d a b s
  | .div d a b => Sys2Proof.Machine.execDiv d a b s
  | .divu d a b => Sys2Proof.Machine.execDivu d a b s
  | .rem d a b => Sys2Proof.Machine.execRem d a b s
  | .remu d a b => Sys2Proof.Machine.execRemu d a b s
  | .ldxB d a b => Sys2Proof.Machine.execLdxB d a b s
  | .ldxBu d a b => Sys2Proof.Machine.execLdxBu d a b s
  | .ldxH d a b => Sys2Proof.Machine.execLdxH d a b s
  | .ldxHu d a b => Sys2Proof.Machine.execLdxHu d a b s
  | .ldxW d a b => Sys2Proof.Machine.execLdxW d a b s
  | .ldxWu d a b => Sys2Proof.Machine.execLdxWu d a b s
  | .ldxD d a b => Sys2Proof.Machine.execLdxD d a b s
  | .stxB d a b => Sys2Proof.Machine.execStxB d a b s
  | .stxH d a b => Sys2Proof.Machine.execStxH d a b s
  | .stxW d a b => Sys2Proof.Machine.execStxW d a b s
  | .stxD d a b => Sys2Proof.Machine.execStxD d a b s
  | .blkCap d a b => Sys2Proof.Machine.execBlkCap d a b s
  | .blkRun a b => Sys2Proof.Machine.execBlkRun a b s
  | .blkBrk d => Sys2Proof.Machine.execBlkBrk d s
  | .addi d a imm => Sys2Proof.Machine.execAddi d a imm s
  | .andi d a imm => Sys2Proof.Machine.execAndi d a imm s
  | .ori d a imm => Sys2Proof.Machine.execOri d a imm s
  | .xori d a imm => Sys2Proof.Machine.execXori d a imm s
  | .slli d a n => Sys2Proof.Machine.execSlli d a n s
  | .srli d a n => Sys2Proof.Machine.execSrli d a n s
  | .srai d a n => Sys2Proof.Machine.execSrai d a n s
  | .lui d imm => Sys2Proof.Machine.execLui d imm s
  | .auipc d imm => Sys2Proof.Machine.execAuipc d imm s
  | .jal d imm => Sys2Proof.Machine.execJal d imm s
  | .jalr d a imm => Sys2Proof.Machine.execJalr d a imm s
  | .ldD d a imm => Sys2Proof.Machine.execLdD d a imm s
  | .stD d a imm => Sys2Proof.Machine.execStD d a imm s
  | .beq a b off => Sys2Proof.Machine.execBeq a b off s
  | .bne a b off => Sys2Proof.Machine.execBne a b off s
  | .vcfg d tag frac grp => Sys2Proof.Machine.execVcfg d tag frac grp s
  | .vsetvl d a b => Sys2Proof.Machine.execVsetvl d a b s
  | .vprof d a => Sys2Proof.Machine.execVprof d a s
  | .vmfc d a => Sys2Proof.Machine.execVmfc d a s
  | .vlq d a => Sys2Proof.Machine.execVlq d a s
  | .vspill a b => Sys2Proof.Machine.execVspill a b s
  | .vfill d b => Sys2Proof.Machine.execVfill d b s
  | .vLd d a imm => Sys2Proof.Machine.execVLd d a imm s
  | .vSt d a imm => Sys2Proof.Machine.execVSt d a imm s
  | .vLds d a b k z => Sys2Proof.Machine.execVLds d a b k z s
  | .vLdx d a b k z r => Sys2Proof.Machine.execVLdx d a b k z r s
  | .vLdb d a k z => Sys2Proof.Machine.execVLdb d a k z s
  | .vLdk d a => Sys2Proof.Machine.execVLdk d a s
  | .vLdq d a k z => Sys2Proof.Machine.execVLdq d a k z s
  | .vLdff d a b k z => Sys2Proof.Machine.execVLdff d a b k z s
  | .vSts d a b k => Sys2Proof.Machine.execVSts d a b k s
  | .vStx d a b k r => Sys2Proof.Machine.execVStx d a b k r s
  | .vStk d a => Sys2Proof.Machine.execVStk d a s
  | .vSxadd d a b k r => Sys2Proof.Machine.execVSxadd d a b k r s
  | .vSxmin d a b k r => Sys2Proof.Machine.execVSxmin d a b k r s
  | .vSxmax d a b k r => Sys2Proof.Machine.execVSxmax d a b k r s
  | .vPf a b => Sys2Proof.Machine.execVPf a b s
  | .vLdc d a k z => Sys2Proof.Machine.execVLdc d a k z s
  | .vStc d a k => Sys2Proof.Machine.execVStc d a k s
  | .vAdd d a b k z r => Sys2Proof.Machine.execVAdd d a b k z r s
  | .vSub d a b k z r => Sys2Proof.Machine.execVSub d a b k z r s
  | .vMul d a b k z r => Sys2Proof.Machine.execVMul d a b k z r s
  | .vMulh d a b k z r => Sys2Proof.Machine.execVMulh d a b k z r s
  | .vMadd d a b k z r => Sys2Proof.Machine.execVMadd d a b k z r s
  | .vMsub d a b k z r => Sys2Proof.Machine.execVMsub d a b k z r s
  | .vMin d a b k z r => Sys2Proof.Machine.execVMin d a b k z r s
  | .vMax d a b k z r => Sys2Proof.Machine.execVMax d a b k z r s
  | .vAbs d a k z => Sys2Proof.Machine.execVAbs d a k z s
  | .vNeg d a k z => Sys2Proof.Machine.execVNeg d a k z s
  | .vClamp d a b k z r => Sys2Proof.Machine.execVClamp d a b k z r s
  | .vAnd d a b k z r => Sys2Proof.Machine.execVAnd d a b k z r s
  | .vOr d a b k z r => Sys2Proof.Machine.execVOr d a b k z r s
  | .vXor d a b k z r => Sys2Proof.Machine.execVXor d a b k z r s
  | .vNot d a k z => Sys2Proof.Machine.execVNot d a k z s
  | .vSll d a b k z r => Sys2Proof.Machine.execVSll d a b k z r s
  | .vSrl d a b k z r => Sys2Proof.Machine.execVSrl d a b k z r s
  | .vSra d a b k z r => Sys2Proof.Machine.execVSra d a b k z r s
  | .vCeq d a b k z r => Sys2Proof.Machine.execVCeq d a b k z r s
  | .vCne d a b k z r => Sys2Proof.Machine.execVCne d a b k z r s
  | .vClt d a b k z r => Sys2Proof.Machine.execVClt d a b k z r s
  | .vCle d a b k z r => Sys2Proof.Machine.execVCle d a b k z r s
  | .vCun d a b k z r => Sys2Proof.Machine.execVCun d a b k z r s
  | .vCvt d a sat k z => Sys2Proof.Machine.execVCvt d a sat k z s
  | .vCvtz d a sat k z => Sys2Proof.Machine.execVCvtz d a sat k z s
  | .vCvtp d a sat k z => Sys2Proof.Machine.execVCvtp d a sat k z s
  | .vCvtm d a sat k z => Sys2Proof.Machine.execVCvtm d a sat k z s
  | .vCvts d a b k z r => Sys2Proof.Machine.execVCvts d a b k z r s
  | .vWacc d a b k z r => Sys2Proof.Machine.execVWacc d a b k z r s
  | .vPerm d a b k z r => Sys2Proof.Machine.execVPerm d a b k z r s
  | .vSlup d a b k z => Sys2Proof.Machine.execVSlup d a b k z s
  | .vSldn d a b k z => Sys2Proof.Machine.execVSldn d a b k z s
  | .vComp d a k z => Sys2Proof.Machine.execVComp d a k z s
  | .vExpd d a k z => Sys2Proof.Machine.execVExpd d a k z s
  | .vMrg d a b k r => Sys2Proof.Machine.execVMrg d a b k r s
  | .vCdet d a k z => Sys2Proof.Machine.execVCdet d a k z s
  | .vIota d a k z => Sys2Proof.Machine.execVIota d a k z s
  | .vSplat d a k z => Sys2Proof.Machine.execVSplat d a k z s
  | .vExtr d a b => Sys2Proof.Machine.execVExtr d a b s
  | .vKand d a b => Sys2Proof.Machine.execVKand d a b s
  | .vKor d a b => Sys2Proof.Machine.execVKor d a b s
  | .vKxor d a b => Sys2Proof.Machine.execVKxor d a b s
  | .vKandn d a b => Sys2Proof.Machine.execVKandn d a b s
  | .vKpop d a => Sys2Proof.Machine.execVKpop d a s
  | .vKfirst d a => Sys2Proof.Machine.execVKfirst d a s
  | .vRsum d a k => Sys2Proof.Machine.execVRsum d a k s
  | .vRmax d a k => Sys2Proof.Machine.execVRmax d a k s
  | .vRmin d a k => Sys2Proof.Machine.execVRmin d a k s
  | .vRall d a k => Sys2Proof.Machine.execVRall d a k s
  | .vRany d a k => Sys2Proof.Machine.execVRany d a k s
  | .vRxor d a k => Sys2Proof.Machine.execVRxor d a k s
  | .vPsum d a k z => Sys2Proof.Machine.execVPsum d a k z s
  | .vPmax d a k z => Sys2Proof.Machine.execVPmax d a k z s
  | .vPmin d a k z => Sys2Proof.Machine.execVPmin d a k z s
  | .vRng d a b k z => Sys2Proof.Machine.execVRng d a b k z s
  | .vRngf d a b k z => Sys2Proof.Machine.execVRngf d a b k z s
  | .rotC d a b k z => Sys2Proof.Machine.execRotC d a b k z s
  | .rotCg d a b k z => Sys2Proof.Machine.execRotCg d a b k z s
  | .axisC d a b k z => Sys2Proof.Machine.execAxisC d a b k z s
  | .axisCg d a b k z => Sys2Proof.Machine.execAxisCg d a b k z s
  | .gainC d b k z => Sys2Proof.Machine.execGainC d b k z s
  | .rotH d a b k z => Sys2Proof.Machine.execRotH d a b k z s
  | .rotHg d a b k z => Sys2Proof.Machine.execRotHg d a b k z s
  | .axisH d a b k z => Sys2Proof.Machine.execAxisH d a b k z s
  | .axisHg d a b k z => Sys2Proof.Machine.execAxisHg d a b k z s
  | .gainH d b k z => Sys2Proof.Machine.execGainH d b k z s
  | .rotL d a b k z => Sys2Proof.Machine.execRotL d a b k z s
  | .axisL d a b k z => Sys2Proof.Machine.execAxisL d a b k z s
  | .rotFold d a k z => Sys2Proof.Machine.execRotFold d a k z s
  | .rotUnfold d a k z => Sys2Proof.Machine.execRotUnfold d a k z s
  | .mmShape d a b => Sys2Proof.Machine.execMmShape d a b s
  | .mmMov d a k => Sys2Proof.Machine.execMmMov d a k s
  | .mmExt d a b k => Sys2Proof.Machine.execMmExt d a b k s
  | .mmIns d a b k => Sys2Proof.Machine.execMmIns d a b k s
  | .mmLd d a b k => Sys2Proof.Machine.execMmLd d a b k s
  | .mmSt d a b k => Sys2Proof.Machine.execMmSt d a b k s
  | .mmMul d a b k => Sys2Proof.Machine.execMmMul d a b k s
  | .mmMadd d a b k => Sys2Proof.Machine.execMmMadd d a b k s
  | .mmMsub d a b k => Sys2Proof.Machine.execMmMsub d a b k s
  | .mmTrn d a k => Sys2Proof.Machine.execMmTrn d a k s
  | .mmChol d a k => Sys2Proof.Machine.execMmChol d a k s
  | .mmLu d a k => Sys2Proof.Machine.execMmLu d a k s
  | .mmTrsl d a b k => Sys2Proof.Machine.execMmTrsl d a b k s
  | .mmTrsu d a b k => Sys2Proof.Machine.execMmTrsu d a b k s
  | .mmSolve d a b k => Sys2Proof.Machine.execMmSolve d a b k s
  | .mmDet d a k => Sys2Proof.Machine.execMmDet d a k s
  | .tlShape d a => Sys2Proof.Machine.execTlShape d a s
  | .tlDesc d a b => Sys2Proof.Machine.execTlDesc d a b s
  | .tlPrec a b => Sys2Proof.Machine.execTlPrec a b s
  | .tlZero d => Sys2Proof.Machine.execTlZero d s
  | .tlAcc d a b => Sys2Proof.Machine.execTlAcc d a b s
  | .tlLdp d a b op => Sys2Proof.Machine.execTlLdp d a b op s
  | .tlStp d a b => Sys2Proof.Machine.execTlStp d a b s
  | .tlBcast d a p => Sys2Proof.Machine.execTlBcast d a p s
  | .tlLdsc d a b op p => Sys2Proof.Machine.execTlLdsc d a b op p s
  | .tlMma d a b => Sys2Proof.Machine.execTlMma d a b s
  | .tlMmz d a b => Sys2Proof.Machine.execTlMmz d a b s
  | .tlMms d a b => Sys2Proof.Machine.execTlMms d a b s
  | .tlExt d a b k z => Sys2Proof.Machine.execTlExt d a b k z s
  | .tlExtr d a b k z => Sys2Proof.Machine.execTlExtr d a b k z s
  | .xsLd d a b op p => Sys2Proof.Machine.execXsLd d a b op p s
  | .xsSt d a b op p => Sys2Proof.Machine.execXsSt d a b op p s
  | .xsGth d a b op p => Sys2Proof.Machine.execXsGth d a b op p s
  | .xsSct d a b op p => Sys2Proof.Machine.execXsSct d a b op p s
  | .xsCp d a b op p => Sys2Proof.Machine.execXsCp d a b op p s
  | .xsWait a b => Sys2Proof.Machine.execXsWait a b s
  | .xsCnt d a => Sys2Proof.Machine.execXsCnt d a s
  | .xsWm d a => Sys2Proof.Machine.execXsWm d a s
  | .xsRst a b => Sys2Proof.Machine.execXsRst a b s
  | .xsCsum d a => Sys2Proof.Machine.execXsCsum d a s
  | .cbCfg d a b => Sys2Proof.Machine.execCbCfg d a b s
  | .cbAcq d a b => Sys2Proof.Machine.execCbAcq d a b s
  | .cbRel a b => Sys2Proof.Machine.execCbRel a b s
  | .cbStat d a => Sys2Proof.Machine.execCbStat d a s
  | .plDec d a b op p => Sys2Proof.Machine.execPlDec d a b op p s
  | .plIsect d a b op p => Sys2Proof.Machine.execPlIsect d a b op p s
  | .plUnite d a b op p => Sys2Proof.Machine.execPlUnite d a b op p s
  | .plBm25 d a b p => Sys2Proof.Machine.execPlBm25 d a b p s
  | .plFuse d a b p => Sys2Proof.Machine.execPlFuse d a b p s
  | .plTopk d a b p => Sys2Proof.Machine.execPlTopk d a b p s
  | .plPrm a b => Sys2Proof.Machine.execPlPrm a b s
  | .plQry a b => Sys2Proof.Machine.execPlQry a b s
  | .plStat d => Sys2Proof.Machine.execPlStat d s
  | .plClr a => Sys2Proof.Machine.execPlClr a s
  | .rsvOpen a b k => Sys2Proof.Machine.execRsvOpen a b k s
  | .rsvClaim d a b k => Sys2Proof.Machine.execRsvClaim d a b k s
  | .rsvWave d => Sys2Proof.Machine.execRsvWave d s
  | .rsvRetire k => Sys2Proof.Machine.execRsvRetire k s
  | .rsvStat d => Sys2Proof.Machine.execRsvStat d s
  | .amoAdd d a b => Sys2Proof.Machine.execAmoAdd d a b s
  | .amoMin d a b => Sys2Proof.Machine.execAmoMin d a b s
  | .amoMax d a b => Sys2Proof.Machine.execAmoMax d a b s
  | .amoAnd d a b => Sys2Proof.Machine.execAmoAnd d a b s
  | .amoOr d a b => Sys2Proof.Machine.execAmoOr d a b s
  | .amoXor d a b => Sys2Proof.Machine.execAmoXor d a b s
  | .amoSwap d a b => Sys2Proof.Machine.execAmoSwap d a b s
  | .amoCas d a b => Sys2Proof.Machine.execAmoCas d a b s
  | .amoFadd d a b => Sys2Proof.Machine.execAmoFadd d a b s
  | .gbInit d a => Sys2Proof.Machine.execGbInit d a s
  | .gbArr d a => Sys2Proof.Machine.execGbArr d a s
  | .gbWait a b => Sys2Proof.Machine.execGbWait a b s
  | .fenceRel b => Sys2Proof.Machine.execFenceRel b s
  | .fenceAcq b => Sys2Proof.Machine.execFenceAcq b s
  | .fenceAr b => Sys2Proof.Machine.execFenceAr b s
  | .detStep d => Sys2Proof.Machine.execDetStep d s
  | .detLog d => Sys2Proof.Machine.execDetLog d s
  | .claimEl d a b => Sys2Proof.Machine.execClaimEl d a b s
  | .taskSpawn a b => Sys2Proof.Machine.execTaskSpawn a b s
  | .taskJoin d a => Sys2Proof.Machine.execTaskJoin d a s
  | .taskNotify a b => Sys2Proof.Machine.execTaskNotify a b s
  | .vpRun a k => Sys2Proof.Machine.execVpRun a k s
  | .vpBr a k => Sys2Proof.Machine.execVpBr a k s
  | .vpStop k => Sys2Proof.Machine.execVpStop k s
  | .vpId d k => Sys2Proof.Machine.execVpId d k s
  | .vpAny d k => Sys2Proof.Machine.execVpAny d k s
  | .sysRd d a n => Sys2Proof.Machine.execSysRd d a n s
  | .sysWr d a n => Sys2Proof.Machine.execSysWr d a n s
  | .sysSet d a n => Sys2Proof.Machine.execSysSet d a n s
  | .sysClr d a n => Sys2Proof.Machine.execSysClr d a n s
  | .sysCall a b => Sys2Proof.Machine.execSysCall a b s
  | .sysBrk a b => Sys2Proof.Machine.execSysBrk a b s
  | .sysTinval a b => Sys2Proof.Machine.execSysTinval a b s
  | .sysId d => Sys2Proof.Machine.execSysId d s
  | .illegalInstruction w => Sys2Proof.Machine.execIllegalInstruction w s
  | .plWait => Sys2Proof.Machine.execPlWait s
  | .plAbort => Sys2Proof.Machine.execPlAbort s
  | .rsvClose => Sys2Proof.Machine.execRsvClose s
  | .taskExit => Sys2Proof.Machine.execTaskExit s
  | .vpJoin => Sys2Proof.Machine.execVpJoin s
  | .sysRet => Sys2Proof.Machine.execSysRet s
  | .sysWfi => Sys2Proof.Machine.execSysWfi s
  | .sysIfence => Sys2Proof.Machine.execSysIfence s
  | .sysHalt => Sys2Proof.Machine.execSysHalt s
  | .xuGroupComplete => Sys2Proof.Machine.execXuGroupComplete s
  | .watermarkRelease => Sys2Proof.Machine.execWatermarkRelease s
  | .dauStallRelease => Sys2Proof.Machine.execDauStallRelease s
  | .xsWaitComplete => Sys2Proof.Machine.execXsWaitComplete s
  | .streamStart => Sys2Proof.Machine.execStreamStart s
  | .streamElementComplete => Sys2Proof.Machine.execStreamElementComplete s
  | .remoteArrival => Sys2Proof.Machine.execRemoteArrival s
  | .cbAcqGrant => Sys2Proof.Machine.execCbAcqGrant s
  | .sloeCommandStart => Sys2Proof.Machine.execSloeCommandStart s
  | .sloeChunkComplete => Sys2Proof.Machine.execSloeChunkComplete s
  | .sloeBatchComplete => Sys2Proof.Machine.execSloeBatchComplete s
  | .plWaitComplete => Sys2Proof.Machine.execPlWaitComplete s
  | .tileFormExecute => Sys2Proof.Machine.execTileFormExecute s
  | .tileKStepComplete => Sys2Proof.Machine.execTileKStepComplete s
  | .tileLineComplete => Sys2Proof.Machine.execTileLineComplete s
  | .tlBcastMeet => Sys2Proof.Machine.execTlBcastMeet s
  | .rsvRendezvous => Sys2Proof.Machine.execRsvRendezvous s
  | .gbWaitRelease => Sys2Proof.Machine.execGbWaitRelease s
  | .fenceComplete => Sys2Proof.Machine.execFenceComplete s
  | .detStepResolve => Sys2Proof.Machine.execDetStepResolve s
  | .taskSpawnPush => Sys2Proof.Machine.execTaskSpawnPush s
  | .wfiWake => Sys2Proof.Machine.execWfiWake s
  | .dispatch => Sys2Proof.Machine.execDispatch s
  | .gangPreempt => Sys2Proof.Machine.execGangPreempt s
  | .eventTake => Sys2Proof.Machine.execEventTake s
  | .qctlMap => Sys2Proof.Machine.execQctlMap s
  | .qctlDrain => Sys2Proof.Machine.execQctlDrain s
  | .qctlAbort => Sys2Proof.Machine.execQctlAbort s
  | .queueDrainComplete => Sys2Proof.Machine.execQueueDrainComplete s
  | .queueAbortComplete => Sys2Proof.Machine.execQueueAbortComplete s
  | .hostDoorbell => Sys2Proof.Machine.execHostDoorbell s
  | .hostEvtpost => Sys2Proof.Machine.execHostEvtpost s
  | .hostMemRead => Sys2Proof.Machine.execHostMemRead s
  | .hostMemWrite => Sys2Proof.Machine.execHostMemWrite s
  | .peerWriteIn => Sys2Proof.Machine.execPeerWriteIn s
  | .spaesSendEntry => Sys2Proof.Machine.execSpaesSendEntry s
  | .spaesEntryComplete => Sys2Proof.Machine.execSpaesEntryComplete s
  | .spownWrite => Sys2Proof.Machine.execSpownWrite s
  | .controlInterval => Sys2Proof.Machine.execControlInterval s
  | .currentLimitTrip => Sys2Proof.Machine.execCurrentLimitTrip s
  | .currentLimitRepeat => Sys2Proof.Machine.execCurrentLimitRepeat s
  | .currantTokenVisit => Sys2Proof.Machine.execCurrantTokenVisit s
  | .equotaExhaust => Sys2Proof.Machine.execEquotaExhaust s
  | .quotaRefill => Sys2Proof.Machine.execQuotaRefill s
  | .tygenCapSet => Sys2Proof.Machine.execTygenCapSet s
  | .tygenReadback => Sys2Proof.Machine.execTygenReadback s
  | .clpQuiesce => Sys2Proof.Machine.execClpQuiesce s
  | .clpGate => Sys2Proof.Machine.execClpGate s
  | .clpWake => Sys2Proof.Machine.execClpWake s
  | .clpOpen => Sys2Proof.Machine.execClpOpen s
  | .clpQuiesced => Sys2Proof.Machine.execClpQuiesced s
  | .clpGated => Sys2Proof.Machine.execClpGated s
  | .clpAwake => Sys2Proof.Machine.execClpAwake s
  | .svcIsolate => Sys2Proof.Machine.execSvcIsolate s
  | .svcRecalibrate => Sys2Proof.Machine.execSvcRecalibrate s
  | .svcLoadMicrocode => Sys2Proof.Machine.execSvcLoadMicrocode s
  | .svcReturn => Sys2Proof.Machine.execSvcReturn s
  | .svcDone => Sys2Proof.Machine.execSvcDone s
  | .qrelRelease => Sys2Proof.Machine.execQrelRelease s
  | .qrelComplete => Sys2Proof.Machine.execQrelComplete s
  | .ckptTake => Sys2Proof.Machine.execCkptTake s
  | .ckptTakeComplete => Sys2Proof.Machine.execCkptTakeComplete s
  | .ckptRestore => Sys2Proof.Machine.execCkptRestore s
  | .ckptRestoreComplete => Sys2Proof.Machine.execCkptRestoreComplete s
  | .ckptInvalidate => Sys2Proof.Machine.execCkptInvalidate s
  | .dieReset => Sys2Proof.Machine.execDieReset s
  | .dieRelease => Sys2Proof.Machine.execDieRelease s
  | .firmwareInitComplete => Sys2Proof.Machine.execFirmwareInitComplete s
  | .mainPowerLoss => Sys2Proof.Machine.execMainPowerLoss s
  | .auxPowerLoss => Sys2Proof.Machine.execAuxPowerLoss s
  | .coldStart => Sys2Proof.Machine.execColdStart s
  | .patrolScrub => Sys2Proof.Machine.execPatrolScrub s
  | .controlRegisterWrite => Sys2Proof.Machine.execControlRegisterWrite s
  | .mainPowerReturn => Sys2Proof.Machine.execMainPowerReturn s
  | .firmwareCoreRestart => Sys2Proof.Machine.execFirmwareCoreRestart s
  | .softError => Sys2Proof.Machine.execSoftError s

end Sys2Proof.Machine
end

