-- ==== Sys2Proof/Machine/Issue.lean ====
section
/-! DEFINITION. What a step does: the control thread of a core issues its next word (R64, R65), and what moves when no
schedule says so (log 6). -/

namespace Sys2Proof.Machine

/-! ## The control thread -/

/-- A word is issued: the trap of the first check that it fails (R62, R63), cause 0xC3, which counts as an uncorrectable
event, where it reads a register that holds an uncorrectable error (R117, R119), else its meaning. -/
def State.issue (w : BitVec 32) (s : State) : Out :=
  match s.wordCause w with
  | some _ => exec (.illegalInstruction w) s
  | none => match formOf (fieldsOf w) with
    | .ok f => if s.readsBad f.instr then (Res.trap s.countUnc (plainTrap 0xC3)).finish else s.resumeSeq.withErrors f.instr (exec f.instr)
    | .error _ => exec (.illegalInstruction w) s

/-- Scalar forms that reach no memory: arithmetic, branches and jumps. -/
def scalarMajor (w : BitVec 32) : Bool :=
  let m := (fld w 0 6 : BitVec 6).toNat
  m == 1 || (decide (3 ≤ m) && decide (m ≤ 0x0B)) || m == 0x0E || m == 0x0F

/-- A scalar form runs ahead of what may still trap: one that writes g registers and the pc alone. -/
def State.runScalar (s : State) (w : BitVec 32) : Option State :=
  match s.issue w with
  | .next t => if t = { s with core := { s.core with g := t.core.g, pc := t.core.pc } } then some t else none
  | _ => none

/-- The next word behind a multiply form that may still trap: what only writes g registers goes on, as does another
multiply form; everything else is held until it has completed (R398; log 8). -/
def State.behindMul (s : State) (w : BitVec 32) : Out :=
  let held : Out := .next (s.stand .dauStall)
  if s.core.blk.live || s.core.vp.live then held
  else if mulMajor w then match s.issue w with
    | .next t => if completedIn s t || t.core.wait.isSome then .next t else held
    | o => o
  else if scalarMajor w then ((s.runScalar w).map Host.Outcome.next).getD held
  else held

/-- The control thread takes the word in hand; before it, the exit register of the iteration that has ended (R135). -/
def State.takeWord (s : State) : Out :=
  if s.exitDue then .next (if s.mulPending then s.stand .dauStall else s.exitTrap)
  else match s.hand with
  | .word w t => if t.mulPending then t.behindMul w else t.issue w
  | .fault f => if s.mulPending then .next (s.stand .dauStall) else (Res.trap s (f.trap 0)).finish
  | .blockEnd => .next (s.guardExit State.endBlock)

/-- The data of an event of the core in focus. -/
def State.ownEv (s : State) : EventArg := { EventArg.none with c := s.core.ref, ctx := s.ctxIx, cl := clusterOf s.core.id }

/-- A command of the core in focus starts. -/
def State.startCmd (s : State) (c : Cmd) : Out :=
  let e := { s with ev := { s.ownEv with p := c.port } }
  match c with
  | .stream _ => exec .streamStart e
  | .sloe _ => exec .sloeCommandStart e

/-- A core that may run takes its turn: commands of Rowan that may start do so first, then a pre-emption that is due, then
an enabled event, then what the XU queue holds, then the next word (R65, R141, R288, R403, R404). A member that the
pre-emption has stopped waits for the others; with no slot free the gang runs on (R405). While an event waits for multiply
forms, nothing is issued. -/
def State.turn (s : State) : Out :=
  match s.startDue with
  | some c => s.startCmd c
  | none =>
    match (if s.core.sys.admits then s.leaving else none) with
    | some g => if s.stoppable g then exec .gangPreempt { s with ev := s.ownEv } else .next s
    | none =>
      if s.eventDue then exec .eventTake { s with ev := s.ownEv }
      else if s.eventPends then .next s
      else (s.drainXu (fun w u => some (u.issue w))).getD s.takeWord

/-! ## Running ahead of the XU (R137, R187; log 8) -/

/-- Vector, rotation and small-matrix forms: majors 0x12 to 0x2B. -/
def xuMajor (w : BitVec 32) : Bool :=
  let m := (fld w 0 6 : BitVec 6).toNat
  decide (0x12 ≤ m) && decide (m ≤ 0x2B)

/-- The entry of the XU queue that a word at the pc makes. -/
def State.entryOf (s : State) (w : BitVec 32) : XuEntry :=
  let v := s.core.vec
  { word := w, pc := s.core.pc, vl := v.vl, mfc := v.mfc, vprof := v.vprof, mshape := s.core.mat.mshape, g := s.core.g }

/-- A form executed as an entry of the XU queue completes, and writes no register of the control thread: the state it
leaves. -/
def State.asXu (s : State) (x : XuEntry) : Option State :=
  let u := s.asEntry x
  match u.issue x.word with
  | .next t =>
    if completedIn u t && t.core.g == u.core.g && t.core.vec.vl == u.core.vec.vl && t.core.vec.vprof == u.core.vec.vprof
      && t.core.vec.mfc == u.core.vec.mfc then some t else none
  | _ => none

/-- The form of a word gives the control thread a result: it is a wait point, and is not passed on (R137, R217). -/
def wordControls (w : BitVec 32) : Bool :=
  match formOf (fieldsOf w) with
  | .ok f => controlDest f.instr
  | .error _ => true

/-- PIX at the issue of a form by the XU: V stays only where PIX matches it (R402). -/
def VecState.pixAtIssue (v : VecState) (w : BitVec 32) : Word :=
  let d := wordDest w
  if pixCls v.pix == d.1 && pixReg v.pix == d.2 then v.pix else putFld v.pix 31 (0#1)

/-- The control thread passes an XU form on and continues: one that gives the control thread no result, and that completes
behind the entries before it. MSHAPE is written at its issue (R137, R246); so is PIX of the first one (R402). -/
def State.passOn (s : State) (w : BitVec 32) : Option State :=
  if 32 ≤ s.core.vec.xuq.length || wordControls w then none
  else
    let x := s.entryOf w
    let d := s.core.vec.xuq.foldl (fun (t : Option State) y => t.bind (fun u => u.asXu y)) (some s)
    (d.bind (fun u => u.asXu x)).map (fun t => s.onCore (fun c => { c with
      pc := c.pc + 4
      vec := { c.vec with
        xuq := c.vec.xuq ++ [x], pix := if c.vec.xuq.isEmpty then c.vec.pixAtIssue w else c.vec.pix }
      mat := { c.mat with mshape := t.core.mat.mshape } }))

/-- The control thread of the core in focus runs ahead of the XU where it can: not in a run of the block buffer, a VP block
or deterministic mode. -/
def State.runAhead (s : State) : State :=
  let c := s.core
  if c.wait.isSome || c.blk.live || c.vp.live || c.fw || c.vec.det || s.mulPending || s.interrupted then s
  else match s.hand with
    | .word w t =>
      (if xuMajor w then t.passOn w else if !c.vec.xuq.isEmpty && scalarMajor w then t.runScalar w else none).getD s
    | _ => s

/-- A byte of an instruction is fetched ahead and kept (R68). Data with an uncorrectable error, and that of a quarantined
frame, is not: the read is counted and quarantines its frame as any other (R116–R119). -/
def State.fetchAhead (s : State) (c : CoreRef) (pa : Nat) : State :=
  match eccFault s.dev pa 1 with
  | some (_, bad) => (s.focus c).quarantineFault bad |>.focus s.core.ref
  | none => (s.correct pa 1).mapCore c (fun x => { x with ibuf := (pa, Memory.get s.mem pa) :: x.ibuf.filter (fun y => y.1 != pa) })

/-! ## Engines and other parts that are due -/

/-- The events that the parts of the core in focus may have due, in the order tried: a pre-emption, the matrix engine, streams, Sloe
commands, meetings, the step, the cluster, quotas, queues, and dispatch onto a core that holds no gang. -/
def State.candidates (s : State) : List (Instr × EventArg) :=
  let e := s.ownEv
  let leave : List (Instr × EventArg) := if s.leaving.isSome then [(.gangPreempt, e)] else []
  let tile : List (Instr × EventArg) :=
    if s.core.tile.queue.isEmpty then [] else [(.tileFormExecute, e), (.tileKStepComplete, e), (.tileLineComplete, e)]
  let cmds := s.core.cmds.flatMap (fun c =>
    let x := { e with p := c.port }
    match c with
    | .stream _ => [(Instr.streamStart, x), (.streamElementComplete, x), (.remoteArrival, x)]
    | .sloe y =>
      [(Instr.sloeCommandStart, x), (.sloeBatchComplete, x)]
        ++ (if y.kind == .dec then (List.range 16).map (fun i => (Instr.sloeChunkComplete, { x with chunk := BitVec.ofNat 4 i })) else []))
  let meet : List (Instr × EventArg) := match s.core.wait with
    | some .bcast => [(.tlBcastMeet, e)]
    | some .rendezvous => [(.rsvRendezvous, e)]
    | some .detStep => [(.detStepResolve, e)]
    | _ => []
  let cl := s.clAt (clusterOf s.core.id)
  let cluster : List (Instr × EventArg) :=
    if s.core.fw then []
    else (if cl.open then [] else [(.clpQuiesced, e), (.clpGated, e), (.clpAwake, e)])
      ++ (if cl.svcBusy = 0 then [] else [(.svcDone, e)])
  let idle := s.core.run != .running || s.core.wait == some .wfi
  let unit : List (Instr × EventArg) :=
    if s.core.fw || !idle then []
    else [(Instr.equotaExhaust, e), (.quotaRefill, e)]
      ++ (List.range 16).flatMap (fun i =>
        let x := { e with q := BitVec.ofNat 4 i }
        match (s.queueRaw s.ctxIx x.q).state with
        | .draining => [(Instr.queueDrainComplete, x)]
        | .aborting => [(Instr.queueAbortComplete, x)]
        | _ => [])
      ++ [(.dispatch, e)]
  leave ++ tile ++ cmds ++ meet ++ cluster ++ unit

/-- The first event of a list that is due, taken. -/
def firstDue (s : State) : List (Instr × EventArg) → Option State
  | [] => none
  | (i, x) :: r => match exec i { s with ev := x } with
    | .next t => some t
    | _ => firstDue s r

/-! ## The schedule (log 6) -/

/-- The next core comes into focus. -/
def State.rotate (s : State) : State :=
  match s.rest with
  | [] => s
  | c :: r => { s with core := c, rest := r ++ [s.core] }

/-- While a die is held in reset, no core moves (R450). -/
def State.held (s : State) : Bool := s.dev.hold || s.dev.inReset

/-- With no schedule: what is due at the core in focus, else its control thread; where it may not run or stands at a
wait point, the next core comes into focus. -/
def State.unscheduled (s : State) : Out :=
  if s.held then .next s
  else match firstDue s s.candidates with
    | some t => .next t
    | none =>
      if !s.mayRun then .next s.rotate
      else match s.turn with
        | .next t => .next (if t.core.wait.isSome then t.rotate else t)
        | o => o

/-- A scheduled turn: a core's control thread where it may run; what the control thread does ahead of the XU or of its
fetches; the host link; or an event. A turn of the schedule that names a word's form is no event, and passes. -/
def State.scheduled (s : State) (t : Turn) : Out :=
  match t with
  | .core c =>
    let u := s.focus c
    if u.held || !u.mayRun then .next u else u.turn
  | .runAhead c =>
    let u := s.focus c
    .next (if u.held || !u.mayRun then u else u.runAhead)
  | .prefetch c pa => .next (s.fetchAhead c pa.toNat)
  | .hostLink down => .next (s.onDev (fun d => { d with hostLinkDown := down }))
  | .event i x => if i.isEvent then exec i { s with ev := x } else .next s

/-- One step of the module. -/
def State.move (s : State) : Out :=
  match s.sched with
  | [] => s.unscheduled
  | t :: r => ({ s with sched := r } : State).scheduled t

/-! ## Placing a word where the next step fetches -/

/-- The state in which the core in focus fetches a word next: the dies run, the core runs at its pc, outside a run and
a VP block and at no wait point, with nothing due, nothing in the XU queue, no multiply form under way and nothing fetched ahead, in a cluster in RUN,
and the schedule names it. -/
def State.fetchReady (s : State) : State :=
  let c := s.core
  let s1 : State := { s with
    core := { c with
      run := .running, wait := none, pc := fld c.pc 2 62 ++ 0#2
      blk := { c.blk with live := false }, vp := { c.vp with live := false }
      sys := { c.sys with evt := 0 }
      vec := { c.vec with xuq := [] }
      tile := if s.mulPending then { c.tile with queue := [], running := false } else c.tile
      cmds := if s.startDue.isSome then [] else c.cmds
      ibuf := [] }
    gangs := s.gangs.map (fun g => { g with due := none })
    dev := { s.dev with dierst := putFld s.dev.dierst 0 (0#2) }
    sched := [.core c.ref] }
  if c.fw then s1 else s1.onCl (clusterOf c.id) (fun x => { x with clpstat := putFld x.clpstat 0 clRun })

/-- The word is stored at the physical address that a fetch at the pc reaches; where the fetch does not go through,
nothing is stored. -/
def State.placeWord (s : State) (w : BitVec 32) : State :=
  match translate s s.pl .fetch s.core.pc with
  | .ok x => s.poke x.pa (toBytes 4 w.toNat)
  | .error _ => s

/-- The word of a row, with every bit above nbits zero (R46). -/
def State.withWord (s : State) (nbits w : Nat) : State := s.fetchReady.placeWord (BitVec.ofNat 32 (w % 2 ^ nbits))

end Sys2Proof.Machine
end

