-- ==== Sys2Proof/Machine/Step.lean ====
section
/-! DEFINITION. The step, and the state in which the next step runs a given word. -/

namespace Sys2Proof.Machine

/-- One step: the first turn of the schedule, or what moves when no schedule says so. -/
def step (s : State) : Host.Outcome State Fault Refusal := s.move

/-- s with a word stored where the next step fetches (R46, R132; log 5). -/
def State.withFetchWord (s : State) (nbits w : Nat) : State := s.withWord nbits w

end Sys2Proof.Machine
end

