-- ==== Sys2Proof/Safety.lean ====
section
/-! DEFINITION. The terms in which statements about the machine are made: legal states, how a form ends, and what one
state shares with another. -/

namespace Sys2Proof.Machine

/-! ## Legal states -/

/-- Memory keeps its one form: addresses strictly rising, no byte that an unlisted address reads as. -/
def State.memOk (s : State) : Prop := Memory.wf s.mem = true

/-- A byte of memory as the machine holds it. -/
def State.byteAt (s : State) (pa : Nat) : Byte := Memory.get s.mem pa

/-! ## How a form ends -/

/-- The step answers a next state. -/
def goesOn (o : Out) : Prop := ∃ t, o = .next t

/-- The form completes and leaves u, from which the control thread goes on to the next word (State.next). -/
def ends (i : Instr) (s u : State) : Prop := exec i s = .next u.next

/-- The form traps (R396). -/
def traps (i : Instr) (s : State) (t : Trap) : Prop := exec i s = .next (s.enterTrap t)

/-- The form stands at a wait point; nothing else has changed (R137, R401). -/
def stands (i : Instr) (s : State) (w : Wait) : Prop := exec i s = .next (s.stand w)

/-! ## What two states share -/

/-- Only g registers of the core in focus differ. -/
def onlyG (s u : State) : Prop := u = { s with core := { s.core with g := u.core.g } }

/-- Only vector state of the core in focus differs. -/
def onlyVec (s u : State) : Prop := u = { s with core := { s.core with vec := u.core.vec } }

/-- Only small-matrix state of the core in focus differs. -/
def onlyMat (s u : State) : Prop := u = { s with core := { s.core with mat := u.core.mat } }

/-- Only tile state of the core in focus differs. -/
def onlyTile (s u : State) : Prop := u = { s with core := { s.core with tile := u.core.tile } }

/-- The device of a state with the records of errors of another: counts, quarantined frames, and the bytes that hold
errors (R116–R119). -/
def Device.withErrors (d e : Device) : Device :=
  { d with ecccnt := e.ecccnt, quarantine := e.quarantine, badBytes := e.badBytes, softBytes := e.softBytes }

/-- The clusters of a state with the translation caches of another (R108). -/
def withCaches (a b : Vector Cluster 16) : Vector Cluster 16 := Vector.ofFn (fun i => { a[i] with tlb := b[i].tlb })

/-- Only what an access to memory touches beside its data: the translation caches and the records of errors found. -/
def onlyReached (s u : State) : Prop :=
  u = { s with
    core := { s.core with tlb := u.core.tlb }, clusters := withCaches s.clusters u.clusters, dev := s.dev.withErrors u.dev }

/-- Every byte of memory outside [pa, pa + n) reads as before. -/
def sameBut (s u : State) (pa n : Nat) : Prop := ∀ a, ¬ (pa ≤ a ∧ a < pa + n) → u.byteAt a = s.byteAt a

/-- Plain memory: not a page of deterministic mode, not module control space, not the checkpoint region. -/
def Xl.plain (x : Xl) : Bool := !x.dt && regionOf x.pa != .control && regionOf x.pa != .checkpoint

end Sys2Proof.Machine
end

