-- ==== Sys2Proof/Certificates/Slice0/Obligations.lean ====
section
/-! DEFINITION. The statements of this slice, for the provers: rules of the spec as propositions about the machine. -/

open Sys2Proof Sys2Proof.Machine

/-! ## Scalar forms -/

/-- R122: what a write of g[d] leaves. g0 discards it and reads 0; every other register is unchanged. -/
def Obligations.WriteOfG : Prop :=
  ∀ (s : State) (d r : BitVec 5) (v : Word),
    (s.setG d v).g r = (if r = 0 then 0 else if r = d then v else s.g r) ∧ onlyG s (s.setG d v) ∧ s.setG 0 v = s

/-- R120: the arithmetic and logical forms, in exact arithmetic narrowed to 64 bits. Nothing but g[d] changes. -/
def Claims.scalarArithmetic : Prop :=
  ∀ (d a b : BitVec 5) (s : State),
    let x := s.g a
    let y := s.g b
    ends (.add d a b) s (s.setG d (BitVec.ofInt 64 (x.toInt + y.toInt)))
    ∧ ends (.sub d a b) s (s.setG d (BitVec.ofInt 64 (x.toInt - y.toInt)))
    ∧ ends (.and d a b) s (s.setG d (x &&& y))
    ∧ ends (.or d a b) s (s.setG d (x ||| y))
    ∧ ends (.xor d a b) s (s.setG d (x ^^^ y))
    ∧ ends (.slt d a b) s (s.setG d (if x.toInt < y.toInt then 1 else 0))
    ∧ ends (.sltu d a b) s (s.setG d (if x.toNat < y.toNat then 1 else 0))
    ∧ ends (.min d a b) s (s.setG d (BitVec.ofInt 64 (min x.toInt y.toInt)))
    ∧ ends (.max d a b) s (s.setG d (BitVec.ofInt 64 (max x.toInt y.toInt)))
    ∧ ends (.minu d a b) s (s.setG d (BitVec.ofNat 64 (min x.toNat y.toNat)))
    ∧ ends (.maxu d a b) s (s.setG d (BitVec.ofNat 64 (max x.toNat y.toNat)))
    ∧ ends (.mul d a b) s (s.setG d (BitVec.ofInt 64 (x.toInt * y.toInt)))
    ∧ ends (.mulh d a b) s (s.setG d (BitVec.ofInt 64 (x.toInt * y.toInt / 2 ^ 64)))
    ∧ ends (.mulhu d a b) s (s.setG d (BitVec.ofNat 64 (x.toNat * y.toNat / 2 ^ 64)))

/-- R120: shifts take bits [5:0] of B; clz and popc count bits of A. Nothing but g[d] changes. -/
def Claims.scalarShiftsAndCounts : Prop :=
  ∀ (d a b : BitVec 5) (s : State),
    let x := s.g a
    let n := (s.g b).toNat % 64
    ends (.sll d a b) s (s.setG d (BitVec.ofNat 64 (x.toNat * 2 ^ n)))
    ∧ ends (.srl d a b) s (s.setG d (BitVec.ofNat 64 (x.toNat / 2 ^ n)))
    ∧ ends (.sra d a b) s (s.setG d (BitVec.ofInt 64 (x.toInt / 2 ^ n)))
    ∧ (∃ z ≤ 64, ends (.clz d a) s (s.setG d (BitVec.ofNat 64 z))
        ∧ (∀ i < z, x.getMsbD i = false) ∧ (z < 64 → x.getMsbD z = true))
    ∧ ends (.popc d a) s (s.setG d (BitVec.ofNat 64 ((List.range 64).countP (fun i => x.getLsbD i))))

/-- R120: the arithmetic and logical forms, shifts, and the counts of bits. -/
def Obligations.ScalarArithmetic : Prop := Claims.scalarArithmetic ∧ Claims.scalarShiftsAndCounts


/-- R121: division. By zero the quotient is all ones and the remainder the dividend; else the quotient, toward zero, and
the remainder make up the dividend, the remainder below the divisor and of the dividend's sign; −2^63 by −1 gives −2^63
and 0. Nothing but g[d] changes. -/
def Obligations.ScalarDivision : Prop :=
  ∀ (d a b : BitVec 5) (s : State),
    let x := s.g a
    let y := s.g b
    ∃ q r qu ru : Word,
      ends (.div d a b) s (s.setG d q) ∧ ends (.rem d a b) s (s.setG d r)
      ∧ ends (.divu d a b) s (s.setG d qu) ∧ ends (.remu d a b) s (s.setG d ru)
      ∧ (y = 0 → q = BitVec.allOnes 64 ∧ r = x ∧ qu = BitVec.allOnes 64 ∧ ru = x)
      ∧ (x.toInt = -2 ^ 63 ∧ y.toInt = -1 → q.toInt = -2 ^ 63 ∧ r = 0)
      ∧ (y ≠ 0 ∧ ¬ (x.toInt = -2 ^ 63 ∧ y.toInt = -1) →
          x.toInt = y.toInt * q.toInt + r.toInt ∧ r.toInt.natAbs < y.toInt.natAbs ∧ (r = 0 ∨ r.toInt.sign = x.toInt.sign))
      ∧ (y ≠ 0 → x.toNat = y.toNat * qu.toNat + ru.toNat ∧ ru.toNat < y.toNat)

/-- R123 to R125: immediates. auipc adds to the address that the form reads as its own. Nothing but g[d] changes. -/
def Obligations.ScalarImmediates : Prop :=
  ∀ (d a : BitVec 5) (imm : BitVec 16) (n : BitVec 6) (k : BitVec 21) (s : State),
    let x := s.g a
    ends (.addi d a imm) s (s.setG d (BitVec.ofInt 64 (x.toInt + imm.toInt)))
    ∧ ends (.andi d a imm) s (s.setG d (BitVec.ofNat 64 (x.toNat &&& imm.toNat)))
    ∧ ends (.ori d a imm) s (s.setG d (BitVec.ofNat 64 (x.toNat ||| imm.toNat)))
    ∧ ends (.xori d a imm) s (s.setG d (BitVec.ofNat 64 (x.toNat ^^^ imm.toNat)))
    ∧ ends (.slli d a n) s (s.setG d (BitVec.ofNat 64 (x.toNat * 2 ^ n.toNat)))
    ∧ ends (.srli d a n) s (s.setG d (BitVec.ofNat 64 (x.toNat / 2 ^ n.toNat)))
    ∧ ends (.srai d a n) s (s.setG d (BitVec.ofInt 64 (x.toInt / 2 ^ n.toNat)))
    ∧ ends (.lui d k) s (s.setG d (BitVec.ofInt 64 (k.toInt * 2 ^ 16)))
    ∧ ends (.auipc d k) s (s.setG d (BitVec.ofInt 64 (s.core.pc.toInt + k.toInt * 2 ^ 16)))

/-- R130, R131: branches and jumps. Only the program counter and a link register change; jalr takes its target from the
old g[a], and a misaligned target traps with cause 0x0B and no link. jalr g0, 0(g1) is 0x0000080B. -/
def Obligations.BranchesAndJumps : Prop :=
  ∀ (d a b : BitVec 5) (imm off : BitVec 16) (k : BitVec 21) (s : State),
    let pc := s.core.pc
    let go (u : State) (t : Word) : State := { u with core := { u.core with pc := t, wait := none } }
    exec (.beq a b off) s = .next (go s (if s.g a = s.g b then pc + BitVec.ofInt 64 (4 * off.toInt) else pc + 4))
    ∧ exec (.bne a b off) s = .next (go s (if s.g a = s.g b then pc + 4 else pc + BitVec.ofInt 64 (4 * off.toInt)))
    ∧ exec (.jal d k) s = .next (go (s.setG d (pc + 4)) (pc + BitVec.ofInt 64 (4 * k.toInt)))
    ∧ (let t := s.g a + BitVec.ofInt 64 imm.toInt
       (t.toNat % 4 = 0 → exec (.jalr d a imm) s = .next (go (s.setG d (pc + 4)) t))
       ∧ (t.toNat % 4 ≠ 0 → traps (.jalr d a imm) s { cause := 0x0B, tval := (Instr.jalr d a imm).wordOf }))
    ∧ decode 0x0000080B = .ok (.jalr 0 1 0)

/-- The scalar loads: form, size, effective address, extension (R126). -/
def Claims.scalarLoads (s : State) (d a b : BitVec 5) (imm : BitVec 16) : List (Instr × Nat × Word × (Word → Word)) :=
  let ea := s.g a + s.g b
  [ (.ldxB d a b, 1, ea, fun w => (w.setWidth 8).signExtend 64), (.ldxBu d a b, 1, ea, fun w => (w.setWidth 8).setWidth 64),
    (.ldxH d a b, 2, ea, fun w => (w.setWidth 16).signExtend 64), (.ldxHu d a b, 2, ea, fun w => (w.setWidth 16).setWidth 64),
    (.ldxW d a b, 4, ea, fun w => (w.setWidth 32).signExtend 64), (.ldxWu d a b, 4, ea, fun w => (w.setWidth 32).setWidth 64),
    (.ldxD d a b, 8, ea, id), (.ldD d a imm, 8, s.g a + BitVec.ofInt 64 imm.toInt, id) ]

/-- The scalar stores: form, size, effective address (R126). -/
def Claims.scalarStores (s : State) (d a b : BitVec 5) (imm : BitVec 16) : List (Instr × Nat × Word) :=
  let ea := s.g a + s.g b
  [ (.stxB d a b, 1, ea), (.stxH d a b, 2, ea), (.stxW d a b, 4, ea), (.stxD d a b, 8, ea),
    (.stD d a imm, 8, s.g a + BitVec.ofInt 64 imm.toInt) ]

/-- Between two states the device differs in its records of errors alone: counts, quarantined frames, bytes in error. -/
def Claims.errorsOnly (s u : State) : Prop := u.dev = s.dev.withErrors u.dev

/-- R126, R128: a load whose access goes through writes the extended value, least significant byte at the lowest
address, to g[d] (g0 discards it), and changes no memory. The bytes are those of memory, those of the word that a control
register reads (log 30 for a part of it), in the checkpoint region those of memory where a slot's areas of the device's own
layout do not lie (log 28). Beside g[d] only translation caches and the records of errors change. -/
def Obligations.ScalarLoads : Prop :=
  ∀ (s : State) (d a b : BitVec 5) (imm : BitVec 16) (x : Xl), ∀ f ∈ Claims.scalarLoads s d a b imm,
    reach s s.core.cmds s.pl .sread f.2.2.1 f.2.1 = .ok x →
      ∃ u w, ends f.1 s (u.setG d (f.2.2.2 w)) ∧ onlyReached s u
        ∧ ∀ i < f.2.1,
          (regionOf x.pa ≠ .control → regionOf x.pa ≠ .checkpoint → w.extractLsb' (8 * i) 8 = s.byteAt (x.pa + i))
          ∧ (∀ r, x.dt = false → regionOf x.pa = .control → ctlReg (x.pa / 8 * 8) = some r →
              w.extractLsb' (8 * i) 8 = (ctlRead s r).extractLsb' (8 * (x.pa % 8 + i)) 8)
          ∧ (regionOf x.pa = .checkpoint → s.ownByte (x.pa + i) = none → w.extractLsb' (8 * i) 8 = s.byteAt (x.pa + i))

/-- R126: a store whose access goes through into plain memory writes the low bytes of g[d], least significant first, at
the address that the access reached, and changes no other byte; no register changes. -/
def Claims.scalarStoresHold : Prop :=
  ∀ (s : State) (d a b : BitVec 5) (imm : BitVec 16) (x : Xl), ∀ f ∈ Claims.scalarStores s d a b imm,
    s.memOk → reach s s.core.cmds s.pl .swrite f.2.2 f.2.1 = .ok x → x.plain = true →
      ∃ u, ends f.1 s u
        ∧ (∀ i < f.2.1, u.byteAt (x.pa + i) = (s.g d).extractLsb' (8 * i) 8)
        ∧ sameBut s u x.pa f.2.1 ∧ onlyReached s { u with mem := s.mem }

/-- R338, R450: the other two places that a store reaches. On a page with DT = 1 the bytes go to the step image under
the core's place and memory is unchanged. In module control space the form completes and writes the register with its
bytes merged into what the register reads (log 30); it changes no g register and no system register but EVT, and no memory,
but that a command in CKCTL writes the checkpoint directory. A write of DIERST may reset the dies and so end the
program; even there the step answers a next state. -/
def Claims.storesElsewhereHold : Prop :=
  ∀ (s : State) (d a b : BitVec 5) (imm : BitVec 16) (x : Xl), ∀ f ∈ Claims.scalarStores s d a b imm,
    reach s s.core.cmds s.pl .swrite f.2.2 f.2.1 = .ok x →
      (x.dt = true → ∃ u, ends f.1 s u ∧ u.mem = s.mem ∧ u.core.g = s.core.g ∧ u.core.sys = s.core.sys
        ∧ (u.ctxAt s.ctxIx).stepBytes.map (fun c => (c.lcore, c.seq, c.pa, c.val)) =
            (s.ctxAt s.ctxIx).stepBytes.map (fun c => (c.lcore, c.seq, c.pa, c.val))
              ++ (List.range f.2.1).map (fun i => (s.core.detid.extractLsb' 0 16, s.core.seq, x.pa + i, (s.g d).extractLsb' (8 * i) 8)))
      ∧ (∀ r, x.dt = false → regionOf x.pa = .control → ctlReg (x.pa / 8 * 8) = some r → r ≠ .dierst →
          ∃ (u : State) (w : Word), ends f.1 s u ∧ u.core.g = s.core.g ∧ { u.core.sys with evt := s.core.sys.evt } = s.core.sys
            ∧ onlyReached (ctlWrite s r w) u
            ∧ (∀ j < 8, w.extractLsb' (8 * j) 8 = if x.pa % 8 ≤ j ∧ j < x.pa % 8 + f.2.1
                then (s.g d).extractLsb' (8 * (j - x.pa % 8)) 8 else (ctlRead s r).extractLsb' (8 * j) 8)
            ∧ (r ≠ .ckctl → u.mem = s.mem) ∧ (s.memOk → sameBut s u 0x103E80000000 320))
      ∧ (x.dt = false → regionOf x.pa = .control → goesOn (exec f.1 s))

/-- R122, R126: scalar stores, and that they change nothing else. -/
def Obligations.ScalarStores : Prop := Claims.scalarStoresHold ∧ Claims.storesElsewhereHold


/-- R127: the order of the checks of a scalar access. The first that fails traps with its cause, TVAL the address, KIND 1
or 2 and ELEM 0, and nothing is performed. In memory outside the cores, with no earlier command, the data comes last: a
quarantined frame, uncorrectable data that the access reads or whose granule it writes in part, a host link that is down.
That the granule of ECC is 8 bytes outside device memory and the second tier too is the model's choice (log 82). Where the
access walked the tables, correctable errors in the entries read are repaired (R116: Trap.walked). -/
def Claims.scalarAccessChecksHold : Prop :=
  ∀ (s : State) (d a b : BitVec 5) (imm : BitVec 16),
    let chk (i : Instr) (n : Nat) (ea : Word) (kind : AccKind) : Prop :=
      let t (c : BitVec 8) (w : Option Nat := none) : Trap :=
        { cause := c, tval := ea, walked := w, xlinfo := some ((BitVec.ofNat 4 (if kind.writes then 2 else 1) ++ 15#4 ++ 0#8 ++ c : BitVec 24).setWidth 64) }
      (canonical ea = false → traps i s (t 0x20))
      ∧ (canonical ea = true → ea.toNat % n ≠ 0 → traps i s (t 0x2A))
      ∧ (canonical ea = true → ea.toNat % n = 0 → ∀ m, translate s s.pl kind ea = .error m → traps i s (m.trap 0))
      ∧ (canonical ea = true → ea.toNat % n = 0 → ∀ x, translate s s.pl kind ea = .ok x →
          s.foreignScratch x.pa = true → traps i s (t 0x29 (x.walked ea)))
      ∧ (canonical ea = true → ea.toNat % n = 0 → ∀ x, translate s s.pl kind ea = .ok x → x.dt = false → s.core.cmds = [] →
          (regionOf x.pa = .device ∨ regionOf x.pa = .tier ∨ regionOf x.pa = .host) →
          let lost := (kind.writes = false ∨ n < 8) ∧ ∃ y ∈ s.dev.badBytes, y / 8 = x.pa / 8
          (x.pa / 65536 ∈ s.dev.quarantine → traps i s (t 0xC4 (x.walked ea)))
          ∧ (x.pa / 65536 ∉ s.dev.quarantine → lost → ∃ y ∈ s.dev.badBytes, y / 8 = x.pa / 8
              ∧ traps i s { t (if regionOf x.pa = .device then 0xC1 else if regionOf x.pa = .tier then 0xC2 else 0xC3) (x.walked ea) with bad := some y })
          ∧ (x.pa / 65536 ∉ s.dev.quarantine → ¬ lost → regionOf x.pa = .host → s.dev.hostLinkDown = true → traps i s (t 0x2D (x.walked ea))))
    (∀ f ∈ Claims.scalarLoads s d a b imm, chk f.1 f.2.1 f.2.2.1 .sread)
    ∧ (∀ f ∈ Claims.scalarStores s d a b imm, chk f.1 f.2.1 f.2.2 .swrite)

/-- When an access goes through in the plain case: supervisor level with translation off, an aligned address of device
memory or the second tier, no Rowan command or tile form ahead, no error held. It reaches the address itself (R100,
R103, R127). -/
def Claims.plainAccessGoesThroughHold : Prop :=
  ∀ (s : State) (kind : AccKind) (va : Word) (n : Nat),
    s.pl = plSup → ((s.ctxAt s.ctxIx).atroot).getLsbD 0 = false →
    (va.toNat < 0x00C000000000 ∨ (0x100000000000 ≤ va.toNat ∧ va.toNat < 0x103E80000000)) → va.toNat % n = 0 →
    s.core.cmds = [] → s.core.tile.queue = [] → s.dev.badBytes = [] → s.dev.quarantine = [] →
      reach s s.core.cmds s.pl kind va n = .ok ⟨va.toNat, none, none⟩ ∧ (⟨va.toNat, none, none⟩ : Xl).plain = true

/-- R96: the listed ranges that user and supervisor level may reach, by their first address and the one past their end:
device memory, the general region of the second tier, chip shared memory, the scratchpads, the host window. -/
def Claims.openRanges : List (Nat × Nat) :=
  [(0, 0xC000000000), (0x100000000000, 0x103E80000000), (0x8000000000000, 0x10000000000000)]
    ++ (List.range 4).map (fun d => (0x200000000000 + d * 0x8000000, 0x200000000000 + d * 0x8000000 + 0x5000000))
    ++ (List.range 256).map (fun c => (0x210000000000 + c * 0x200000, 0x210000000000 + (c + 1) * 0x200000))

/-- Storage in which tables and instructions may lie: device memory and the general region of the second tier (R103). -/
def Claims.tableStorage (pa : Nat) : Bool := decide (pa < 0xC000000000 ∨ (0x100000000000 ≤ pa ∧ pa < 0x103E80000000))

/-- Log2 of what an entry of a level maps, and the entries of its table (R101). -/
def Claims.pageBits (l : Nat) : Nat := [48, 39, 30, 21].getD l 16
def Claims.tableEntries (l : Nat) : Nat := [256, 512, 512, 512, 32].getD l 512

/-- ADDR of an entry (R102). -/
def Claims.entryAddr (e : Word) : Nat := (e.extractLsb' 8 44).toNat * 256

/-- The checks of R103 on an entry of a level, in their order: the cause of the first that it fails. -/
def Claims.entryCause (l : Nat) (e : Word) : Option Nat :=
  let b := e.getLsbD
  let addr := Claims.entryAddr e
  let size := 2 ^ Claims.pageBits l
  let within (r : Nat × Nat) : Bool := decide (r.1 ≤ addr ∧ addr + size ≤ r.2)
  let versioned := decide (addr < 0xC000000000) || (List.range 4).any (fun d =>
    decide (0x200000000000 + d * 0x8000000 ≤ addr ∧ addr < 0x200000000000 + d * 0x8000000 + 0x5000000))
  let checks : List (Bool × Nat) := [
    (!b 0, 0x21),
    (decide (e.extractLsb' 58 6 ≠ 0#6 ∨ e.extractLsb' 5 3 ≠ 0#3 ∨ (b 1 ∧ l < 2) ∨ (¬ b 1 ∧ l = 4)
      ∨ (¬ b 1 ∧ (e.extractLsb' 52 6 ≠ 0#6 ∨ e.extractLsb' 2 3 ≠ 0#3 ∨ (l < 3 ∧ addr % 4096 ≠ 0)))
      ∨ (b 1 ∧ addr % size ≠ 0)), 0x26),
    (!b 1 && !Claims.tableStorage addr, 0x27),
    (b 1 && ((!b 2 && !b 3 && !b 4) || (b 3 && !b 2)), 0x26),
    (b 1 && ((b 54 && b 53) || (b 54 && !versioned) || (!b 53 && decide (0x8000000000000 ≤ addr ∧ addr < 0x10000000000000))
      || (b 4 && !Claims.tableStorage addr)), 0x26),
    (b 1 && !Claims.openRanges.any within, 0x28) ]
  (checks.find? (fun x => x.1)).map (fun x => x.2)

/-- The permissions of a leaf, in their order (R103): U at user level, then R, W, X. -/
def Claims.leafCause (leaf : Word) (pl : BitVec 2) (kind : AccKind) : Option Nat :=
  if pl = plUser ∧ leaf.getLsbD 52 = false then some 0x25
  else if kind.reads = true ∧ leaf.getLsbD 2 = false then some 0x22
  else if kind.writes = true ∧ leaf.getLsbD 3 = false then some 0x23
  else if kind = .fetch ∧ leaf.getLsbD 4 = false then some 0x24
  else none

/-- R99 to R103, R109, R114: translation. Bits [63:56] repeat bit 55. With translation off, at machine level and at
supervisor level, the address is the physical one, in a listed range; at user level every access faults. Else a cached
entry of the partition, of its ASID or global, serves the address, or the walk does: it reads the entries e 0 to e n, each at
the index that its level takes from the address, n the first that is no good pointer, and faults at that level or, with no
error in memory, gives the page; then the leaf's permissions are checked. A walk that succeeds gives the entry that is to
be cached, and one that fails gives none. -/
def Claims.translation : Prop :=
  ∀ (s : State) (pl : BitVec 2) (kind : AccKind) (va : Word) (n : Nat) (e : Nat → Word) (t : Nat → Nat),
    let root := (s.ctxAt s.ctxIx).atroot
    let on := root.getLsbD 0
    let asid : BitVec 12 := root.extractLsb' 52 12
    let a := va.toNat % 2 ^ 56
    let faults (c : Nat) (level : Nat) (w : Option Nat) : Prop :=
      translate s pl kind va = .error { cause := BitVec.ofNat 8 c, va := va, kind := kind.code, level := BitVec.ofNat 4 level, bad := none, walked := w }
    let good := ∀ i, 56 ≤ i → i < 64 → va.getLsbD i = va.getLsbD 55
    let listed := (∃ r ∈ Claims.openRanges, r.1 ≤ va.toNat ∧ va.toNat < r.2)
      ∨ (pl = plMach ∧ ((0x103E80000000 ≤ va.toNat ∧ va.toNat < 0x140000000000) ∨ (0x300000000000 ≤ va.toNat ∧ va.toNat < 0x300100000000)))
    let off := pl = plMach ∨ (pl = plSup ∧ on = false)
    let maps := ¬ off ∧ on = true
    let at' (l : Nat) (e : Word) : Nat := Claims.entryAddr e + a % 2 ^ Claims.pageBits l
    let base (l : Nat) : Nat := a / 2 ^ Claims.pageBits l * 2 ^ Claims.pageBits l
    let serves (x : TlbEntry) : Prop := x.part = s.ctxIx ∧ (x.asid = asid ∨ x.leaf.getLsbD 57 = true) ∧ x.vbase = base x.level
    let caches := s.core.pins ++ s.core.tlb ++ (s.clAt (clusterOf s.core.id)).tlb
    (¬ good → faults 0x20 15 none)
    ∧ (good → off → (va.extractLsb' 52 12 = 0#12 → listed → translate s pl kind va = .ok ⟨va.toNat, none, none⟩)
        ∧ (va.extractLsb' 52 12 ≠ 0#12 ∨ ¬ listed → faults 0x28 15 none))
    ∧ (good → ¬ off → on = false → faults 0x21 15 none)
    ∧ (good → maps → (∃ x ∈ caches, serves x) → ∃ x ∈ caches, serves x
        ∧ (∀ c, Claims.leafCause x.leaf pl kind = some c → faults c x.level none)
        ∧ (Claims.leafCause x.leaf pl kind = none → translate s pl kind va = .ok ⟨at' x.level x.leaf, some x.leaf, none⟩))
    ∧ (good → maps → (∀ x ∈ caches, ¬ serves x) →
        (¬ Claims.tableStorage ((root.extractLsb' 12 40).toNat * 4096) → faults 0x27 0 none)
        ∧ (Claims.tableStorage ((root.extractLsb' 12 40).toNat * 4096) → s.dev.badBytes = [] → s.dev.quarantine = [] →
          t 0 = (root.extractLsb' 12 40).toNat * 4096 → n ≤ 4 →
          (∀ l ≤ n, e l = s.peek64 (t l + 8 * (a / 2 ^ Claims.pageBits l % Claims.tableEntries l))) →
          (∀ l < n, Claims.entryCause l (e l) = none ∧ (e l).getLsbD 1 = false ∧ t (l + 1) = Claims.entryAddr (e l)) →
            (∀ c, Claims.entryCause n (e n) = some c → faults c n (some a))
            ∧ (Claims.entryCause n (e n) = none → (e n).getLsbD 1 = true →
                (∀ c, Claims.leafCause (e n) pl kind = some c → faults c n (some a))
                ∧ (Claims.leafCause (e n) pl kind = none →
                    translate s pl kind va = .ok ⟨at' n (e n), some (e n), some ⟨s.ctxIx, asid, n, base n, e n⟩⟩))))

/-- R108, R109: an access that goes through puts the entry of its walk into the cache of the core, of 256, and of its
cluster, of 8192; one without a walk changes neither. That the newest entries stay is the model's choice (log 10). -/
def Claims.translationCaches : Prop :=
  ∀ (s : State) (x : Xl),
    let cl := clusterOf s.core.id
    (x.entry = none → s.fill x = s)
    ∧ (∀ y, x.entry = some y → s.dev.softBytes = [] →
        let u := s.fill x
        u = { s with core := { s.core with tlb := (y :: s.core.tlb).take 256 }, clusters := u.clusters }
        ∧ u.clAt cl = { s.clAt cl with tlb := (y :: (s.clAt cl).tlb).take 8192 } ∧ ∀ m, m ≠ cl → u.clAt m = s.clAt m)

/-- R99 to R103, R108, R109, R114, R127, R132: the checks of an access of the core, its translation, and that one to plain
memory goes through. -/
def Obligations.AccessChecks : Prop :=
  Claims.scalarAccessChecksHold ∧ Claims.plainAccessGoesThroughHold ∧ Claims.translation ∧ Claims.translationCaches


/-- All ones while at least three iterations are left to start, else zeros (R192). -/
def Claims.stage (rem : BitVec 32) : BitVec 8192 := if 3 ≤ rem.toNat then BitVec.allOnes 8192 else 0

/-- R134 to R136, R192: the block buffer. blk.run of an empty buffer, or with count 0, goes on to the next word with BLKCNT 0,
the second with XB and POS written; a new run starts iteration 0 at word 0, in loop mode at rotation 0; a suspended run
resumes where BLK.POS stands; blk.brk reads ITER and empties the buffer. That blk.brk leaves LROT as it was is the model's choice (log 47). -/
def Claims.blockBuffer : Prop :=
  ∀ (s : State) (d a b : BitVec 5),
    let k := s.core.blk
    let n : BitVec 32 := (s.g a).setWidth 32
    (∃ u : State, ends (.blkBrk d) s (u.setG d ((k.blkcnt.setWidth 32).setWidth 64)) ∧ u = { s with core := { s.core with blk := u.core.blk } }
        ∧ u.core.blk.words = k.words ∧ u.core.blk.blkcnt = k.blkcnt ∧ u.core.blk.live = false
        ∧ u.core.blk.blk = (k.blk &&& 0xFFFFFFFFFFFC007C))
    ∧ (k.blk.getLsbD 0 = true →
        exec (.blkRun a b) s = .next { s with core := { s.core with blk := { k with live := true } } })
    ∧ (k.blk.getLsbD 0 = false → blkN k.blk = 0 → ends (.blkRun a b) s { s with core := { s.core with blk := { k with blkcnt := 0 } } })
    ∧ (k.blk.getLsbD 0 = false → blkN k.blk ≠ 0 → n = 0 → ends (.blkRun a b) s { s with core := { s.core with blk := { k with
        blk := (k.blk &&& 0xFFFFFFFFFFFFF003) ||| ((b.setWidth 64) <<< 2), blkcnt := 0 } } })
    ∧ (k.blk.getLsbD 0 = false → blkN k.blk ≠ 0 → n ≠ 0 → ∃ u, exec (.blkRun a b) s = .next u
        ∧ u.core.pc = s.core.pc ∧ u.core.blk.live = true ∧ u.core.blk.words = k.words
        ∧ u.core.blk.blkcnt = (n - 1) ++ (0 : BitVec 32)
        ∧ u.core.blk.blk = (k.blk &&& 0xFFFFFFFFFFFFF002) ||| ((b.setWidth 64) <<< 2) ||| 1
        ∧ u = { s with core := { s.core with blk := u.core.blk, vec := u.core.vec, wait := none } }
        ∧ (k.blk.getLsbD 1 = false → u.core.vec = s.core.vec)
        ∧ (k.blk.getLsbD 1 = true → u.core.vec = { s.core.vec with lrot := 0, k := u.core.vec.k }
            ∧ ∀ j : BitVec 3, rget u.core.vec.k j = if j = 4 then Claims.stage (n - 1) else if 5 ≤ j.toNat then 0 else rget s.core.vec.k j))

/-- R134: blk.cap holds the words at g[a], g[a] + 4, … in order, in states us 0, us 1, … that differ by what a fetch
touches; then N, LOOP, POS 0 and BLKCNT 0. A word that may not stand in a body (R66) traps with cause 0x0C and TVAL the
word, and the buffer stays empty. No memory, no g register and no system register changes; that LROT stays too is the
model's choice (log 47). -/
def Claims.blockCapture : Prop :=
  ∀ (s : State) (a b : BitVec 5) (m : BitVec 1) (us : Nat → State) (ws : Nat → BitVec 32) (n : Nat),
    let empty : State := { s with core := { s.core with blk := { s.core.blk with blk := s.core.blk.blk &&& 0xFFFFFFFFFFFC0FFE, unread := false } } }
    us 0 = empty → n ≤ b.toNat + 1 →
    (∀ i < n, ∃ t, fetchWord (us i) (s.g a + BitVec.ofNat 64 (4 * i)) = .ok (ws i, t) ∧ bodyWordBad s.pl (ws i) = false
      ∧ us (i + 1) = t.putBody i (ws i)) →
    (n = b.toNat + 1 → ∃ u, ends (.blkCap m a b) s u ∧ blkN u.core.blk.blk = n ∧ blkPos u.core.blk.blk = 0
        ∧ u.core.blk.blk.getLsbD 0 = false ∧ u.core.blk.blk.getLsbD 1 = m.getLsbD 0 ∧ u.core.blk.blkcnt = 0
        ∧ (∀ i < n, rget u.core.blk.words (BitVec.ofNat 5 i) = ws i)
        ∧ u.mem = s.mem ∧ u.core.g = s.core.g ∧ u.core.sys = s.core.sys ∧ u.core.vec = s.core.vec)
    ∧ (n < b.toNat + 1 → ∀ w t, fetchWord (us n) (s.g a + BitVec.ofNat 64 (4 * n)) = .ok (w, t) → bodyWordBad s.pl w = true →
        exec (.blkCap m a b) s = .next (t.enterTrap { cause := 0x0C, tval := w.setWidth 64 })
        ∧ blkN t.core.blk.blk = 0 ∧ t.core.blk.blk.getLsbD 0 = false ∧ t.mem = s.mem ∧ t.core.g = s.core.g)

/-- R131, R135, R192, R339: where the control thread stands once a form has completed outside a VP block. Outside a run the
pc is 4 further. In a run of the block buffer POS is one further, or, behind the last word, 0, and ITER one further: the run
goes on with one iteration fewer left, in loop mode with the rotation base and k4 to k7 advanced, or, with none left or with
an exit register that holds 0, it ends, with ACT, POS and the rotation base 0 and the pc past the blk.run. The core
stands at no wait point, a form that wrote to pages with DT = 1 has used its number, and nothing else changes. -/
def Claims.nextWord : Prop :=
  ∀ s : State, s.core.vp.live = false →
    let c := s.core
    let k := c.blk
    let x := s.ctxAt s.ctxIx
    let lc : BitVec 16 := c.detid.extractLsb' 0 16
    let wrote := x.stepBytes.any (fun b => b.lcore == lc && b.seq == c.seq) || x.stepUpds.any (fun b => b.lcore == lc && b.seq == c.seq)
    let past (d : Core) : State := { s with core := { d with
      wait := none, seqNext := none, seq := c.seqNext.getD (if wrote then c.seq + 1 else c.seq) } }
    let pos := (k.blk.extractLsb' 7 5).toNat
    let first : Word := k.blk &&& ~~~ 0xF80
    let xb : BitVec 5 := k.blk.extractLsb' 2 5
    let rem : BitVec 32 := k.blkcnt.extractLsb' 32 32
    let iter : BitVec 32 := k.blkcnt.extractLsb' 0 32 + 1
    let loops := k.blk.getLsbD 1
    let last := rem = 0 ∨ (xb ≠ 0 ∧ s.g xb = 0)
    (k.live = false → s.next = past { c with pc := c.pc + 4 })
    ∧ (k.live = true → pos + 1 ≠ (k.blk.extractLsb' 12 6).toNat →
        s.next = past { c with blk := { k with blk := first ||| BitVec.ofNat 64 ((pos + 1) % 32 * 128) } })
    ∧ (k.live = true → pos + 1 = (k.blk.extractLsb' 12 6).toNat → last → s.next = past { c with
        pc := c.pc + 4, blk := { k with blk := first &&& ~~~ 1, blkcnt := rem ++ iter, live := false, unread := false }
        vec := if loops then { c.vec with lrot := 0 } else c.vec })
    ∧ (k.live = true → pos + 1 = (k.blk.extractLsb' 12 6).toNat → ¬ last → ∃ v : VecState,
        s.next = past { c with blk := { k with blk := first, blkcnt := (rem - 1) ++ iter }, vec := v }
        ∧ (loops = false → v = c.vec)
        ∧ (loops = true → v = { c.vec with lrot := BitVec.ofNat 64 ((c.vec.lrot.toNat + 1) % 16), k := v.k }
            ∧ ∀ j : BitVec 3, rget v.k j = if j = 4 then Claims.stage (rem - 1) else if 5 ≤ j.toNat then rget c.vec.k (j - 1) else rget c.vec.k j))

/-- R131, R133 to R136, R192: the next word, and the block buffer, its runs and its capture. -/
def Obligations.BlockBuffer : Prop := Claims.nextWord ∧ Claims.blockBuffer ∧ Claims.blockCapture
/-! ## Vector forms -/

/-- What a form that works element by element leaves, from element group g on (R185, R188, R198, R402): each active
element of v[d] holds its result, each inactive one zero under zeroing, every other element its old bits; no other
register changes, and no tag; the sticky flags of the results are set in VSTAT; PIX.V is 0; nothing else changes. -/
def Claims.elementResults (s u : State) (d : BitVec 5) (k : BitVec 3) (z : Bool) (g : Nat) (f : Nat → Nat × Flags) : Prop :=
  let o := s.vop d
  (∀ e < o.cap, u.vbits o e =
    if 16 * g ≤ e ∧ s.act k e = true then (f e).1 % 2 ^ o.tag.width
    else if 16 * g ≤ e ∧ z = true ∧ s.inact k e = true then 0 else s.vbits o e)
  ∧ (∀ j < 32, j < o.base ∨ o.base + o.regs ≤ j → u.physReg j = s.physReg j)
  ∧ (∀ j < 32, u.physReg j = { s.physReg j with data := (u.physReg j).data })
  ∧ (∀ i < 64, u.core.vec.vstat.getLsbD i =
      (s.core.vec.vstat.getLsbD i || (List.range s.core.vec.n).any (fun e => decide (16 * g ≤ e) && s.act k e && (f e).2.getLsbD i)))
  ∧ u.core.vec.pix = (s.core.vec.pix &&& ~~~ 0x80000000)
  ∧ u = { s with core := { s.core with vec := { s.core.vec with v := u.core.vec.v, vstat := u.core.vec.vstat, pix := u.core.vec.pix } } }

/-- The operands carry one type: tag and F (R199). -/
def Claims.sameType (s : State) (d a : BitVec 5) : Prop := (s.vop d).tag = (s.vop a).tag ∧ (s.vop d).frac = (s.vop a).frac

/-- VL lies within an operand's capacity (R200). -/
def Claims.fits (s : State) (a : BitVec 5) : Prop := s.core.vec.n ≤ (s.vop a).cap

/-- The bits of the element of v[b] that element e reads under a replicate size (R50): an element of v[b]; where the form
stands at a group, and v[d] is v[b], one of the elements that it read at its issue (R185). -/
def Claims.repBits (s : State) (d b : BitVec 5) (r : BitVec 2) (e : Nat) : Nat :=
  let p := s.core.vec.pix
  let x := s.vop b
  if d = b ∧ r ≠ 0 ∧ p.getLsbD 31 = true ∧ pixCls p = clsV ∧ pixReg p = d then
    (s.core.vec.rep[repIx r e]?).getD (s.vbits x (repIx r e)) % 2 ^ x.tag.width
  else s.vbits x (repIx r e)

/-- The value of that element; of an e2m1x register with the bytes of the block it stands in (R83). -/
def Claims.repVal (s : State) (d b : BitVec 5) (r : BitVec 2) (e : Nat) : XVal :=
  let x := s.vop b
  let c := Claims.repBits s d b r e
  if x.tag = .e2m1x then
    widenE2m1 (BitVec.ofNat 4 c) (getF 8 (s.physReg x.base).scales (repIx r e / 64)) (getF 8 (s.physReg x.base).extras (repIx r e / 64))
  else x.tag.widen x.frac c

/-- Tags that the arithmetic forms admit: all but e2m1x, and but ang where marked (R199, R211). -/
def Claims.arithTag (t : Tag) : Prop := t ≠ .e2m1x
def Claims.linearTag (t : Tag) : Prop := t ≠ .e2m1x ∧ t ≠ .ang16 ∧ t ≠ .ang32

/-- The arithmetic forms of three operands: form, tags, exact value of a[e], b[e′] and d[e] (R211). -/
def Claims.arith3 (d a b : BitVec 5) (k : BitVec 3) (z : Bool) (r : BitVec 2) (w : Nat) :
    List (Instr × (Tag → Prop) × (XVal → XVal → XVal → XVal)) :=
  [ (.vAdd d a b k z r, Claims.arithTag, fun x y _ => x.add y),
    (.vSub d a b k z r, Claims.arithTag, fun x y _ => x.sub y),
    (.vMul d a b k z r, Claims.linearTag, fun x y _ => x.mul y),
    (.vMulh d a b k z r, fun t => t.isInt = true, mulhOp w),
    (.vMadd d a b k z r, Claims.linearTag, fun x y c => (x.mul y).add c),
    (.vMsub d a b k z r, Claims.linearTag, fun x y c => c.sub (x.mul y)),
    (.vMin d a b k z r, Claims.linearTag, fun x y _ => lesser x y),
    (.vMax d a b k z r, Claims.linearTag, fun x y _ => greater x y),
    (.vClamp d a b k z r, Claims.linearTag, fun x y c => lesser (greater c x) y) ]

/-- R211: major 0x18. One exact operation on the widened elements, finished once into T, for operands of one admitted
type within capacity; replication picks the element of v[b] (R50). -/
def Obligations.VectorArithmetic : Prop :=
  ∀ (s : State) (d a b : BitVec 5) (k : BitVec 3) (z : Bool) (r : BitVec 2),
    let t := s.vop a
    Claims.sameType s d a → Claims.fits s d → Claims.fits s a →
    (Claims.sameType s b a → Claims.fits s b → ∀ f ∈ Claims.arith3 d a b k z r t.tag.width, f.2.1 t.tag →
      ∃ u, ends f.1 s u ∧ Claims.elementResults s u d k z (s.startGroup clsV d) (fun e =>
        t.tag.roundRne t.frac (f.2.2 (s.vval t e) (Claims.repVal s d b r e) (s.vval (s.vop d) e))))
    ∧ (Claims.linearTag t.tag → ∃ u, ends (.vAbs d a k z) s u ∧ Claims.elementResults s u d k z (s.startGroup clsV d) (fun e =>
        t.tag.roundRne t.frac (if (s.vval t e).sign then (s.vval t e).neg else s.vval t e)))
    ∧ (Claims.arithTag t.tag → ∃ u, ends (.vNeg d a k z) s u ∧ Claims.elementResults s u d k z (s.startGroup clsV d) (fun e =>
        t.tag.roundRne t.frac (s.vval t e).neg))

/-- The integer that w bits hold under a tag: two's complement for i and fx tags, unsigned for n tags. -/
def Claims.elemInt (t : Tag) (x : Nat) : Int :=
  if t.signed ∧ 2 ^ (t.width - 1) ≤ x then (x : Int) - 2 ^ t.width else x

/-- R72, R211 in integers: integer and fx sums and differences saturate at the extremes of the tag and set SAT where the
exact result lies outside, ang sums wrap and set no flag; an integer product saturates. -/
def Obligations.VectorIntegerResults : Prop :=
  ∀ (s : State) (d a b : BitVec 5) (k : BitVec 3) (z : Bool) (r : BitVec 2) (e : Nat),
    let t := s.vop a
    let lo : Int := if t.tag.signed then -2 ^ (t.tag.width - 1) else 0
    let hi : Int := if t.tag.signed then 2 ^ (t.tag.width - 1) - 1 else 2 ^ t.tag.width - 1
    let x := Claims.elemInt t.tag (s.vbits t e)
    let y := Claims.elemInt t.tag (Claims.repBits s d b r e)
    let out (i : Instr) (v : Int) : Prop := ∃ u, ends i s u ∧ Claims.elemInt t.tag (u.vbits (s.vop d) e) = max lo (min hi v)
      ∧ (v < lo ∨ hi < v → u.core.vec.vstat.getLsbD 0 = true)
    Claims.sameType s d a → Claims.sameType s b a → Claims.fits s d → Claims.fits s a → Claims.fits s b →
    s.act k e = true → 16 * s.startGroup clsV d ≤ e →
      ((t.tag.isInt = true ∧ t.frac = 0) ∨ t.tag.isFx = true →
        out (.vAdd d a b k z r) (x + y) ∧ out (.vSub d a b k z r) (x - y))
      ∧ (t.tag.isInt = true ∧ t.frac = 0 → out (.vMul d a b k z r) (x * y) ∧ out (.vMulh d a b k z r) (x * y / 2 ^ t.tag.width)
          ∧ out (.vMin d a b k z r) (min x y) ∧ out (.vMax d a b k z r) (max x y))
      ∧ (t.tag.isAng = true → ∃ u, ends (.vAdd d a b k z r) s u
          ∧ u.vbits (s.vop d) e = (s.vbits t e + Claims.repBits s d b r e) % 2 ^ t.tag.width
          ∧ u.core.vec.vstat = s.core.vec.vstat)

/-- R76, R80: every encoding of a floating format that is no NaN widens to a value that rounds back to it without a
flag, in every mode without SATF; a NaN rounds to the canonical NaN and sets INV. -/
def Claims.floatingFormatsRoundTripHold : Prop :=
  ∀ (t : Tag) (f : FloatFmt) (m : RMode) (v : BitVec 32) (x : Nat), t.float = some f → x < 2 ^ t.width →
    (f.widen x ≠ .nan → t.round 0 ⟨m, false⟩ v (t.widen 0 x) = (x, 0))
    ∧ t.round 0 ⟨m, false⟩ v .nan = (f.nanBits, flagInv) ∧ t.widen 0 f.nanBits = .nan

/-- R212: major 0x19 on bit patterns; shift counts are the low log2(w) bits of b′. No flag is set. -/
def Obligations.VectorLogic : Prop :=
  ∀ (s : State) (d a b : BitVec 5) (k : BitVec 3) (z : Bool) (r : BitVec 2),
    let t := s.vop a
    let w := t.tag.width
    let out (i : Instr) (f : Nat → Nat → Nat) : Prop :=
      ∃ u, ends i s u ∧ Claims.elementResults s u d k z (s.startGroup clsV d)
        (fun e => (f (s.vbits t e) (Claims.repBits s d b r e), 0))
    Claims.sameType s d a → Claims.fits s d → Claims.fits s a → t.tag ≠ .e2m1x →
      out (.vNot d a k z) (fun x _ => (2 ^ w - 1) ^^^ x)
      ∧ (Claims.sameType s b a → Claims.fits s b →
        out (.vAnd d a b k z r) (fun x y => x &&& y) ∧ out (.vOr d a b k z r) (fun x y => x ||| y)
        ∧ out (.vXor d a b k z r) (fun x y => x ^^^ y)
        ∧ (t.tag.isFloat = false →
          out (.vSll d a b k z r) (fun x y => x * 2 ^ (y % w)) ∧ out (.vSrl d a b k z r) (fun x y => x / 2 ^ (y % w))
          ∧ out (.vSra d a b k z r) (fun x y =>
              (((if x < 2 ^ (w - 1) then (x : Int) else x - 2 ^ w) / 2 ^ (y % w)) % 2 ^ w).toNat)))

/-- What a form that writes bits of k[d] leaves, from element group g on (R198): results in active bits, zeros in
inactive ones under zeroing, every other bit of every mask unchanged; PIX.V is 0; nothing else changes. -/
def Claims.maskResults (s u : State) (d k : BitVec 3) (z : Bool) (f : Nat → Bool) : Prop :=
  let g := s.startGroup clsK (d.setWidth 5)
  (∀ e < 8192, (u.kreg d).getLsbD e =
    if 16 * g ≤ e ∧ s.act k e = true then f e
    else if 16 * g ≤ e ∧ z = true ∧ s.inact k e = true then false else (s.kreg d).getLsbD e)
  ∧ (∀ j, j ≠ d → u.kreg j = s.kreg j)
  ∧ u.core.vec.pix = (s.core.vec.pix &&& ~~~ 0x80000000)
  ∧ u = { s with core := { s.core with vec := { s.core.vec with k := u.core.vec.k, pix := u.core.vec.pix } } }

/-- R213: compares write the mask register; the comparison is exact, −0 equals +0, a NaN makes all but v.cne and v.cun
false. No flag is set. -/
def Obligations.VectorCompares : Prop :=
  ∀ (s : State) (d : BitVec 3) (a b : BitVec 5) (k : BitVec 3) (z : Bool) (r : BitVec 2),
    let t := s.vop a
    let out (i : Instr) (f : XVal → XVal → Bool) : Prop :=
      ∃ u, ends i s u ∧ Claims.maskResults s u d k z (fun e => f (s.vval t e) (s.vval (s.vop b) (repIx r e)))
    let num (x y : XVal) : Bool := !x.isNan && !y.isNan
    d ≠ 0 → t.tag ≠ .e2m1x → Claims.sameType s b a → Claims.fits s a → Claims.fits s b →
      out (.vCeq d a b k z r) (fun x y => num x y && decide (XVal.cmp x y = 0))
      ∧ out (.vCne d a b k z r) (fun x y => !num x y || decide (XVal.cmp x y ≠ 0))
      ∧ out (.vClt d a b k z r) (fun x y => num x y && decide (XVal.cmp x y < 0))
      ∧ out (.vCle d a b k z r) (fun x y => num x y && decide (0 ≤ XVal.cmp y x))
      ∧ out (.vCun d a b k z r) (fun x y => !num x y)

/-- The integer z is m·2^s rounded to nearest, ties to even. -/
def Claims.nearest (m s z : Int) : Prop :=
  if 0 ≤ s then z = m * 2 ^ s.toNat
  else 2 * (m - z * 2 ^ (-s).toNat).natAbs ≤ 2 ^ (-s).toNat
    ∧ (2 * (m - z * 2 ^ (-s).toNat).natAbs = 2 ^ (-s).toNat → z % 2 = 0)

/-- R79, R81: the integer to which a value m·2^e rounds in each mode, with draw u. -/
def Claims.integerRounding : Prop :=
  ∀ (u : BitVec 32) (m e : Int),
    let d : Int := 2 ^ (-e).toNat
    let n : Int := m * 2 ^ e.toNat
    let up : Int := (n % d * 2 ^ 32) / d
    Claims.nearest m e (roundInt .rne u m e)
    ∧ roundInt .rdn u m e = n / d ∧ roundInt .rup u m e = -(-n / d) ∧ roundInt .rtz u m e = n.tdiv d
    ∧ roundInt .sr u m e = n / d + (if (u.toNat : Int) < up then 1 else 0)

/-- The value, in halves and before scaling, of an e2m1x code in a block of extra value X halves (R83). -/
def Claims.halves (X : Int) (c : Nat) : Int := [0, 1, 2, 3, 4, 6, 8, 12, X, -1, -2, -3, -4, -6, -8, -12].getD c 0

/-- The extra value of a block, in halves: bits [4:0] of its extra byte, signed (R83). -/
def Claims.extraOf (x8 : Byte) : Int := if x8.toNat % 32 < 16 then (x8.toNat % 32 : Nat) else (x8.toNat % 32 : Nat) - 32

/-- R83, R85: the value of a code in a block, and the order of a block's two checks: cause 0x40 before 0x41. -/
def Claims.blockValues : Prop :=
  ∀ (c : BitVec 4) (b x8 : Byte),
    widenE2m1 c b x8 = .fin (Claims.halves (Claims.extraOf x8) c.toNat) ((b.toNat : Int) - 128)
    ∧ blockCause b x8 = (if 32 ≤ x8.toNat then some 0x40 else if b = 0xFF then some 0x41 else none)

/-- R86, steps 5 to 7: a scaled member y takes code κ of the candidates, with or without SAT: the neighbour that the mode
says, at a tie under RNE a plain code before X and else the even one, beyond the outermost candidate that one. Which beyond
lies in the direction of rounding is the model's reading (log 16). -/
def Claims.picks (mode : RMode) (u : BitVec 32) (X : Int) (y : XVal) (κ : Nat) (sat : Bool) : Prop :=
  let cand (j : Nat) (h : Int) : Prop :=
    j < 16 ∧ h = Claims.halves X j ∧ (j = 8 → ∀ i < 16, i ≠ 8 → Claims.halves X i ≠ X)
  let side (h : Int) : Int := XVal.cmp y (.fin h (-1))
  ∃ h, cand κ h
    ∧ ((∀ i v, cand i v → side v < 0) → (∀ i v, cand i v → h ≤ v) ∧ sat = (mode != .rtz && mode != .rup))
    ∧ ((∀ i v, cand i v → 0 < side v) → (∀ i v, cand i v → v ≤ h) ∧ sat = (mode != .rtz && mode != .rdn))
    ∧ (∀ i v, cand i v → side v = 0 → h = v ∧ sat = false)
    ∧ (∀ i lo j hi, cand i lo → cand j hi → 0 < side lo → side hi < 0 → (∀ q v, cand q v → v ≤ lo ∨ hi ≤ v) →
        let mid := XVal.cmp y (.fin (lo + hi) (-2))
        let draw := XVal.cmp (.fin (((u.toNat : Int) + 1) * (hi - lo)) (-33)) (y.add (.fin (-lo) (-1)))
        sat = false ∧ (h = lo ∨ h = hi) ∧
          match mode with
          | .rdn => h = lo
          | .rup => h = hi
          | .rtz => h = (if side 0 < 0 then hi else lo)
          | .rne => (mid < 0 → h = lo) ∧ (0 < mid → h = hi)
              ∧ (mid = 0 → (i = 8 → h = hi) ∧ (j = 8 → h = lo) ∧ (i ≠ 8 → j ≠ 8 → κ % 2 = 0))
          | .sr => h = (if draw ≤ 0 then hi else lo))

/-- R86: the encoding of a block from its members, each an element index, a value and a draw. The scale and the extra value
come from the first member of greatest magnitude A, L being floor(log2 A); a member that is NaN or infinite takes code 0,
sets INV and has no part in that. Where no member takes part, b and x8 are 0, which of a block with such members alone is
the model's choice (log 106). -/
def Claims.blockEncoding : Prop :=
  ∀ (c : Ctl) (ms : List (Nat × XVal × BitVec 32)),
    let B := toE2m1x c ms
    B.codes.map (fun q => q.1) = ms.map (fun q => q.1)
    ∧ (B.flags.getLsbD 1 = true ↔ ∃ q ∈ ms, q.2.1.special = true)
    ∧ ((∀ q ∈ ms, q.2.1.special = true ∨ q.2.1.isZero = true) →
        B.b = 0 ∧ B.x8 = 0 ∧ (∀ q ∈ B.codes, q.2 = 0) ∧ B.flags.getLsbD 0 = false)
    ∧ (∀ l r n m e w L xr, ms = l ++ (n, .fin m e, w) :: r → m ≠ 0 →
        let A := (XVal.fin m e).abs
        (∀ q ∈ l, q.2.1.special = true ∨ q.2.1.abs.lt A = true) → (∀ q ∈ r, q.2.1.special = true ∨ A.lt q.2.1.abs = false) →
        A.lt (.fin 1 L) = false → A.lt (.fin 1 (L + 1)) = true →
        let s : Int := max (-127) (min 127 (L - 2))
        let X : Int := max (-16) (min 15 xr)
        Claims.nearest m (e - s + 1) xr →
          (B.b.toNat : Int) = s + 127 ∧ (B.x8.toNat : Int) = X % 32
          ∧ ∃ sat : Nat → Bool,
            (∀ i q k, ms[i]? = some q → B.codes[i]? = some k →
              (q.2.1.special = true → k.2 = 0 ∧ sat i = false)
              ∧ (q.2.1.special = false → Claims.picks c.mode q.2.2 X (q.2.1.scale (-s)) k.2.toNat (sat i)))
            ∧ (B.flags.getLsbD 0 = true ↔ X ≠ xr ∨ ∃ i < ms.length, sat i = true))

/-- The blocks of the e2m1x register v[d] that a form leaves, from element group g of a block on, for active elements of
the values v: each block that holds such an element is encoded whole, every other element of it 0, and so is one with
elements under zeroing alone, which is the model's choice (log 51); every other block and register is unchanged. -/
def Claims.blockResults (s u : State) (d : BitVec 5) (c : Ctl) (k : BitVec 3) (z : Bool) (g : Nat)
    (v : Nat → XVal × BitVec 32) : Prop :=
  let o := s.vop d
  let x (t : State) := t.physReg o.base
  let mine (j : Nat) : List (Nat × XVal × BitVec 32) :=
    ((List.range' (64 * j) 64).filter (fun e => s.act k e && decide (g ≤ 4 * j))).map (fun e => (e, v e))
  let written (j : Nat) : Prop := mine j ≠ [] ∨ (z = true ∧ g ≤ 4 * j ∧ ∃ e, e / 64 = j ∧ s.inact k e = true)
  (∀ j < 128,
    let B := toE2m1x c (mine j)
    (written j → getF 8 (x u).scales j = B.b ∧ getF 8 (x u).extras j = B.x8
      ∧ ∀ e, e / 64 = j → u.vbits o e = ((B.codes.find? (fun q => q.1 == e)).map (fun q => q.2.toNat)).getD 0)
    ∧ (¬ written j → getF 8 (x u).scales j = getF 8 (x s).scales j ∧ getF 8 (x u).extras j = getF 8 (x s).extras j
      ∧ ∀ e, e / 64 = j → u.vbits o e = s.vbits o e))
  ∧ (∀ i < 64, u.core.vec.vstat.getLsbD i =
      (s.core.vec.vstat.getLsbD i || (List.range 128).any (fun j => (toE2m1x c (mine j)).flags.getLsbD i)))
  ∧ (∀ r < 32, r ≠ o.base → u.physReg r = s.physReg r)
  ∧ x u = { x s with data := (x u).data, scales := (x u).scales, extras := (x u).extras }

/-- R214, R215: conversions round once, in the mode of the form, into the tag of v[d], SAT and INV as the rounding says;
v.cvts takes its draws from v[b] of tag n32; v.wacc rounds each sum of the f32 group once. An e2m1x destination is
encoded block by block (R86). -/
def Claims.vectorConversionsHold : Prop :=
  ∀ (s : State) (d a b : BitVec 5) (sat : Bool) (k : BitVec 3) (z : Bool) (r : BitVec 2),
    let t := s.vop a
    let o := s.vop d
    let g := s.startGroup clsV d
    let out (i : Instr) (c : Ctl) (v : Nat → BitVec 32) : Prop :=
      ∃ u, ends i s u ∧ onlyVec s u
        ∧ (o.tag ≠ .e2m1x → Claims.elementResults s u d k z g (fun e => o.tag.round o.frac c (v e) (s.vval t e)))
        ∧ (o.tag = .e2m1x → Claims.blockResults s u d c k z (g / 4 * 4) (fun e => (s.vval t e, v e)))
        ∧ u.core.vec.k = s.core.vec.k ∧ u.core.vec.vl = s.core.vec.vl
    Claims.fits s d → Claims.fits s a →
      out (.vCvt d a sat k z) ⟨.rne, sat⟩ (fun _ => 0) ∧ out (.vCvtz d a sat k z) ⟨.rtz, sat⟩ (fun _ => 0)
      ∧ out (.vCvtp d a sat k z) ⟨.rup, sat⟩ (fun _ => 0) ∧ out (.vCvtm d a sat k z) ⟨.rdn, sat⟩ (fun _ => 0)
      ∧ (Claims.fits s b → (s.vop b).tag = .n32 →
          out (.vCvts d a b k z r) ⟨.sr, false⟩ (fun e => BitVec.ofNat 32 (Claims.repBits s d b r e)))
      ∧ (Claims.fits s b →
          (((t.tag = .e4m3 ∨ t.tag = .e5m2) ∧ ((s.vop b).tag = .e4m3 ∨ (s.vop b).tag = .e5m2) ∧ o.regs = 4)
            ∨ (t.tag = .e2m1x ∧ (s.vop b).tag = .e2m1x ∧ o.regs = 8)) →
          ∃ u, ends (.vWacc d a b k z r) s u ∧ Claims.elementResults s u d k z g (fun e =>
            Tag.f32.roundRne 0 ((s.vval o e).add ((s.vval t e).mul (Claims.repVal s d b r e)))))

/-- R73, R76 to R81, R83, R85, R86, R214, R215: conversions, that a format takes back its own values, rounding to an integer,
and the values and the encoding of e2m1x blocks. -/
def Obligations.VectorConversions : Prop :=
  Claims.floatingFormatsRoundTripHold ∧ Claims.integerRounding ∧ Claims.blockValues ∧ Claims.blockEncoding
    ∧ Claims.vectorConversionsHold


/-- R202: an element read across lanes, zero and OOR outside VL. -/
def Claims.cross (s : State) (t : VOp) (i : Int) : Nat × Flags :=
  if 0 ≤ i ∧ i < s.core.vec.n then (s.vbits t i.toNat, 0) else (0, flagOor)

/-- R216, R217: permutations. Reads across lanes outside VL give zero and set OOR; v.comp packs the active elements and
writes their number to VL.N. -/
def Obligations.VectorPermutations : Prop :=
  ∀ (s : State) (d a b : BitVec 5) (k : BitVec 3) (z : Bool) (r : BitVec 2),
    let t := s.vop a
    let sh := (s.g b).toNat
    let out (i : Instr) (f : Nat → Nat × Flags) : Prop := ∃ u, ends i s u ∧ Claims.elementResults s u d k z 0 f
    let acts := (List.range s.core.vec.n).filter (s.act k)
    let others (u : State) : Prop := (∀ j < 32, j < (s.vop d).base ∨ (s.vop d).base + (s.vop d).regs ≤ j → u.physReg j = s.physReg j)
      ∧ ∀ j < 32, u.physReg j = { s.physReg j with data := (u.physReg j).data }
    Claims.sameType s d a → Claims.fits s d → Claims.fits s a → t.tag ≠ .e2m1x →
      ((s.vop b).tag.isInt = true → Claims.fits s b → out (.vPerm d a b k z r) (fun e =>
          Claims.cross s t (Claims.elemInt (s.vop b).tag (s.vbits (s.vop b) (repIx r e)))))
      ∧ out (.vSldn d a b k z) (fun e => Claims.cross s t (e + sh))
      ∧ out (.vExpd d a k z) (fun e => (s.vbits t ((List.range e).countP (s.act k)), 0))
      ∧ (∃ u, ends (.vSlup d a b k z) s u ∧ onlyVec s u ∧ u.core.vec.vl = s.core.vec.vl ∧ u.core.vec.k = s.core.vec.k
          ∧ u.core.vec.vstat = s.core.vec.vstat ∧ others u
          ∧ ∀ e < (s.vop d).cap, u.vbits (s.vop d) e =
            if s.act k e = true ∧ sh ≤ e then s.vbits t (e - sh)
            else if s.inPlay e = true ∧ z = true then 0 else s.vbits (s.vop d) e)
      ∧ (∃ u, ends (.vComp d a k z) s u ∧ onlyVec s u ∧ u.core.vec.k = s.core.vec.k
          ∧ u.core.vec.n = acts.length ∧ u.core.vec.w = s.core.vec.w ∧ u.core.vec.vstat = s.core.vec.vstat ∧ others u
          ∧ (s.core.vp.live = false → ∀ e < (s.vop d).cap, u.vbits (s.vop d) e =
            if h : e < acts.length then s.vbits t acts[e]
            else if e < s.core.vec.n ∧ z = true then 0 else s.vbits (s.vop d) e))
      ∧ (Claims.sameType s b a → Claims.fits s b → ∃ u, ends (.vMrg d a b k r) s u
          ∧ Claims.elementResults s u d 0 false (s.startGroup clsV d)
              (fun e => (if (s.kreg k).getLsbD e then Claims.repBits s d b r e else s.vbits t e, 0)))

/-- R218: v.cdet counts earlier equal active elements, v.iota counts up from g[a] and saturates, v.splat copies the low
bits of g[a], v.extr reads one element, extended by its tag. -/
def Obligations.VectorGeneration : Prop :=
  ∀ (s : State) (d a b : BitVec 5) (k : BitVec 3) (z : Bool),
    let t := s.vop a
    let o := s.vop d
    (Claims.fits s d → Claims.fits s a → t.tag ≠ .e2m1x → (o.tag = .n32 ∨ o.tag = .i32) →
      ∃ u, ends (.vCdet d a k z) s u ∧ Claims.elementResults s u d k z 0 (fun e =>
        ((List.range e).countP (fun j => s.act k j && s.vbits t j == s.vbits t e), 0)))
    ∧ (Claims.fits s d → Claims.linearTag o.tag → ∃ u, ends (.vIota d a k z) s u
        ∧ Claims.elementResults s u d k z (s.startGroup clsV d) (fun e => o.tag.roundRne o.frac (.fin ((s.g a).toInt + e) 0)))
    ∧ (Claims.fits s d → o.tag ≠ .e2m1x → ∃ u, ends (.vSplat d a k z) s u
        ∧ Claims.elementResults s u d k z (s.startGroup clsV d) (fun _ => ((s.g a).toNat, 0)))
    ∧ (Claims.fits s a → t.tag ≠ .e2m1x →
        let x := Claims.cross s t (s.g b).toNat
        ∃ u : State, ends (.vExtr d a b) s (u.setG d (BitVec.ofInt 64 (Claims.elemInt t.tag x.1)))
          ∧ u = { s with core := { s.core with vec := { s.core.vec with
                pix := s.core.vec.pix &&& ~~~ 0x80000000, vstat := s.core.vec.vstat ||| x.2.setWidth 64 } } })

/-- R219: mask operations on bits below VL; v.kpop counts, v.kfirst finds the least set bit or writes all ones. -/
def Obligations.VectorMasks : Prop :=
  ∀ (s : State) (d a b : BitVec 3) (e : BitVec 5),
    let out (i : Instr) (f : Bool → Bool → Bool) : Prop :=
      ∃ u, ends i s u ∧ Claims.maskResults s u d 0 false (fun j => f ((s.kreg a).getLsbD j) ((s.kreg b).getLsbD j))
    let set := (List.range s.core.vec.n).filter (s.act a)
    let clear : State := { s with core := { s.core with vec := { s.core.vec with pix := s.core.vec.pix &&& ~~~ 0x80000000 } } }
    (d ≠ 0 → out (.vKand d a b) (fun x y => x && y) ∧ out (.vKor d a b) (fun x y => x || y)
      ∧ out (.vKxor d a b) (fun x y => x ^^ y) ∧ out (.vKandn d a b) (fun x y => x && !y))
    ∧ ends (.vKpop e a) s (clear.setG e (BitVec.ofNat 64 set.length))
    ∧ (set = [] → ends (.vKfirst e a) s (clear.setG e (BitVec.allOnes 64)))
    ∧ (∀ j ∈ set, (∀ i ∈ set, j ≤ i) → ends (.vKfirst e a) s (clear.setG e (BitVec.ofNat 64 j)))

/-- R199 to R201: the order of the checks of an operation at issue, for an integer form: the class of T, the tag of
another operand, VL above a capacity. The form traps with TVAL 0, writes nothing and sets no flag. -/
def Obligations.VectorOperandChecks : Prop :=
  ∀ (s : State) (d a b : BitVec 5) (k : BitVec 3) (z : Bool) (r : BitVec 2),
    let t := s.vop a
    let same := Claims.sameType s d a ∧ Claims.sameType s b a
    let chk (i : Instr) (okTag : Prop) : Prop :=
      (¬ okTag → traps i s { cause := 0x43 })
      ∧ (okTag → ¬ same → traps i s { cause := 0x42 })
      ∧ (okTag → same → ¬ (Claims.fits s d ∧ Claims.fits s a ∧ Claims.fits s b) → traps i s { cause := 0x44 })
    chk (.vAdd d a b k z r) (t.tag ≠ .e2m1x) ∧ chk (.vMulh d a b k z r) (t.tag.isInt = true)
    ∧ chk (.vMin d a b k z r) (Claims.linearTag t.tag) ∧ chk (.vXor d a b k z r) (t.tag ≠ .e2m1x)
    ∧ chk (.vSll d a b k z r) (t.tag.isFloat = false ∧ t.tag ≠ .e2m1x)

/-- The fold tree over 2^n partial results (R220). -/
def Claims.tree {α : Type} (op : α → α → α) : Nat → (Nat → α) → α
  | 0, p => p 0
  | n + 1, p => Claims.tree op n (fun j => op (p (2 * j)) (p (2 * j + 1)))

/-- The fold of R220: each partial result takes its elements in ascending order, then the tree joins neighbours. -/
def Claims.fold {α : Type} (op : α → α → α) (ident : α) (n : Nat) (act : List Nat) (x : Nat → α) : α :=
  Claims.tree op n (fun j => (act.filter (fun e => e % 2 ^ n == j)).foldl (fun p e => op p (x e)) ident)

/-- log2 of the fold width that VPROF.FOLD names (R179). -/
def Claims.foldLog (s : State) : Nat := if s.core.vec.vprof.extractLsb' 2 2 = 0#2 then 6 else if s.core.vec.vprof.extractLsb' 2 2 = 1#2 then 5 else 4

/-- R220: reductions fold the active elements as VPROF.FOLD says and write the result, extended by its tag, to g[d];
with no active element the identity, and EMPTY. Nothing else but VSTAT and PIX.V changes. -/
def Claims.vectorReductions : Prop :=
  ∀ (s : State) (d a : BitVec 5) (k : BitVec 3),
    let t := s.vop a
    let n := Claims.foldLog s
    let act := (List.range s.core.vec.n).filter (s.act k)
    let left (fl : Flags) : State := { s with core := { s.core with vec := { s.core.vec with
      pix := s.core.vec.pix &&& ~~~ 0x80000000
      vstat := s.core.vec.vstat ||| (fl ||| (if act = [] then 4 else 0) : BitVec 5).setWidth 64 } } }
    let val (i : Instr) (op : FVal → FVal → FVal) (ident : XVal) : Prop :=
      let r := Claims.fold op (ident, 0) n act (fun e => (s.vval t e, 0))
      let x := t.tag.roundRne t.frac r.1
      ends i s ((left (r.2 ||| x.2)).setG d (BitVec.ofInt 64 (Claims.elemInt t.tag x.1)))
    let bits (i : Instr) (op : Nat → Nat → Nat) (ident : Nat) : Prop :=
      ends i s ((left 0).setG d (BitVec.ofInt 64 (Claims.elemInt t.tag (Claims.fold op ident n act (s.vbits t)))))
    Claims.fits s a → t.tag ≠ .e2m1x →
      val (.vRsum d a k) (sumOp t.tag) .zero
      ∧ (Claims.linearTag t.tag → val (.vRmax d a k) maxOp (lowest t.tag t.frac) ∧ val (.vRmin d a k) minOp (highest t.tag t.frac))
      ∧ bits (.vRall d a k) (fun x y => x &&& y) (2 ^ t.tag.width - 1) ∧ bits (.vRany d a k) (fun x y => x ||| y) 0
      ∧ bits (.vRxor d a k) (fun x y => x ^^^ y) 0

/-- R220: an integer sum is exact and saturates once, so it does not depend on the fold width. -/
def Claims.integerSumsIgnoreTheFold : Prop :=
  ∀ (s : State) (d a : BitVec 5) (k : BitVec 3),
    let t := s.vop a
    let lo : Int := if t.tag.signed then -2 ^ (t.tag.width - 1) else 0
    let hi : Int := if t.tag.signed then 2 ^ (t.tag.width - 1) - 1 else 2 ^ t.tag.width - 1
    let sum := (((List.range s.core.vec.n).filter (s.act k)).map (fun e => Claims.elemInt t.tag (s.vbits t e))).sum
    Claims.fits s a → t.tag.isInt = true → t.frac = 0 →
      ∃ u, exec (.vRsum d a k) s = .next u ∧ u.g d = (if d = 0 then 0 else BitVec.ofInt 64 (max lo (min hi sum)))

/-- R220: reductions, and that an integer sum does not depend on the fold width. -/
def Obligations.VectorReductions : Prop := Claims.vectorReductions ∧ Claims.integerSumsIgnoreTheFold


/-- R220: scans. Element e receives the fold of the active elements up to it, finished into T. -/
def Obligations.VectorScans : Prop :=
  ∀ (s : State) (d a : BitVec 5) (k : BitVec 3) (z : Bool),
    let t := s.vop a
    let val (i : Instr) (op : FVal → FVal → FVal) (ident : XVal) : Prop :=
      ∃ u, ends i s u ∧ Claims.elementResults s u d k z 0 (fun e =>
        let r := Claims.fold op (ident, 0) (Claims.foldLog s) ((List.range (e + 1)).filter (s.act k)) (fun j => (s.vval t j, 0))
        let x := t.tag.roundRne t.frac r.1
        (x.1, r.2 ||| x.2))
    Claims.sameType s d a → Claims.fits s d → Claims.fits s a → t.tag ≠ .e2m1x →
      val (.vPsum d a k z) (sumOp t.tag) .zero
      ∧ (Claims.linearTag t.tag → val (.vPmax d a k z) maxOp (lowest t.tag t.frac) ∧ val (.vPmin d a k z) minOp (highest t.tag t.frac))

/-- R221, R222: draws. Element e takes word e mod 4 of draw e / 4 from key g[a] and counter g[b+1]:g[b], as n32 or i32
bits, or as the f32 of its upper 24 bits, which lies in [0, 1); the generator gives the words of the spec's test vector. -/
def Obligations.VectorDraws : Prop :=
  (∀ (s : State) (d a b : BitVec 5) (k : BitVec 3) (z : Bool),
    let draw (e : Nat) : BitVec 32 :=
      let x := arx10 (s.g a) ((s.g (b + 1) ++ s.g b) + BitVec.ofNat 128 (e / 4))
      if e % 4 = 0 then x.x0 else if e % 4 = 1 then x.x1 else if e % 4 = 2 then x.x2 else x.x3
    Claims.fits s d →
      ((s.vop d).tag = .n32 ∨ (s.vop d).tag = .i32 → ∃ u, ends (.vRng d a b k z) s u
        ∧ Claims.elementResults s u d k z (s.startGroup clsV d) (fun e => ((draw e).toNat, 0)))
      ∧ ((s.vop d).tag = .f32 → ∃ u, ends (.vRngf d a b k z) s u
        ∧ Claims.elementResults s u d k z (s.startGroup clsV d)
            (fun e => (Tag.f32.roundRne 0 (.fin ((draw e).toNat / 2 ^ 8 : Nat) (-24))))))
  ∧ arx10 1 0 = ⟨0x010FAF2B, 0xC2BBC090, 0x494216FC, 0x120C9528⟩

/-! ## Vector configuration -/

/-- R177, R178, R180, R190: vsetvl grants min(request, MVL) and writes VL and g[d]; vprof and vmfc return the old value
and write a value without reserved codes (else cause 0x48, nothing changed); a change of VPROF.MVLC keeps every tag and
lowers VL.N to the new maximum. With a stream of a load-data queue active or pending, vprof waits and vmfc takes cause
0x62. Nothing else changes. -/
def Obligations.VectorConfiguration : Prop :=
  ∀ (s : State) (d a b : BitVec 5),
    let v := s.core.vec
    let x := s.g a
    let mvl32 (y : Word) : Nat := if y.extractLsb' 0 2 = 0#2 then 1024 else if y.extractLsb' 0 2 = 1#2 then 512 else 256
    let idle := ∀ c ∈ s.core.cmds, ∀ y, c = .stream y → ¬ (8 ≤ y.port.toNat ∧ y.port.toNat ≤ 11)
    let okP := x.extractLsb' 5 59 = 0#59 ∧ x.extractLsb' 0 2 ≠ 3#2 ∧ x.extractLsb' 2 2 ≠ 3#2
    let okM := x.extractLsb' 1 14 = 0#14 ∧ (Tag.ofCode (x.extractLsb' 15 5)).isSome = true ∧ (x.extractLsb' 20 3).toNat < 4
    (∀ t, Tag.ofCode b = some t → ∃ u : State,
      let n := min x.toNat (mvl32 v.vprof * 32 / t.width)
      ends (.vsetvl d a b) s (u.setG d (BitVec.ofNat 64 n))
        ∧ u = { s with core := { s.core with vec := { v with vl := u.core.vec.vl } } }
        ∧ u.core.vec.n = n ∧ widthOfCode u.core.vec.w = t.width ∧ u.core.vec.vl.extractLsb' 19 45 = 0#45)
    ∧ (¬ okP → traps (.vprof d a) s { cause := 0x48 })
    ∧ (okP → ¬ idle → stands (.vprof d a) s .dauStall) ∧ (okM → ¬ idle → traps (.vmfc d a) s { cause := 0x62 })
    ∧ (okP → idle → ∃ u : State, ends (.vprof d a) s (u.setG d v.vprof) ∧ onlyVec s { u with fresh := s.fresh } ∧ u.core.vec.vprof = x
        ∧ (∀ i < 32, (u.physReg i).tag = (s.physReg i).tag ∧ (u.physReg i).frac = (s.physReg i).frac ∧ (u.physReg i).grp = (s.physReg i).grp)
        ∧ (v.vprof.extractLsb' 0 2 = x.extractLsb' 0 2 → u.core.vec = { v with vprof := x })
        ∧ (v.vprof.extractLsb' 0 2 ≠ x.extractLsb' 0 2 →
            u.core.vec.n = min v.n (mvl32 x * 32 / widthOfCode v.w) ∧ u.core.vec.w = v.w ∧ u.core.vec.k = v.k))
    ∧ (¬ okM → traps (.vmfc d a) s { cause := 0x48 })
    ∧ (okM → idle → ends (.vmfc d a) s (({ s with core := { s.core with vec := { v with mfc := x } } } : State).setG d v.mfc))

/-- R174: vcfg gives the registers of its group the tag, F and group code; a register whose width stays keeps its bits;
registers outside keep theirs, and lose at most their group. vlq writes the frame size of R195. -/
def Obligations.VectorTagsAndFrames : Prop :=
  ∀ (s : State) (d a f : BitVec 5) (g : BitVec 2) (c : BitVec 5) (t : Tag),
    let p := (s.physV d).toNat
    let n := grpSize g
    let x := s.vreg a
    let cnt := s.spillCount a
    (Tag.ofCode c = some t → p + n ≤ 32 → (s.core.blk.loopMode = false ∨ n = 1 ∨ d.toNat + n ≤ 16) →
      ∃ u, ends (.vcfg d c f g) s u ∧ onlyVec s { u with fresh := s.fresh }
        ∧ (∀ i < 32, p ≤ i → i < p + n →
            (u.physReg i).tag = t ∧ (u.physReg i).frac = f ∧ (u.physReg i).grp = g
            ∧ ((s.physReg i).tag.width = t.width → (s.physReg i).tag ≠ .e2m1x → t ≠ .e2m1x → (u.physReg i).data = (s.physReg i).data))
        ∧ (∀ i < 32, i < p ∨ p + n ≤ i → u.physReg i = { s.physReg i with grp := (u.physReg i).grp }
            ∧ ((u.physReg i).grp = (s.physReg i).grp ∨ (u.physReg i).grp = 0))
        ∧ u.core.vec.k = s.core.vec.k ∧ u.core.vec.vl = s.core.vec.vl)
    ∧ (s.spillOver a = false →
        ends (.vlq d a) s (({ s with core := { s.core with vec := { s.core.vec with pix := s.core.vec.pix &&& ~~~ 0x80000000 } } } : State).setG d
          (BitVec.ofNat 64 (16 + if x.tag = .e2m1x then ((cnt + 63) / 64 * 34 + 15) / 16 * 16 else (cnt * (x.tag.width / 8) + 15) / 16 * 16))))

/-! ## Vector memory -/

/-- An access of n bytes goes through, reaching x, with no walk to be cached. -/
def Claims.reaches (s : State) (kind : AccKind) (va : Word) (n : Nat) (x : Xl) : Prop :=
  reach s s.core.cmds s.pl kind va n = .ok x ∧ x.entry = none

/-- Index of element e of v.ldx into v[d] (R203, R205). -/
def Claims.index (s : State) (d b : BitVec 5) (r : BitVec 2) (e : Nat) : Int :=
  Claims.elemInt (s.vop b).tag (Claims.repBits s d b r e)

/-- Element address of the forms at a fixed step, strided, indexed, at one address, and by rank (R205). -/
def Claims.elemAddrs (s : State) (d a b : BitVec 5) (imm : BitVec 16) (k : BitVec 3) (r : BitVec 2) (e : Nat) :
    Word × Word × Word × Word × Word :=
  let msz := (memFmt s.core.vec (s.vop d).tag).tag.width / 8
  (s.g a + BitVec.ofInt 64 imm.toInt + BitVec.ofNat 64 (e * msz), s.g a + BitVec.ofInt 64 (e * (s.g b).toInt),
    s.g a + BitVec.ofInt 64 (Claims.elemInt (s.vop b).tag (s.vbits (s.vop b) (repIx r e)) * msz), s.g a,
    s.g a + BitVec.ofNat 64 ((List.range e).countP (s.act k) * msz))

/-- R191, R204, R205, R208: vector loads into a register and from a format that are not e2m1x. Where every active element's
access goes through, each holds its element of memory, converted as MFC says; nothing else changes but the device's records
of errors: ECCCNT, the quarantined frames, and the bytes in error. -/
def Obligations.VectorLoads : Prop :=
  ∀ (s : State) (d a b : BitVec 5) (imm : BitVec 16) (k : BitVec 3) (z : Bool) (r : BitVec 2) (x : Nat → Xl),
    let t := s.vop d
    let m := memFmt s.core.vec t.tag
    let n := m.tag.width / 8
    let g := s.startGroup clsV d
    let out (i : Instr) (k : BitVec 3) (z : Bool) (addr : Nat → Word) : Prop :=
      (∀ e, s.act k e = true → 16 * g ≤ e → Claims.reaches s .vread (addr e) n (x e)) →
      ∃ u, ends i s u ∧ Claims.errorsOnly s u ∧ Claims.elementResults s { u with dev := s.dev } d k z g (fun e =>
          let raw := ofBytes (s.readAt (x e) .vread e (addr e) n)
          if m.en then t.tag.round t.frac m.ctl 0 ((m.tag.widen 0 raw).scale m.sc) else (raw, 0))
    Claims.fits s d → t.tag ≠ .e2m1x → m.tag ≠ .e2m1x →
      out (.vLd d a imm) 0 false (fun e => (Claims.elemAddrs s d a b imm 0 r e).1)
      ∧ out (.vLds d a b k z) k z (fun e => (Claims.elemAddrs s d a b imm k r e).2.1)
      ∧ ((s.vop b).tag.isInt = true → Claims.fits s b → out (.vLdx d a b k z r) k z (fun e => s.g a + BitVec.ofInt 64 (Claims.index s d b r e * n)))
      ∧ out (.vLdb d a k z) k z (fun e => (Claims.elemAddrs s d a b imm k r e).2.2.2.1)
      ∧ out (.vLdc d a k z) k z (fun e => (Claims.elemAddrs s d a b imm k r e).2.2.2.2)

/-- R205, R207, R209: v.ldk reads a bit an element; v.ldff reports in g[b] how far it got, without a trap where an element
of a group after the first fails with a translation cause, whatever the data of the group's other elements; v.ldq takes
the elements of a queue that holds enough, and counts them in VQRD; a format that no stream delivers, or a size other
than the stream's, takes cause 0x6A. -/
def Obligations.VectorLoadsSpecial : Prop :=
  ∀ (s : State) (d a b : BitVec 5) (kd k : BitVec 3) (z : Bool) (x : Nat → Xl),
    let t := s.vop d
    let v := s.core.vec
    let m := memFmt v t.tag
    let n := m.tag.width / 8
    let g := s.startGroup clsV d
    let conv (raw : Nat) : Nat × Flags :=
      if m.en then t.tag.round t.frac m.ctl 0 ((m.tag.widen 0 raw).scale m.sc) else (raw, 0)
    let addr (e : Nat) : Word := s.g a + BitVec.ofNat 64 (e * n)
    let p : BitVec 4 := a.setWidth 4
    let c := 16 * (p.toNat - 8)
    let cnt := (v.vqrd.extractLsb' c 16).toNat
    (kd ≠ 0 → (∀ e, s.inPlay e = true → 16 * s.startGroup clsK (kd.setWidth 5) ≤ e →
        Claims.reaches s .vread (s.g a + BitVec.ofNat 64 (e / 8)) 1 (x e)) →
      ∃ u, ends (.vLdk kd a) s u ∧ Claims.errorsOnly s u ∧ Claims.maskResults s { u with dev := s.dev } kd 0 false (fun e =>
        (ofBytes (s.readAt (x e) .vread e (s.g a + BitVec.ofNat 64 (e / 8)) 1)).testBit (e % 8)))
    ∧ (Claims.fits s d → t.tag ≠ .e2m1x → m.tag ≠ .e2m1x →
        ((∀ e, s.act k e = true → 16 * g ≤ e → Claims.reaches s .vread (addr e) n (x e)) →
          ∃ u : State, ends (.vLdff d a b k z) s (u.setG b (BitVec.ofNat 64 v.n)) ∧ Claims.errorsOnly s u
            ∧ Claims.elementResults s { u with dev := s.dev } d k z g
                (fun e => conv (ofBytes (s.readAt (x e) .vread e (addr e) n))))
        ∧ (∀ j q f, 0 < j → g ≤ j → 16 * j ≤ q → q < 16 * j + 16 → s.act k q = true →
            (∀ e < 16 * j, s.act k e = true → 16 * g ≤ e → Claims.reaches s .vread (addr e) n (x e)) →
            reach s s.core.cmds s.pl .vread (addr q) n = .error (.fault f) → 0x20 ≤ f.cause.toNat → f.cause.toNat ≤ 0x2A →
            ∃ u : State, ends (.vLdff d a b k z) s (u.setG b (BitVec.ofNat 64 (16 * j))) ∧ Claims.errorsOnly s u ∧ onlyVec s { u with dev := s.dev }
              ∧ (∀ e < t.cap, 16 * j ≤ e → u.vbits t e = s.vbits t e)
              ∧ (∀ e < 16 * j, 16 * g ≤ e → s.act k e = true →
                  u.vbits t e = (conv (ofBytes (s.readAt (x e) .vread e (addr e) n))).1 % 2 ^ t.tag.width)))
    ∧ (Claims.fits s d → t.tag ≠ .e2m1x → m.tag ≠ .e2m1x → 8 ≤ a.toNat → a.toNat ≤ 11 →
        (s.core.hasStream p true = true ∨ s.core.hasStream p false = false) →
        (streamFmt m.tag.code = false ∨ n ≠ 2 ^ (xNsz (s.xstat p)).toNat → traps (.vLdq d a k z) s { cause := 0x6A })
        ∧ (streamFmt m.tag.code = true → n = 2 ^ (xNsz (s.xstat p)).toNat → cnt + v.n ≤ xCnt (s.xstat p) →
        ∃ u, ends (.vLdq d a k z) s u
          ∧ Claims.elementResults s { u with core := { u.core with vec := { u.core.vec with vqrd := v.vqrd } } } d k z g
              (fun e => conv ((s.core.port.ldq[p.toNat % 4]'(Nat.mod_lt _ (by decide))).getD (cnt + e) 0).toNat)
          ∧ (u.core.vec.vqrd.extractLsb' c 16).toNat = (cnt + v.n) % 2 ^ 16
          ∧ (∀ i < 64, i < c ∨ c + 16 ≤ i → u.core.vec.vqrd.getLsbD i = v.vqrd.getLsbD i)))

/-- What a vector store leaves, for elements at physical addresses pa e of n bytes with values val e: the bytes of each
active element from group g on, the higher element where two meet, no other byte; flags of conversions in VSTAT, PIX.V
0, and nothing else but the device's records of errors. -/
def Claims.storeResults (s u : State) (act : Nat → Bool) (g n : Nat) (pa : Nat → Nat) (val : Nat → Nat × Flags) : Prop :=
  (∀ e i, act e = true → 16 * g ≤ e → i < n → (∀ q > e, act q = true → ¬ (pa q ≤ pa e + i ∧ pa e + i < pa q + n)) →
    u.byteAt (pa e + i) = BitVec.ofNat 8 ((val e).1 / 256 ^ i))
  ∧ (∀ p, (∀ e, act e = true → 16 * g ≤ e → ¬ (pa e ≤ p ∧ p < pa e + n)) → u.byteAt p = s.byteAt p)
  ∧ (∀ i < 64, u.core.vec.vstat.getLsbD i =
      (s.core.vec.vstat.getLsbD i || (List.range s.core.vec.n).any (fun e => decide (16 * g ≤ e) && act e && (val e).2.getLsbD i)))
  ∧ u.core.vec.pix = (s.core.vec.pix &&& ~~~ 0x80000000)
  ∧ u = { s with mem := u.mem, dev := s.dev.withErrors u.dev, core := { s.core with vec := { s.core.vec with vstat := u.core.vec.vstat, pix := u.core.vec.pix } } }

/-- R191, R205, R206, R208: vector stores to a format that is not e2m1x, in plain memory, where every active element's
access goes through. v.pf changes nothing but PIX.V, which any form of the XU clears (R402). -/
def Claims.vectorStores : Prop :=
  ∀ (s : State) (d a b : BitVec 5) (imm : BitVec 16) (k : BitVec 3) (r : BitVec 2) (x : Nat → Xl),
    let t := s.vop d
    let m := memFmt s.core.vec t.tag
    let n := m.tag.width / 8
    let g := s.startGroup clsMem 0
    let out (i : Instr) (k : BitVec 3) (addr : Nat → Word) : Prop :=
      (∀ e, s.act k e = true → 16 * g ≤ e → Claims.reaches s .vwrite (addr e) n (x e) ∧ (x e).plain = true) →
      ∃ u, ends i s u ∧ Claims.storeResults s u (s.act k) g n (fun e => (x e).pa) (fun e =>
          if m.en then m.tag.round 0 m.ctl 0 ((s.vval t e).scale (-m.sc)) else (s.vbits t e, 0))
    s.memOk → Claims.fits s d → m.tag ≠ .e2m1x →
      out (.vSt d a imm) 0 (fun e => (Claims.elemAddrs s d a b imm 0 r e).1)
      ∧ out (.vSts d a b k) k (fun e => (Claims.elemAddrs s d a b imm k r e).2.1)
      ∧ ((s.vop b).tag.isInt = true → Claims.fits s b → out (.vStx d a b k r) k (fun e => (Claims.elemAddrs s d a b imm k r e).2.2.1))
      ∧ out (.vStc d a k) k (fun e => (Claims.elemAddrs s d a b imm k r e).2.2.2.2)
      ∧ ends (.vPf a b) s { s with core := { s.core with vec := { s.core.vec with pix := s.core.vec.pix &&& ~~~ 0x80000000 } } }

/-- R206: v.stk writes bits below VL to memory, byte by byte; bits at or above VL of the last byte, and every other byte,
keep their values. -/
def Claims.maskStores : Prop :=
  ∀ (s : State) (d : BitVec 3) (a : BitVec 5) (x : Nat → Xl),
    let n := s.core.vec.n
    let va (i : Nat) : Word := s.g a + BitVec.ofNat 64 i
    s.memOk → s.startGroup clsMem 0 = 0 → s.core.vp.live = false → n ≤ 8192 →
    (∀ i, 8 * i < n → Claims.reaches s .vwrite (va i) 1 (x i) ∧ (x i).plain = true ∧ (n < 8 * i + 8 → Claims.reaches s .atomic (va i) 1 (x i))) →
    (∀ i j, 8 * i < n → 8 * j < n → (x i).pa = (x j).pa → i = j) →
      ∃ u, ends (.vStk d a) s u
        ∧ (∀ i j, 8 * i + j < n → j < 8 → (u.byteAt (x i).pa).getLsbD j = (s.kreg d).getLsbD (8 * i + j))
        ∧ (∀ i j, 8 * i < n → n ≤ 8 * i + j → j < 8 → (u.byteAt (x i).pa).getLsbD j = (s.byteAt (x i).pa).getLsbD j)
        ∧ (∀ p, (∀ i, 8 * i < n → p ≠ (x i).pa) → u.byteAt p = s.byteAt p)
        ∧ u = { s with mem := u.mem, dev := s.dev.withErrors u.dev, core := { s.core with vec := { s.core.vec with pix := s.core.vec.pix &&& ~~~ 0x80000000 } } }

/-- R191, R205, R206, R208: stores of vector and of mask registers to plain memory. -/
def Obligations.VectorStores : Prop := Claims.vectorStores ∧ Claims.maskStores


/-- R210: scatter updates in plain memory. Equal addresses are merged in element order and each address is updated once;
for integer tags the word at an address becomes the saturated sum of its old value and of every active element that
names it, or the least or greatest of them. Bytes that no active element names are unchanged. -/
def Obligations.ScatterUpdates : Prop :=
  ∀ (s : State) (d a b : BitVec 5) (k : BitVec 3) (r : BitVec 2) (x : Nat → Xl),
    let t := s.vop d
    let n := t.tag.width / 8
    let va (e : Nat) : Word := s.g a + BitVec.ofInt 64 (Claims.elemInt (s.vop b).tag (s.vbits (s.vop b) (repIx r e)) * n)
    let act := (List.range s.core.vec.n).filter (s.act k)
    let old (e : Nat) : Int := Claims.elemInt t.tag (ofBytes (Memory.read s.mem (x e).pa n))
    let names (e : Nat) : List Int := (act.filter (fun q => va q == va e)).map (fun q => Claims.elemInt t.tag (s.vbits t q))
    let lo : Int := if t.tag.signed then -2 ^ (t.tag.width - 1) else 0
    let hi : Int := if t.tag.signed then 2 ^ (t.tag.width - 1) - 1 else 2 ^ t.tag.width - 1
    let out (i : Instr) (f : Int → List Int → Int) : Prop :=
      ∃ u, ends i s u
        ∧ (t.tag.isInt = true ∧ t.frac = 0 → ∀ e ∈ act, Claims.elemInt t.tag (ofBytes (Memory.read u.mem (x e).pa n)) = f (old e) (names e))
        ∧ (∀ p, (∀ e ∈ act, ¬ ((x e).pa ≤ p ∧ p < (x e).pa + n)) → u.byteAt p = s.byteAt p)
        ∧ u.core.g = s.core.g ∧ u.core.sys = s.core.sys ∧ u.core.vec.v = s.core.vec.v ∧ u.core.vec.k = s.core.vec.k
    s.memOk → Claims.fits s d → Claims.fits s b → (s.vop b).tag.isInt = true → t.tag ≠ .e2m1x → s.core.vec.mfc.getLsbD 0 = false →
    (∀ e ∈ act, Claims.reaches s .atomic (va e) n (x e) ∧ (x e).plain = true) →
    (∀ e ∈ act, ∀ q ∈ act, (va e = va q ↔ (x e).pa = (x q).pa) ∧ ((x e).pa ≠ (x q).pa → (x e).pa + n ≤ (x q).pa ∨ (x q).pa + n ≤ (x e).pa)) →
      out (.vSxadd d a b k r) (fun m l => max lo (min hi (m + l.sum)))
      ∧ (t.tag.isAng = false → out (.vSxmin d a b k r) (fun m l => l.foldl min m) ∧ out (.vSxmax d a b k r) (fun m l => l.foldl max m))

/-- Every aligned access to the len bytes from a base goes through, into plain memory from physical address P up. -/
def Claims.span (s : State) (kind : AccKind) (base : Word) (len P : Nat) : Prop :=
  ∀ o n, (n = 1 ∨ n = 2 ∨ n = 4 ∨ n = 8) → o + n ≤ len → (base + BitVec.ofNat 64 o).toNat % n = 0 →
    ∃ x, Claims.reaches s kind (base + BitVec.ofNat 64 o) n x ∧ x.plain = true ∧ x.pa = P + o

/-- R83 to R86, R191: e2m1x registers and e2m1x memory. A load of another format into an e2m1x register encodes its blocks.
v.ld of e2m1x memory takes bit i of an element's code from plane i of its block, and the block's scale and extra bytes; it
traps at the first block whose bytes are refused, cause 0x40 before 0x41, and that block writes nothing; into another tag,
or where MFC converts, each value is scaled and rounded. v.st writes the planes and the two bytes. Nothing else changes but
the device's records of errors. -/
def Obligations.BlockElements : Prop :=
  ∀ (s : State) (d a b : BitVec 5) (imm : BitVec 16) (k : BitVec 3) (z : Bool) (r : BitVec 2) (x : Nat → Xl) (P Q : Nat),
    let v := s.core.vec
    let t := s.vop d
    let m := memFmt v t.tag
    let n := m.tag.width / 8
    let base := s.g a + BitVec.ofInt 64 imm.toInt
    let blocks := (v.n + 63) / 64
    let p : BitVec 4 := a.setWidth 4
    let out (i : Instr) (k : BitVec 3) (addr : Nat → Word) : Prop :=
      (∀ e, s.act k e = true → Claims.reaches s .vread (addr e) n (x e)) →
        ∃ u, ends i s u ∧ Claims.errorsOnly s u ∧ onlyVec s { u with dev := s.dev } ∧ u.core.vec.k = v.k
          ∧ (s.startGroup clsV d = 0 → Claims.blockResults s u d m.ctl k z 0 (fun e =>
              ((m.tag.widen 0 (ofBytes (s.readAt (x e) .vread e (addr e) n))).scale m.sc, 0)))
    let bit (e i : Nat) : Nat := ((s.byteAt (P + 32 * (e / 64) + 8 * i + e % 64 / 8)).getLsbD (e % 8)).toNat
    let code (e : Nat) : BitVec 4 := BitVec.ofNat 4 (bit e 0 + 2 * bit e 1 + 4 * bit e 2 + 8 * bit e 3)
    let held (e : Nat) : XVal := (widenE2m1 (code e) (s.byteAt (Q + 2 * (e / 64))) (s.byteAt (Q + 2 * (e / 64) + 1))).scale m.sc
    Claims.fits s d →
      (m.tag ≠ .e2m1x → t.tag = .e2m1x →
        out (.vLd d a imm) 0 (fun e => (Claims.elemAddrs s d a b imm 0 r e).1)
        ∧ out (.vLds d a b k z) k (fun e => (Claims.elemAddrs s d a b imm k r e).2.1)
        ∧ ((s.vop b).tag.isInt = true → Claims.fits s b → out (.vLdx d a b k z r) k (fun e => s.g a + BitVec.ofInt 64 (Claims.index s d b r e * n)))
        ∧ out (.vLdb d a k z) k (fun e => (Claims.elemAddrs s d a b imm k r e).2.2.2.1)
        ∧ out (.vLdc d a k z) k (fun e => (Claims.elemAddrs s d a b imm k r e).2.2.2.2)
        ∧ ((∀ e, s.act k e = true → Claims.reaches s .vread (s.g a + BitVec.ofNat 64 (e * n)) n (x e)) →
            ∃ u : State, ends (.vLdff d a b k z) s (u.setG b (BitVec.ofNat 64 v.n)) ∧ Claims.errorsOnly s u ∧ onlyVec s { u with dev := s.dev })
        ∧ (8 ≤ a.toNat → a.toNat ≤ 11 → (s.core.hasStream p true = true ∨ s.core.hasStream p false = false) →
            streamFmt m.tag.code = true → n = 2 ^ (xNsz (s.xstat p)).toNat → (v.vqrd.extractLsb' (16 * (p.toNat - 8)) 16).toNat + v.n ≤ xCnt (s.xstat p) →
            ∃ u, ends (.vLdq d a k z) s u ∧ onlyVec s u))
      ∧ (m.tag = .e2m1x → Claims.span s .vread base (32 * blocks) P → Claims.span s .vread (base + m.scd) (2 * blocks) Q → base.toNat % 8 = 0 →
          (∀ i < blocks, blockCause (s.byteAt (Q + 2 * i)) (s.byteAt (Q + 2 * i + 1)) = none) →
          ∃ u, ends (.vLd d a imm) s u ∧ Claims.errorsOnly s u ∧ onlyVec s { u with dev := s.dev } ∧ u.core.vec.k = v.k
            ∧ (s.startGroup clsV d = 0 → s.core.vp.live = false →
                (t.tag = .e2m1x → m.en = false → (∀ e < v.n, u.vbits t e = (code e).toNat)
                  ∧ ∀ i < blocks, getF 8 (u.physReg t.base).scales i = s.byteAt (Q + 2 * i)
                      ∧ getF 8 (u.physReg t.base).extras i = s.byteAt (Q + 2 * i + 1))
                ∧ (t.tag = .e2m1x → m.en = true → Claims.blockResults s u d m.ctl 0 false 0 (fun e => (held e, 0)))
                ∧ (t.tag ≠ .e2m1x → Claims.elementResults s { u with dev := s.dev } d 0 false 0 (fun e => t.tag.round t.frac m.ctl 0 (held e)))))
      ∧ (m.tag = .e2m1x → s.core.vp.live = false → ∀ i c, i < blocks → s.startGroup clsV d = 4 * i →
          Claims.span s .vread (base + BitVec.ofNat 64 (32 * i)) 32 P → Claims.span s .vread (base + m.scd + BitVec.ofNat 64 (2 * i)) 2 Q →
          base.toNat % 8 = 0 → blockCause (s.byteAt Q) (s.byteAt (Q + 1)) = some c →
          exec (.vLd d a imm) s = .next (({ s with core := { s.core with vec :=
            { v with pix := pixWord clsV d (4 * i), mcap := none, rep := [] } } } : State).enterTrap { cause := c }))
      ∧ (s.memOk → m.tag = .e2m1x → Claims.span s .vwrite base (32 * blocks) P → Claims.span s .vwrite (base + m.scd) (2 * blocks) Q →
          base.toNat % 8 = 0 → (P + 32 * blocks ≤ Q ∨ Q + 2 * blocks ≤ P) →
          ∃ u, ends (.vSt d a imm) s u
            ∧ (m.en = false → s.startGroup clsMem 0 = 0 → s.core.vp.live = false → ∀ e < v.n, ∀ i < 4,
                (u.byteAt (P + 32 * (e / 64) + 8 * i + e % 64 / 8)).getLsbD (e % 8) = (s.vbits t e).testBit i)
            ∧ (m.en = false → s.startGroup clsMem 0 = 0 → s.core.vp.live = false → ∀ i < blocks,
                u.byteAt (Q + 2 * i) = getF 8 (s.physReg t.base).scales i ∧ u.byteAt (Q + 2 * i + 1) = getF 8 (s.physReg t.base).extras i)
            ∧ (m.en = true → s.startGroup clsMem 0 = 0 → s.core.vp.live = false → ∀ i < blocks,
                let B := toE2m1x m.ctl (((List.range v.n).filter (fun e => e / 64 == i)).map (fun e => (e, (s.vval t e).scale (-m.sc), 0)))
                u.byteAt (Q + 2 * i) = B.b ∧ u.byteAt (Q + 2 * i + 1) = B.x8
                ∧ ∀ q ∈ B.codes, ∀ p < 4, (u.byteAt (P + 32 * i + 8 * p + q.1 % 64 / 8)).getLsbD (q.1 % 8) = q.2.getLsbD p)
            ∧ (∀ q, ¬ (P ≤ q ∧ q < P + 32 * blocks) → ¬ (Q ≤ q ∧ q < Q + 2 * blocks) → u.byteAt q = s.byteAt q)
            ∧ u.core.vec.v = v.v ∧ u.core.vec.k = v.k
            ∧ u = { s with mem := u.mem, dev := s.dev.withErrors u.dev, core := { s.core with vec := u.core.vec } })

/-- R194, R195, R196: a spill writes the frame of v[a] at g[b], header, elements and zeros up to 16 bytes, and changes no
other byte; a fill gives v[d] the tag, F, group code and elements of the frame at g[b], an e2m1x frame without the block check of R85, which is the model's choice (log 89). Neither
changes VL. Beside that nothing changes but the vector state, a free counter and the device's records of errors. -/
def Obligations.SpillAndFill : Prop :=
  ∀ (s : State) (d a b : BitVec 5) (P : Nat),
    let v := s.core.vec
    let x := s.vreg a
    let c := s.spillCount a
    let es := x.tag.width / 8
    let size := frameSize x.tag c
    let w0 := wordOfBytes (Memory.read s.mem P 8)
    let n := (w0.extractLsb' 16 16).toNat
    let p := (s.physV d).toNat
    (s.memOk → s.core.vp.live = false → s.startGroup clsMem 0 = 0 → s.spillOver a = false → (s.g b).toNat % 16 = 0 →
      Claims.span s .vwrite (s.g b) size P →
      ∃ u, ends (.vspill a b) s u
        ∧ wordOfBytes (Memory.read u.mem P 8) =
            ((BitVec.ofNat 16 c ++ 0#4 ++ x.grp ++ x.frac ++ x.tag.code : BitVec 32)).setWidth 64
        ∧ wordOfBytes (Memory.read u.mem (P + 8) 8) = 0
        ∧ (x.tag ≠ .e2m1x → (∀ e < c, ofBytes (Memory.read u.mem (P + 16 + e * es) es) = x.bits x.tag.width e)
            ∧ ∀ i, 16 + c * es ≤ i → i < size → u.byteAt (P + i) = 0)
        ∧ sameBut s u P size
        ∧ u.core.vec.v = v.v ∧ u.core.vec.k = v.k ∧ u.core.vec.vl = v.vl
        ∧ u = { s with mem := u.mem, dev := s.dev.withErrors u.dev, core := { s.core with vec := u.core.vec } })
    ∧ (∀ t, Tag.ofCode (w0.extractLsb' 0 5) = some t → s.core.vp.live = false → s.startGroup clsV d = 0 → (s.g b).toNat % 16 = 0 →
        Claims.span s .vread (s.g b) (frameSize t n) P → wordOfBytes (Memory.read s.mem (P + 8) 8) = 0 →
        w0.extractLsb' 12 4 = 0#4 → w0.extractLsb' 32 32 = 0#32 →
        vcfgLitOk (w0.extractLsb' 0 5) (w0.extractLsb' 5 5) (w0.extractLsb' 10 2) = true → n ≤ v.mvl t.width →
        s.fillGroupBad d (w0.extractLsb' 10 2) = false →
        ∃ u, ends (.vfill d b) s u ∧ Claims.errorsOnly s u ∧ onlyVec s { u with dev := s.dev, fresh := s.fresh }
          ∧ (u.physReg p).tag = t ∧ (u.physReg p).frac = w0.extractLsb' 5 5 ∧ (u.physReg p).grp = w0.extractLsb' 10 2
          ∧ (t ≠ .e2m1x → ∀ e < n, (u.physReg p).bits t.width e = ofBytes (Memory.read s.mem (P + 16 + e * (t.width / 8)) (t.width / 8)))
          ∧ u.core.vec.vl = v.vl ∧ u.core.vec.k = v.k)

/-! ## Rotation lanes -/

/-- The rotation forms with three operands: form, mode, what it does, iterations (R225). -/
def Claims.rotations (d a b : BitVec 5) (k : BitVec 3) (z : Bool) : List (Instr × RotMode × RotKind × Nat) :=
  let n := b.toNat + 1
  [ (.rotC d a b k z, .circ, .rotate false, n), (.rotCg d a b k z, .circ, .rotate true, n),
    (.axisC d a b k z, .circ, .axis false, n), (.axisCg d a b k z, .circ, .axis true, n), (.gainC d b k z, .circ, .gain, n),
    (.rotH d a b k z, .hyp, .rotate false, n), (.rotHg d a b k z, .hyp, .rotate true, n),
    (.axisH d a b k z, .hyp, .axis false, n), (.axisHg d a b k z, .hyp, .axis true, n), (.gainH d b k z, .hyp, .gain, n),
    (.rotL d a b k z, .lin, .rotate false, n), (.axisL d a b k z, .lin, .axis false, n),
    (.rotFold d a k z, .circ, .fold, 1), (.rotUnfold d a k z, .circ, .unfold, 1) ]

/-- R225, R233, R236: what a rotation form writes, for operands of the tags that R224 admits: x and y of the pair v[d],
v[d+1] and z of v[a], by the steps of R226 to R236 on each active element; the linear forms write no x, the rotate and
gain forms no z. Inactive elements take zero under zeroing in the registers written. SAT, INV and RANGE go to VSTAT. No
other register, and nothing outside the vector state, changes. -/
def Obligations.RotationForms : Prop :=
  ∀ (s : State) (d a b : BitVec 5) (k : BitVec 3) (z : Bool), ∀ f ∈ Claims.rotations d a b k z,
    let m := f.2.1
    let kd := f.2.2.1
    let a := match kd with
      | .gain => 0
      | _ => a
    let p := s.vop d
    let y := s.vop (d + 1)
    let q := s.vop a
    let g := s.startGroup clsV d
    let res (e : Nat) : RotOut := rotElem m kd f.2.2.2 p q (s.vbits p e) (s.vbits y e) (s.vbits q e)
    let angleTag := kd = .gain ∨ (match m, kd with
      | _, .fold | _, .unfold => q.tag = .ang16 ∨ q.tag = .ang32
      | .circ, _ => q.tag = .fx16 ∨ q.tag = .fx32 ∨ q.tag = .f32 ∨ q.tag = .ang16 ∨ q.tag = .ang32
      | _, _ => q.tag = .fx16 ∨ q.tag = .fx32 ∨ q.tag = .f32)
    let holds (u : State) (o : VOp) (w : Bool) (v : Nat → Nat) : Prop := ∀ e < o.cap, u.vbits o e =
      if w = true ∧ 16 * g ≤ e ∧ s.act k e = true then v e % 2 ^ o.tag.width
      else if w = true ∧ 16 * g ≤ e ∧ z = true ∧ s.inact k e = true then 0 else s.vbits o e
    d.toNat % 2 = 0 → p.regs = 1 → y.regs = 1 → (kd ≠ .gain → q.regs = 1 ∧ q.base ≠ p.base ∧ q.base ≠ y.base) →
    (p.tag = .fx16 ∨ p.tag = .fx32 ∨ p.tag = .f32) → angleTag → p.tag = y.tag → p.frac = y.frac →
    Claims.fits s d → (kd ≠ .gain → Claims.fits s a) →
      ∃ u, ends f.1 s u ∧ holds u p (m != .lin) (fun e => (res e).x) ∧ holds u y true (fun e => (res e).y)
        ∧ (kd ≠ .gain → holds u q kd.writesZ (fun e => (res e).z))
        ∧ (∀ j < 32, j ≠ p.base → j ≠ y.base → (kd = .gain ∨ j ≠ q.base) → u.physReg j = s.physReg j)
        ∧ (∀ i < 64, u.core.vec.vstat.getLsbD i = (s.core.vec.vstat.getLsbD i ||
            (List.range s.core.vec.n).any (fun e => decide (16 * g ≤ e) && s.act k e && (res e).flags.getLsbD i)))
        ∧ u.core.vec.pix = (s.core.vec.pix &&& ~~~ 0x80000000)
        ∧ u = { s with core := { s.core with vec := { s.core.vec with v := u.core.vec.v, vstat := u.core.vec.vstat, pix := u.core.vec.pix } } }

/-- R227, R229: one iteration in each mode, and the sequence of shifts. A rotate form turns by the sign of Z, a
vector-to-axis form against the sign of Y; a zero stops a linear iteration alone; the shifts round down. -/
def Claims.rotationIterations : Prop :=
  (∀ (m : RotMode) (rot : Bool) (A : Nat → Int) (v : RotVals) (j : Nat),
    let w := rotStep m rot A v j
    let c : Int := if rot then v.z else -v.y
    let sg : Int := if m = .lin ∧ c = 0 then 0 else if rot then (if 0 ≤ v.z then 1 else -1) else (if 0 ≤ v.y then -1 else 1)
    let s := rotShift m j
    w.y = v.y + sg * (v.x / 2 ^ s) ∧ w.z = v.z - sg * A j
      ∧ (m = .circ → w.x = v.x - sg * (v.y / 2 ^ s)) ∧ (m = .hyp → w.x = v.x + sg * (v.y / 2 ^ s)) ∧ (m = .lin → w.x = v.x))
  ∧ (List.range 32).map (rotShift .hyp) =
      [1, 2, 3, 4, 4, 5, 6, 7, 8, 9, 10, 11, 12, 13, 13, 14, 15, 16, 17, 18, 19, 20, 21, 22, 23, 24, 25, 26, 27, 28, 29, 30]
  ∧ ∀ j, rotShift .circ j = j ∧ rotShift .lin j = j

/-- R230: the gain constant is the integer nearest to 2^32 / K, K² being the product of 1 + 4^−s in circular and of
1 − 4^−s in hyperbolic mode over the shifts s of the iterations, and 1 in linear mode; and the constants that the spec lists. -/
def Claims.gainConstants : Prop :=
  (∀ (m : RotMode) (n : Nat), n ≤ 32 →
    let prod (f : Nat → Nat) : Nat := (List.range n).foldl (fun a j => a * f (4 ^ rotShift m j)) 1
    let num := match m with
      | .circ => prod (fun p => p + 1)
      | .hyp => prod (fun p => p - 1)
      | .lin => 1
    let den := if m = .lin then 1 else prod id
    let c := gainConst m n
    (2 * c - 1) ^ 2 * num ≤ 2 ^ 66 * den ∧ 2 ^ 66 * den ≤ (2 * c + 1) ^ 2 * num)
  ∧ gainConst .circ 1 = 0xB504F334 ∧ gainConst .circ 2 = 0xA1E89B12 ∧ gainConst .circ 16 = 0x9B74EDA9
  ∧ (∀ n, 17 ≤ n → n ≤ 32 → gainConst .circ n = 0x9B74EDA8) ∧ gainConst .hyp 1 = 0x1279A7459
  ∧ (∀ n, 18 ≤ n → n ≤ 32 → gainConst .hyp n = 0x1351E8720)

/-- R75, R232: an angle of w bits is its quadrant and a residual of at most an eighth of a turn; a quarter turn and its
inverse cancel; the sector of a vector, removed, leaves it within an eighth of a turn of the x axis. -/
def Claims.angleFolds : Prop :=
  (∀ (w n : Nat), 3 ≤ w → n < 2 ^ w →
    let f := angFold n w
    f.1 < 4 ∧ -(2 ^ (w - 3) : Int) ≤ f.2 ∧ f.2 < 2 ^ (w - 3) ∧ ((f.1 : Int) * 2 ^ (w - 2) + f.2 - n) % 2 ^ w = 0)
  ∧ (∀ (q : Nat) (x y : Int), q < 4 → quadRot ((4 - q) % 4) (quadRot q x y).1 (quadRot q x y).2 = (x, y))
  ∧ (∀ x y : Int, (x ≠ 0 ∨ y ≠ 0) →
      let v := quadRot ((4 - sector x y) % 4) x y
      0 < v.1 ∧ -v.1 ≤ v.2 ∧ v.2 ≤ v.1 ∧ v.1.natAbs + v.2.natAbs = x.natAbs + y.natAbs)

/-- R228: the entries that the spec lists for Q = fx16.12, but for the circular one at j = 4, where its table and its formula
differ and the model follows the formula (log 15); the exact ones; and the range sum of its worked example. -/
def Claims.angleEntries : Prop :=
  (List.range 4).map (angleEntry .circ false 20) = [823550, 486170, 256879, 130396]
  ∧ (List.range 5).map (angleEntry .hyp false 20) = [575989, 267820, 131761, 65622, 65622]
  ∧ (∀ k j, j ≤ k → k ≤ 40 → angleEntry .lin false k j = (2 ^ (k - j) : Nat))
  ∧ angleEntry .circ true 24 0 = (2 ^ 21 : Nat) ∧ angleEntry .circ true 40 0 = (2 ^ 37 : Nat)
  ∧ angleSum .lin false 20 4 = 1966080

/-- R226: the working integers. An fx value takes eight guard bits; an f32 pair is counted in the unit of its greater
magnitude, 2^(floor(log2 m) − 37), or 2^−149 where both are zero; an f32 value is rounded to nearest in its unit. -/
def Claims.workingUnits : Prop :=
  ∀ (t : VOp) (a b : Nat),
    let x := t.tag.widen t.frac a
    let y := t.tag.widen t.frac b
    let u := pairUnit t x y
    let near (v : XVal) (e : Int) : Prop := match v with
      | .fin m f => Claims.nearest m (f - e) (toUnits v e)
      | _ => toUnits v e = 0
    let mag (v : XVal) : Nat := match v with
      | .fin m f => m.natAbs * 2 ^ (f + 149).toNat
      | _ => 0
    let top := max (mag x) (mag y)
    (t.tag.isFx = true → a < 2 ^ t.tag.width → b < 2 ^ t.tag.width →
      u = -((t.frac : Int) + 8) ∧ (angleUnit t : Int) = -u
        ∧ toUnits x u = Claims.elemInt t.tag a * 256 ∧ toUnits y u = Claims.elemInt t.tag b * 256)
    ∧ (t.tag = .f32 → x.special = false → y.special = false → near x u ∧ near y u ∧ near x (-38) ∧ angleUnit t = 38
        ∧ (top = 0 → u = -149) ∧ (top ≠ 0 → -186 ≤ u ∧ 2 ^ (u + 186).toNat ≤ top ∧ top < 2 ^ (u + 187).toNat))

/-- Where R236 puts a vector outside the range of a vector-to-axis form. -/
def Claims.outside (m : RotMode) (n : Nat) (x y : Int) : Prop :=
  let ay : Int := y.natAbs
  match m with
  | .circ => x < 0 ∨ (n = 1 ∧ ay > x) ∨ (n = 2 ∧ ay > 3 * x) ∨ (n = 3 ∧ ay > 13 * x)
  | .hyp => (x ≤ 0 ∧ ¬ (x = 0 ∧ y = 0)) ∨ (n = 1 ∧ 2 * ay > x) ∨ (n = 2 ∧ 3 * ay > 2 * x) ∨ (n = 3 ∧ 26 * ay > 19 * x)
      ∨ (4 ≤ n ∧ 4 * ay > 3 * x)
  | .lin => (x ≤ 0 ∧ ¬ (x = 0 ∧ y = 0)) ∨ 2 ^ (n - 1) * ay > (2 ^ n - 1) * x

/-- R231 to R236: one element of a rotation form. An operand that is NaN or infinite leaves NaN, or 0, and INV. The
iterations of R229 run on the folded working values, v 0 to v n, and the results are rounded once, a g form's times the
gain constant; a zero that results is +0. The shortcuts of R234 skip them, and RANGE is set where R236 says. gain.c and
gain.h round the operands times the constant; rot.fold and rot.unfold round the folded pair. -/
def Claims.rotationElements : Prop :=
  ∀ (m : RotMode) (kd : RotKind) (n : Nat) (p q : VOp) (xb yb zb : Nat), 1 ≤ n → n ≤ 32 →
    (p.tag.isFx = true ∨ p.tag = .f32) → (q.tag.isFx = true ∨ q.tag = .f32 ∨ (q.tag.isAng = true ∧ m = .circ)) →
    let o := rotElem m kd n p q xb yb zb
    let xv := p.tag.widen p.frac xb
    let yv := p.tag.widen p.frac yb
    let zv := q.tag.widen q.frac zb
    let u := pairUnit p xv yv
    let X := toUnits xv u
    let Y := toUnits yv u
    let k := angleUnit q
    let w := q.tag.width
    let ang := q.tag.isAng
    let plus (t : VOp) (r : Nat × Flags) : Nat × Flags := (if t.tag = .f32 ∧ r.1 % 2 ^ 31 = 0 then 0 else r.1, r.2)
    let wr (t : VOp) (v e : Int) : Nat × Flags := plus t (t.tag.roundRne t.frac (.fin v e))
    let pair (x y c ce : Int) (fl : Flags) : Prop :=
      o.x = (wr p (x * c) (u + ce)).1 ∧ o.y = (wr p (y * c) (u + ce)).1
        ∧ o.flags = (fl ||| (wr p (x * c) (u + ce)).2 ||| (wr p (y * c) (u + ce)).2)
    let C : Int := gainConst m n
    let nan (t : VOp) : Nat := (t.tag.roundRne t.frac .nan).1
    let special := xv.special = true ∨ yv.special = true ∨ (kd ≠ .gain ∧ zv.special = true)
    let turn := (4 - sector X Y) % 4
    (special → o.x = nan p ∧ o.y = nan p ∧ o.z = nan q ∧ o.flags = flagInv)
    ∧ (¬ special → match kd with
      | .gain =>
        let a := plus p (p.tag.roundRne p.frac (xv.mul (.fin C (-32))))
        let b := plus p (p.tag.roundRne p.frac (yv.mul (.fin C (-32))))
        o.x = a.1 ∧ o.y = b.1 ∧ o.flags = (a.2 ||| b.2)
      | .fold =>
        let f := angFold zb w
        let xy := quadRot f.1 X Y
        pair xy.1 xy.2 1 0 0 ∧ (o.z : Int) = f.2 % 2 ^ w
      | .unfold =>
        let xy := quadRot turn X Y
        pair xy.1 xy.2 1 0 0 ∧ (o.z : Int) = ((zb : Int) + sector X Y * 2 ^ (w - 2)) % 2 ^ w
      | .rotate g =>
        let f := angFold zb w
        let xy := if ang = true then quadRot f.1 X Y else (X, Y)
        let z : Int := if ang = true then f.2 * 256 else toUnits zv (-k)
        (g = true → z = 0 →
          (ang = true ∧ f.1 ≠ 0 → pair xy.1 xy.2 1 0 0) ∧ (¬ (ang = true ∧ f.1 ≠ 0) → o.x = xb ∧ o.y = yb ∧ o.flags = 0))
        ∧ (¬ (g = true ∧ z = 0) → ∃ v : Nat → RotVals, v 0 = ⟨xy.1, xy.2, z⟩
            ∧ (∀ j < n, v (j + 1) = rotStep m true (angleEntry m ang k) (v j) j)
            ∧ pair (v n).x (v n).y (if g = true then C else 1) (if g = true then -32 else 0)
                (if ang = false ∧ angleSum m false k n < (z.natAbs : Int) then flagRange else 0))
      | .axis g =>
        let xy := if ang = true then quadRot turn X Y else (X, Y)
        let z : Int := if ang = true then 0 else toUnits zv (-k)
        (X = 0 ∧ Y = 0 → o.x = xb ∧ o.y = yb ∧ o.z = zb ∧ o.flags = 0)
        ∧ (g = true → Y = 0 → 0 < X → o.x = xb ∧ o.y = 0 ∧ o.z = zb ∧ o.flags = 0)
        ∧ (¬ (X = 0 ∧ Y = 0) → ¬ (g = true ∧ Y = 0 ∧ 0 < X) → ∃ v : Nat → RotVals, v 0 = ⟨xy.1, xy.2, z⟩
            ∧ (∀ j < n, v (j + 1) = rotStep m false (angleEntry m ang k) (v j) j)
            ∧ (ang = true → (o.z : Int) = ((zb : Int) + sector X Y * 2 ^ (w - 2) + rdiv (v n).z 256) % 2 ^ w)
            ∧ (ang = false → o.z = (wr q (v n).z (-k)).1)
            ∧ ∃ out : Bool, (out = true ↔ ang = false ∧ Claims.outside m n xy.1 xy.2)
              ∧ pair (v n).x (v n).y (if g = true then C else 1) (if g = true then -32 else 0)
                  ((if ang = true then 0 else (wr q (v n).z (-k)).2) ||| (if out = true then flagRange else 0))))

/-- R75, R226 to R236: one iteration in each mode, the table of angles, the gain constants, the folding of angles and of
vectors, the working integers, and what one element of a form receives. -/
def Obligations.RotationSteps : Prop :=
  Claims.rotationIterations ∧ Claims.angleEntries ∧ Claims.gainConstants ∧ Claims.angleFolds ∧ Claims.workingUnits
    ∧ Claims.rotationElements


/-! ## Small matrices -/

/-- Captured shapes that the core keeps once a small-matrix form has completed: an interrupted form's own go with it (R246). -/
def Claims.shapesLeft (s : State) (cls : BitVec 2) (reg : BitVec 5) : Option Word :=
  let p := s.core.vec.pix
  if p.getLsbD 31 = true ∧ pixCls p = cls ∧ pixReg p = reg then none else s.core.vec.mcap

/-- The vector state that such a form leaves where it writes neither a vector register nor a flag. -/
def Claims.matrixVec (s : State) (cls : BitVec 2) (reg : BitVec 5) : VecState :=
  { s.core.vec with pix := s.core.vec.pix &&& ~~~ 0x80000000, mcap := Claims.shapesLeft s cls reg }

/-- What a small-matrix form leaves of m[d], from element group g on (R245, R246, R250): value (i, j) inside the shape of
each active slot, its PERM where the form writes it, everything else unchanged; the shape of m[d] in MSHAPE; flags. -/
def Claims.slotResults (s u : State) (d k : BitVec 3) (h : Shape) (perm : Bool) (f : Nat → MW) : Prop :=
  let g := s.startGroup clsM (d.setWidth 5)
  let on (e : Nat) : Prop := 16 * g ≤ e ∧ s.act k e = true
  (∀ e < 64, ∀ i < 6, ∀ j < 6,
    (on e → i < h.rows → j < h.cols → ((u.mreg d).slot e).at i j = (f e).w.at i j % 2 ^ 32)
    ∧ (¬ (on e ∧ i < h.rows ∧ j < h.cols) → ((u.mreg d).slot e).at i j = ((s.mreg d).slot e).at i j))
  ∧ (∀ e < 64, ∀ i < 6,
    (on e → perm = true → i < (f e).perm.length → ((u.mreg d).permOf e).getD i 0 = (f e).perm.getD i 0 % 256)
    ∧ (¬ (on e ∧ perm = true ∧ i < (f e).perm.length) → ((u.mreg d).permOf e).getD i 0 = ((s.mreg d).permOf e).getD i 0))
  ∧ (∀ r, r ≠ d → u.mreg r = s.mreg r ∧ shapeOf u.core.mat.mshape r = shapeOf s.core.mat.mshape r)
  ∧ shapeOf u.core.mat.mshape d = h ∧ u.core.mat.mmctl = s.core.mat.mmctl
  ∧ (∀ i < 64, u.core.mat.mmflg.getLsbD i = (s.core.mat.mmflg.getLsbD i ||
      (decide (16 * g ≤ i) && s.act k i && (f i).fail.isSome)))
  ∧ (∀ i < 64, u.core.vec.vstat.getLsbD i = (s.core.vec.vstat.getLsbD i ||
      (List.range s.core.vec.n).any (fun e => decide (16 * g ≤ e) && s.act k e && (f e).flags.getLsbD i)))
  ∧ u = { s with core := { s.core with mat := u.core.mat, vec := { Claims.matrixVec s clsM (d.setWidth 5) with
        vstat := u.core.vec.vstat } } }

/-- Value (i, j) of a product: one fused rounding a term, in ascending order (R254). -/
def Claims.dot (mul sub : Bool) (c : Nat) (d a b : Grid) (i j : Nat) : Nat × Flags :=
  let term (k : Nat) : XVal := (Tag.f32.widen 0 (a.at i k)).mul (Tag.f32.widen 0 (b.at k j))
  let add (t : Nat × Flags) (k : Nat) : Nat × Flags :=
    let x := Tag.f32.widen 0 t.1
    let r := Tag.f32.roundRne 0 (if sub then x.sub (term k) else x.add (term k))
    (r.1, t.2 ||| r.2)
  if mul then (List.range' 1 (c - 1)).foldl add (Tag.f32.roundRne 0 (term 0)) else (List.range c).foldl add (d.at i j, 0)

/-- R254: products and the transpose, on the slots' old values, where the shapes agree (else cause 0x4A). KIND becomes 0
and PERM stays. -/
def Obligations.MatrixProducts : Prop :=
  ∀ (s : State) (d a b k : BitVec 3),
    let x := s.captured clsM (d.setWidth 5)
    let ha := shapeOf x a
    let hb := shapeOf x b
    let hd := shapeOf x d
    let out (i : Instr) (mul sub : Bool) : Prop :=
      (s.core.vec.n ≤ 64 → ¬ (hb.rows = ha.cols ∧ hd.rows = ha.rows ∧ hd.cols = hb.cols) → traps i s { cause := 0x4A })
      ∧ (s.core.vec.n ≤ 64 → hb.rows = ha.cols → hd.rows = ha.rows → hd.cols = hb.cols → ha.rows ≤ 6 → hb.cols ≤ 6 → 1 ≤ ha.cols →
        ∃ u f, ends i s u ∧ Claims.slotResults s u d k { hd with kind := 0 } false f
          ∧ ∀ e, let v (i j : Nat) := Claims.dot mul sub ha.cols ((s.mreg d).slot e) ((s.mreg a).slot e) ((s.mreg b).slot e) i j
              (f e).fail = none ∧ (∀ i < ha.rows, ∀ j < hb.cols, (f e).w.at i j = (v i j).1)
              ∧ ∀ q < 5, (f e).flags.getLsbD q =
                  (List.range ha.rows).any (fun i => (List.range hb.cols).any (fun j => (v i j).2.getLsbD q)))
    (64 < s.core.vec.n → traps (.mmMul d a b k) s { cause := 0x44 } ∧ traps (.mmTrn d a k) s { cause := 0x44 })
    ∧ out (.mmMul d a b k) true false ∧ out (.mmMadd d a b k) false false ∧ out (.mmMsub d a b k) false true
    ∧ (s.core.vec.n ≤ 64 → hd.rows = ha.cols → hd.cols = ha.rows → ha.rows ≤ 6 → ha.cols ≤ 6 → ∃ u f, ends (.mmTrn d a k) s u
        ∧ Claims.slotResults s u d k { hd with kind := 0 } false f
        ∧ ∀ e, (f e).fail = none ∧ (f e).flags = 0 ∧ ∀ i < ha.cols, ∀ j < ha.rows, (f e).w.at i j = ((s.mreg a).slot e).at j i)

/-- R249, R255 to R259: factorisations and solves, where the shapes agree and, with TE = 1, no pivot fails: m[d] takes
the values of the algorithm on the slot's old values, with KIND 1 after mm.chol, 2 after mm.lu, 0 after a solve; PERM is
written by the factorisations; MMFLG records each slot whose pivot failed. With TE = 1 a failing pivot in the first
group traps with cause 0x4B and TVAL (j << 8) | e of the lowest failing slot. -/
def Claims.matrixFactors : Prop :=
  ∀ (s : State) (d a b k : BitVec 3),
    let x := s.captured clsM (d.setWidth 5)
    let ha := shapeOf x a
    let hb := shapeOf x b
    let hd := shapeOf x d
    let n := ha.rows
    let p := s.core.mat.pivot
    let A (e : Nat) : Grid := (s.mreg a).slot e
    let B (e : Nat) : Grid := (s.mreg b).slot e
    let out (i : Instr) (kind : BitVec 2) (perm : Bool) (f : Nat → MW) : Prop :=
      ((s.core.mat.mmctl.getLsbD 32 = false ∨ ∀ e, s.act k e = true → (f e).fail = none) →
        ∃ u, ends i s u ∧ Claims.slotResults s u d k { hd with kind := kind } perm f)
      ∧ (s.core.mat.mmctl.getLsbD 32 = true → s.startGroup clsM (d.setWidth 5) = 0 → ∀ e j, e < 16 → s.act k e = true →
          (f e).fail = some j → (∀ q < e, s.act k q = true → (f q).fail = none) →
          ∃ t : State, exec i s = .next (t.enterTrap { cause := 0x4B, tval := BitVec.ofNat 64 (j * 256 + e) })
            ∧ t.core.mat.m = s.core.mat.m ∧ t.core.mat.mmflg.getLsbD e = true ∧ t.core.g = s.core.g)
    let perms : Prop := ha.kind = 2#2 → ∀ e, s.act k e = true → permOk n ((s.mreg a).permOf e) = true
    s.core.vec.n ≤ 64 → ha.rows = ha.cols → hd.rows = ha.rows → ha.rows ≤ 6 → hb.cols ≤ 6 →
      (hd.cols = ha.rows →
        out (.mmChol d a k) 1 true (fun e => cholesky p n (A e))
        ∧ out (.mmLu d a k) 2 true (fun e => let m := luFactor p n (A e); { m with perm := m.perm.take n }))
      ∧ (hb.rows = ha.rows → hd.cols = hb.cols →
        out (.mmTrsl d a b k) 0 false (fun e => trsl p ha.kind n hb.cols (A e) (B e))
        ∧ out (.mmTrsu d a b k) 0 false (fun e => trsu p ha.kind n hb.cols (A e) (B e))
        ∧ (perms → out (.mmSolve d a b k) 0 false (fun e => solveAny p ha.kind n hb.cols (A e) ((s.mreg a).permOf e) (B e))))

/-- round_rne into f32 of a value, and the widened value of an f32 encoding (R250). -/
def Claims.rnd (x : XVal) : Nat := (Tag.f32.roundRne 0 x).1
def Claims.wid (x : Nat) : XVal := Tag.f32.widen 0 x

/-- Steps t := round_rne(t − x·y) for pairs (x, y) in order (R250). -/
def Claims.less (t : Nat) (l : List (Nat × Nat)) : Nat :=
  l.foldl (fun t p => Claims.rnd ((Claims.wid t).sub ((Claims.wid p.1).mul (Claims.wid p.2)))) t

/-- A pivot value fails: it is zero, or not |x| ≥ thr (R249). -/
def Claims.fails (p : Pivot) (x : Nat) : Prop :=
  (Claims.wid x).isNan = true ∨ p.thr.isNan = true ∨ (Claims.wid x).abs.lt p.thr = true ∨ (Claims.wid x).isZero = true

/-- R256: the values of mm.chol. Column j of L holds the root of s and, below it, the quotients by it, s and each t being
formed from the columns before; where s fails, zeros. The upper triangle is +0. The failure recorded is the first. -/
def Claims.choleskyFactor : Prop :=
  ∀ (p : Pivot) (n : Nat) (a : Grid), n ≤ 6 →
    let m := cholesky p n a
    let L (i j : Nat) : Nat := m.w.at i j
    let s (j : Nat) : Nat := Claims.less (a.at j j) ((List.range j).map (fun k => (L j k, L j k)))
    let bad (j : Nat) : Prop := (Claims.wid (s j)).isNan = true ∨ p.thr.isNan = true ∨ (Claims.wid (s j)).lt p.thr = true
      ∨ XVal.zero.lt (Claims.wid (s j)) = false
    (∀ j < n, (bad j → ∀ i, j ≤ i → i < n → L i j = 0)
      ∧ (¬ bad j → L j j = Claims.rnd (Claims.wid (s j)).sqrt ∧ ∀ i, j < i → i < n →
          L i j = Claims.rnd ((Claims.wid (Claims.less (a.at i j) ((List.range j).map (fun k => (L i k, L j k))))).div (Claims.wid (L j j)))))
    ∧ (∀ i j, i < j → j < n → L i j = 0) ∧ m.perm = [0, 1, 2, 3, 4, 5]
    ∧ (m.fail = none ↔ ∀ j < n, ¬ bad j) ∧ (∀ j, m.fail = some j → j < n ∧ bad j ∧ ∀ i < j, ¬ bad i)

/-- R257: one elimination step of mm.lu. Row r, the first of the rows from j on with the greatest magnitude in column j,
NaN above every number, changes places with row j, all n columns of it and its entry of the row order. Where the pivot
fails the column below it becomes zero; else it takes the multipliers, and the rest of each row below is reduced. -/
def Claims.eliminates (p : Pivot) (n j : Nat) (m m' : MW) : Prop :=
  ∃ r, j ≤ r ∧ r < n
    ∧ (let mag (i : Nat) : XVal := (Claims.wid (m.w.at i j)).abs
       (∀ i, j ≤ i → i < n → (mag r).isNan = true ∨ ((mag i).isNan = false ∧ (mag r).lt (mag i) = false))
       ∧ ∀ i, j ≤ i → i < r → (mag i).isNan = false ∧ ((mag r).isNan = true ∨ (mag i).lt (mag r) = true))
    ∧ (let row (i : Nat) : Nat := if i = j then r else if i = r then j else i
       let V (i c : Nat) : Nat := m.w.at (row i) c
       let W (i c : Nat) : Nat := m'.w.at i c
       (∀ i < n, m'.perm.getD i 0 = m.perm.getD (row i) 0)
       ∧ (Claims.fails p (V j j) → m'.fail = some (m.fail.getD j)
           ∧ ∀ i < n, ∀ c < n, W i c = if j < i ∧ c = j then 0 else V i c)
       ∧ (¬ Claims.fails p (V j j) → m'.fail = m.fail ∧ ∀ i < n, ∀ c < n, W i c =
           if j < i ∧ c = j then Claims.rnd ((Claims.wid (V i j)).div (Claims.wid (V j j)))
           else if j < i ∧ j < c then Claims.less (V i c) [(W i j, V j c)] else V i c))

/-- R257: mm.lu is n elimination steps from the slot's old values and the identity order. -/
def Claims.luElimination : Prop :=
  ∀ (p : Pivot) (n : Nat) (a : Grid), n ≤ 6 → ∃ m : Nat → MW,
    m 0 = ⟨a, [0, 1, 2, 3, 4, 5], 0, none⟩ ∧ m n = luFactor p n a ∧ ∀ j < n, Claims.eliminates p n j (m j) (m (j + 1))

/-- R258, R259: the triangular solves, column by column, from the factor that the KIND names, and mm.solve: rows of B in
the order of PERM, then the lower and the upper solve; a general matrix is factored first. -/
def Claims.triangularSolves : Prop :=
  ∀ (p : Pivot) (kind : BitVec 2) (n q : Nat) (a b : Grid) (perm : List Nat), n ≤ 6 → q ≤ 6 →
    let X (i c : Nat) : Nat := (trsl p kind n q a b).w.at i c
    let Y (i c : Nat) : Nat := (trsu p kind n q a b).w.at i c
    let U (i k : Nat) : Nat := if kind = 1 then a.at k i else a.at i k
    (∀ i < n, ∀ c < q,
      (let t := Claims.less (b.at i c) ((List.range i).map (fun k => (a.at i k, X k c)))
       (kind = 2 → X i c = t) ∧ (kind ≠ 2 → Claims.fails p (a.at i i) → X i c = 0)
         ∧ (kind ≠ 2 → ¬ Claims.fails p (a.at i i) → X i c = Claims.rnd ((Claims.wid t).div (Claims.wid (a.at i i)))))
      ∧ (let t := Claims.less (b.at i c) ((List.range' (i + 1) (n - i - 1)).map (fun k => (U i k, Y k c)))
         (Claims.fails p (U i i) → Y i c = 0)
           ∧ (¬ Claims.fails p (U i i) → Y i c = Claims.rnd ((Claims.wid t).div (Claims.wid (U i i))))))
    ∧ (solveAny p 1 n q a perm b).w = (trsu p 1 n q a (trsl p 1 n q a b).w).w
    ∧ (∃ g : Grid, (∀ i < n, ∀ c < q, g.at i c = b.at (perm.getD i 0) c)
        ∧ (solveAny p 2 n q a perm b).w = (trsu p 2 n q a (trsl p 2 n q a g).w).w)
    ∧ (let f := luFactor p n a
       (solveAny p 0 n q a perm b).w = (solveAny p 2 n q f.w f.perm b).w ∧ (∀ j, f.fail = some j → (solveAny p 0 n q a perm b).fail = some j))

/-- R257: the row order that mm.lu finds is a permutation of the rows, so the factor can be solved with (R259). -/
def Claims.luRowOrder : Prop :=
  ∀ (p : Pivot) (n : Nat) (a : Grid), n ≤ 6 → permOk n (luFactor p n a).perm = true

/-- R249, R255 to R259: factorisations and solves, what they compute, and that the row order of mm.lu is a permutation. -/
def Obligations.MatrixFactors : Prop :=
  Claims.matrixFactors ∧ Claims.choleskyFactor ∧ Claims.luElimination ∧ Claims.triangularSolves ∧ Claims.luRowOrder


/-- R251, R260: shapes, copies, single values and the determinant. mm.shape changes MSHAPE alone; mm.mov copies values,
PERM, shape and KIND; mm.ext and mm.ins move one value of each active slot; mm.det writes v[d] and v[d+1]. -/
def Claims.matrixMoves : Prop :=
  ∀ (s : State) (d a b k : BitVec 3) (v w : BitVec 5),
    let P := s.g w
    let i := (P.extractLsb' 3 3).toNat
    let j := (P.extractLsb' 0 3).toNat
    let inGrid (h : Shape) : Prop := i < h.rows ∧ j < h.cols ∧ i ≤ 5
    (∃ u, ends (.mmShape d a b) s u ∧ u = { s with core := { s.core with mat := { s.core.mat with mshape := u.core.mat.mshape }, vec := { s.core.vec with pix := s.core.vec.pix &&& ~~~ 0x80000000 } } }
        ∧ shapeOf u.core.mat.mshape d = ⟨0, b.toNat, a.toNat⟩ ∧ ∀ r, r ≠ d → shapeOf u.core.mat.mshape r = shapeOf s.core.mat.mshape r)
    ∧ (s.core.vec.n ≤ 64 → ∃ u, ends (.mmMov d a k) s u
        ∧ (∀ e < 64, 16 * s.startGroup clsM (d.setWidth 5) ≤ e → s.act k e = true →
            (u.mreg d).slot e = (s.mreg a).slot e ∧ (u.mreg d).permOf e = (s.mreg a).permOf e)
        ∧ (∀ e < 64, s.act k e = false → (u.mreg d).slot e = (s.mreg d).slot e ∧ (u.mreg d).permOf e = (s.mreg d).permOf e)
        ∧ shapeOf u.core.mat.mshape d = shapeOf (s.captured clsM (d.setWidth 5)) a
        ∧ (∀ r, r ≠ d → u.mreg r = s.mreg r)
        ∧ u = { s with core := { s.core with mat := { u.core.mat with mmflg := s.core.mat.mmflg, mmctl := s.core.mat.mmctl }, vec := Claims.matrixVec s clsM (d.setWidth 5) } })
    ∧ (s.core.vec.n ≤ 64 → (s.vop v).tag = .f32 → Claims.fits s v → P.extractLsb' 6 58 = 0#58 →
        (inGrid (shapeOf (s.captured clsV v) a) ∨ (i = 7 ∧ j ≤ 5)) → ∃ u, ends (.mmExt v a w k) s u ∧ u.core.vec.mcap = Claims.shapesLeft s clsV v
          ∧ Claims.elementResults s { u with core := { u.core with vec := { u.core.vec with mcap := s.core.vec.mcap } } } v k false (s.startGroup clsV v) (fun e =>
              if i = 7 then ((Tag.f32.roundRne 0 (.fin (((s.mreg a).permOf e).getD j 0 : Nat) 0)).1, 0) else (((s.mreg a).slot e).at i j, 0)))
    ∧ (s.core.vec.n ≤ 64 → (s.vop v).tag = .f32 → P.extractLsb' 6 58 = 0#58 → inGrid (shapeOf (s.captured clsM (d.setWidth 5)) d) →
        ∃ u, ends (.mmIns d v w k) s u
          ∧ (∀ e < 64, 16 * s.startGroup clsM (d.setWidth 5) ≤ e → s.act k e = true → ∀ p < 6, ∀ q < 6,
              ((u.mreg d).slot e).at p q = if p = i ∧ q = j then s.vbits (s.vop v) e else ((s.mreg d).slot e).at p q)
          ∧ (∀ e < 64, s.act k e = false → (u.mreg d).slot e = (s.mreg d).slot e)
          ∧ (∀ r, r ≠ d → u.mreg r = s.mreg r) ∧ u.core.mat.mshape = s.core.mat.mshape
          ∧ u = { s with core := { s.core with mat := { s.core.mat with m := u.core.mat.m }, vec := Claims.matrixVec s clsM (d.setWidth 5) } })
    ∧ (let x := s.captured clsV v
       let h := shapeOf x a
       let o := s.vop v
       let y := s.vop (v + 1)
       s.core.vec.n ≤ 64 → o.tag = .f32 → y.tag = .f32 → o.regs = 1 → y.regs = 1 → v.toNat % 2 = 0 → h.rows = h.cols →
       s.startGroup clsV v = 0 → Claims.fits s v →
       (∀ e, s.act k e = true → h.kind = 2#2 → permOk h.rows ((s.mreg a).permOf e) = true) →
       (s.core.mat.mmctl.getLsbD 32 = false ∨ ∀ e, s.act k e = true → (detSlot x a s e).2.2.m.fail = none) →
        ∃ u, ends (.mmDet v a k) s u
          ∧ (∀ e, s.act k e = true → u.vbits o e = (detSlot x a s e).1 % 2 ^ 32 ∧ u.vbits y e = (detSlot x a s e).2.1 % 2 ^ 32)
          ∧ (∀ e < o.cap, s.act k e = false → u.vbits o e = s.vbits o e ∧ u.vbits y e = s.vbits y e)
          ∧ (∀ r < 32, r ≠ o.base → r ≠ y.base → u.physReg r = s.physReg r)
          ∧ u.core.mat.m = s.core.mat.m ∧ u.core.mat.mshape = s.core.mat.mshape ∧ u.mem = s.mem ∧ u.core.g = s.core.g ∧ u.core.sys = s.core.sys)

/-- R260: what mm.det computes from a diagonal. The determinant is the product of the diagonal, rounded at each step, from
the sign of the row order (an odd number of inversions makes it −1), and squared for a Cholesky factor; the condition is
the greatest magnitude over the least, squared likewise, and +inf where the least is zero; a NaN makes both NaN and sets
INV. A general matrix is factored first. -/
def Claims.determinants : Prop :=
  (∀ (kind : BitVec 2) (n : Nat) (a : Grid) (perm : List Nat), 1 ≤ n → n ≤ 6 →
    let r := detFactored kind n a perm
    let D (j : Nat) : XVal := Claims.wid (a.at j j)
    let odd := ((List.range n).countP (fun i => (List.range n).countP (fun j => decide (i < j) && decide (perm.getD j 0 < perm.getD i 0)) % 2 == 1)) % 2 = 1
    let p := (List.range n).foldl (fun p j => Claims.rnd ((Claims.wid p).mul (D j)))
      (if kind ≠ 1 ∧ odd then 0xBF800000 else 0x3F800000)
    let square (x : Nat) : Nat := if kind = 1 then Claims.rnd ((Claims.wid x).mul (Claims.wid x)) else x
    ((∃ j < n, (D j).isNan = true) → r.1 = 0x7FC00000 ∧ r.2.1 = 0x7FC00000 ∧ r.2.2.getLsbD 1 = true)
    ∧ ((∀ j < n, (D j).isNan = false) → perm.length = 6 → r.1 = square p
        ∧ ((∃ j < n, (D j).isZero = true) → r.2.1 = 0x7F800000)
        ∧ ((∀ j < n, (D j).isZero = false) → ∃ x < n, ∃ y < n,
            (∀ j < n, (D x).abs.lt (D j).abs = false ∧ (D j).abs.lt (D y).abs = false)
              ∧ r.2.1 = square (Claims.rnd ((D x).abs.div (D y).abs)))))
  ∧ ∀ (x : Word) (a : BitVec 3) (s : State) (e : Nat),
    let h := shapeOf x a
    let g := (s.mreg a).slot e
    let f := luFactor s.core.mat.pivot h.rows g
    let of (kind : BitVec 2) (w : Grid) (perm : List Nat) : Prop :=
      (detSlot x a s e).1 = (detFactored kind h.rows w perm).1 ∧ (detSlot x a s e).2.1 = (detFactored kind h.rows w perm).2.1
    (h.kind = 0 → of 2 f.w f.perm ∧ (detSlot x a s e).2.2.m.fail = f.fail)
    ∧ (h.kind ≠ 0 → of h.kind g ((s.mreg a).permOf e) ∧ (detSlot x a s e).2.2.m.fail = none)

/-- R251, R260: shapes, copies, single values, the determinant, and what that computes. -/
def Obligations.MatrixMoves : Prop := Claims.matrixMoves ∧ Claims.determinants

/-- R252: mm.ld and mm.st move the ROWS × COLS words of each active slot, row-major from g[a] + e·g[b], where every access
goes through; a load makes KIND 0. No register but m[d], and no byte but those stored, changes. -/
def Obligations.MatrixMemory : Prop :=
  ∀ (s : State) (d : BitVec 3) (a b : BitVec 5) (k : BitVec 3) (x : Nat → Nat → Xl),
    let h := shapeOf (s.captured clsM (d.setWidth 5)) d
    let hs := shapeOf (s.captured clsMem 0) d
    let va (e q : Nat) : Word := s.g a + BitVec.ofInt 64 (e * (s.g b).toInt) + BitVec.ofNat 64 (4 * q)
    s.core.vec.n ≤ 64 →
      ((∀ e q, s.act k e = true → q < h.rows * h.cols → Claims.reaches s .vread (va e q) 4 (x e q) ∧ (x e q).plain = true) →
        h.rows ≤ 6 → h.cols ≤ 6 → ∃ u, ends (.mmLd d a b k) s u
          ∧ (∀ e, s.act k e = true → 16 * s.startGroup clsM (d.setWidth 5) ≤ e → ∀ i < h.rows, ∀ j < h.cols,
              ((u.mreg d).slot e).at i j = ofBytes (Memory.read s.mem (x e (i * h.cols + j)).pa 4))
          ∧ (∀ e < 64, s.act k e = false → (u.mreg d).slot e = (s.mreg d).slot e)
          ∧ (u.mreg d).perm = (s.mreg d).perm ∧ shapeOf u.core.mat.mshape d = ⟨0, h.cols, h.rows⟩
          ∧ (∀ r, r ≠ d → u.mreg r = s.mreg r)
          ∧ u = { s with dev := s.dev.withErrors u.dev, core := { s.core with mat := u.core.mat, vec := Claims.matrixVec s clsM (d.setWidth 5) } })
      ∧ (s.memOk → hs.rows ≤ 6 → hs.cols ≤ 6 →
          (∀ e q, s.act k e = true → q < hs.rows * hs.cols → Claims.reaches s .vwrite (va e q) 4 (x e q) ∧ (x e q).plain = true) →
          (∀ e q e' q', s.act k e = true → s.act k e' = true → q < hs.rows * hs.cols → q' < hs.rows * hs.cols → (e, q) ≠ (e', q') →
            (x e q).pa + 4 ≤ (x e' q').pa ∨ (x e' q').pa + 4 ≤ (x e q).pa) →
          ∃ u, ends (.mmSt d a b k) s u
            ∧ (∀ e, s.act k e = true → 16 * s.startGroup clsMem 0 ≤ e → ∀ i < hs.rows, ∀ j < hs.cols,
                ofBytes (Memory.read u.mem (x e (i * hs.cols + j)).pa 4) = ((s.mreg d).slot e).at i j)
            ∧ (∀ p, (∀ e q, s.act k e = true → q < hs.rows * hs.cols → ¬ ((x e q).pa ≤ p ∧ p < (x e q).pa + 4)) → u.byteAt p = s.byteAt p)
            ∧ u = { s with mem := u.mem, dev := s.dev.withErrors u.dev, core := { s.core with vec := Claims.matrixVec s clsMem 0 } })


/-! ## Matrix tiles -/

/-- Rows and columns of sub-blocks that a gang size is granted (R264). -/
def Claims.grid : Nat → Option (Nat × Nat)
  | 1 => some (1, 1)
  | 2 => some (1, 2)
  | 4 => some (2, 2)
  | 8 => some (2, 4)
  | 16 => some (4, 4)
  | _ => none

/-- The conditions of R268 on a descriptor's two words. -/
def Claims.goodDesc (x y : Word) : Prop :=
  let w := (x.extractLsb' 48 5).toNat
  let runs := (x.extractLsb' 42 6).toNat
  let ebase := (x.extractLsb' 21 21).toNat
  let base := (x.extractLsb' 0 21).toNat
  let es := (y.extractLsb' 48 16).toNat
  let rs := (y.extractLsb' 32 16).toNat
  let lines := (y.extractLsb' 0 16).toNat
  x.extractLsb' 53 11 = 0#11 ∧ y.extractLsb' 16 16 = 0#16 ∧ 2 ≤ w ∧ w ≤ 16 ∧ 1 ≤ runs ∧ runs ≤ 32 ∧ 1 ≤ lines ∧ base % 8 = 0
    ∧ (1 < lines → runs * w ≤ rs ∧ runs ≤ es) ∧ base + 8 * rs * (lines - 1) + 8 * w * runs ≤ 2 ^ 21
    ∧ ebase + es * (lines - 1) + runs ≤ 2 ^ 21

/-- R264 to R269: the forms of major 0x2C. R269 passes them to the engine behind every earlier tile form; that
the thread stands until those have completed is the model's choice (logs 8, 9). tl.shape grants what R264 says and writes
TSHAPE to g[d]; the sub-blocks of the granted arrangement cover each element of the tile once; tl.desc and tl.prec are
checked; tl.zero clears a slice; tl.acc is a supervisor's and moves one accumulator. Nothing but tile state and g[d]
changes, but that tl.shape has the member count its broadcasts anew (log 48). -/
def Obligations.TileRegisters : Prop :=
  ∀ (s : State) (d a b : BitVec 5) (t : BitVec 4) (c : BitVec 1),
    let T := s.core.tile
    let x := s.g a
    let y := s.g b
    let G := (x.extractLsb' 48 5).toNat
    let r := BitVec.ofNat 4 s.core.rank
    let set (f : TileState) : State := { s with core := { s.core with tile := f } }
    (T.queue ≠ [] → stands (.tlShape d a) s .dauStall ∧ stands (.tlDesc t a b) s .dauStall ∧ stands (.tlPrec a b) s .dauStall
      ∧ stands (.tlZero c) s .dauStall ∧ (s.pl ≠ plUser → stands (.tlAcc d c b) s .dauStall))
    ∧ (T.queue = [] →
      (∀ gr gc, Claims.grid G = some (gr, gc) → G ≤ s.gangSize → x.extractLsb' 53 11 = 0#11 →
        ∃ w : Word, ends (.tlShape d a) s (((set { T with tshape := w }).onShare (fun h => { h with
              bhist := rset h.bhist r ⟨(rget h.bhist r).epoch + 1, [], false⟩ })).setG d w)
          ∧ tsM w = min (x.extractLsb' 0 16).toNat (96 * gr) ∧ tsN w = min (x.extractLsb' 16 16).toNat (160 * gc)
          ∧ tsK w = min (x.extractLsb' 32 16).toNat 2048 ∧ arrGrid (tsArr w) = (gr, gc) ∧ tsRank w = s.core.rank % 16
          ∧ tsWa w = tsWa T.tshape ∧ tsWb w = tsWb T.tshape ∧ w.extractLsb' 44 3 = 0#3
          ∧ (∀ i < tsM w, ∀ j < tsN w, ∃ r < gr * gc,
              (∀ q < gr * gc, (96 * (q / gc) ≤ i ∧ i < 96 * (q / gc) + (subBlockOf w q).1 ∧ 160 * (q % gc) ≤ j
                ∧ j < 160 * (q % gc) + (subBlockOf w q).2) ↔ q = r)))
      ∧ (x.extractLsb' 53 11 ≠ 0#11 ∨ s.gangSize < G ∨ Claims.grid G = none → traps (.tlShape d a) s { cause := 0x6B })
      ∧ (Claims.goodDesc x y → ends (.tlDesc t a b) s (set { T with tda := rset T.tda t x, tdb := rset T.tdb t y }))
      ∧ (¬ Claims.goodDesc x y → traps (.tlDesc t a b) s { cause := 0x6F })
      ∧ (2 ≤ x.toNat ∧ x.toNat ≤ 16 ∧ 2 ≤ y.toNat ∧ y.toNat ≤ 16 →
          ∃ w : Word, ends (.tlPrec a b) s (set { T with tshape := w }) ∧ tsWa w = x.toNat ∧ tsWb w = y.toNat
            ∧ ∀ i < 64, ¬ (47 ≤ i ∧ i < 57) → w.getLsbD i = T.tshape.getLsbD i)
      ∧ (¬ (2 ≤ x.toNat ∧ x.toNat ≤ 16 ∧ 2 ≤ y.toNat ∧ y.toNat ≤ 16) → traps (.tlPrec a b) s { cause := 0x6D })
      ∧ ends (.tlZero c) s (set { T with acc := rset T.acc c 0 })
      ∧ (s.pl ≠ plUser →
          let ix := (y.extractLsb' 0 14).toNat
          let good := y.extractLsb' 16 48 = 0#48 ∧ y.getLsbD 14 = false ∧ ix ≤ 15359
          (good → y.getLsbD 15 = false → ends (.tlAcc d c b) s (s.setG d (getF 64 (rget T.acc c) ix)))
          ∧ (good → y.getLsbD 15 = true → ∃ u, ends (.tlAcc d c b) s u ∧ u = set { T with acc := u.core.tile.acc }
              ∧ (∀ j < 15360, (getF 64 (rget u.core.tile.acc c) j : Word) =
                  if j = ix then ((s.g d).extractLsb' 0 58).setWidth 64 else getF 64 (rget T.acc c) j)
              ∧ ∀ q, q ≠ c → rget u.core.tile.acc q = rget T.acc q)
          ∧ (¬ good → traps (.tlAcc d c b) s { cause := 0x6E })))
    ∧ (s.pl = plUser → traps (.tlAcc d c b) s { cause := 0x09, tval := (Instr.tlAcc d c b).wordOf })

/-- The entry that a tile form puts into the engine's queue, and the state it leaves (R277). -/
def Claims.enqueued (s : State) (w : BitVec 32) (ga : Word) (gb : Fin 4 → Word) : State :=
  { s with core := { s.core with tile := { s.core.tile with
    queue := s.core.tile.queue ++ [⟨w, ga, Vector.ofFn gb, s.core.seq, s.core.journal⟩] } } }

/-- The trap of a memory cause that the end of a meeting or of a step gives a member: the address, KIND and element of the
access (R397). -/
def Claims.memTrap (c : BitVec 8) (y : BadAccess) : Trap :=
  { cause := c, tval := y.va, xlinfo := (({ cause := c, va := y.va, kind := y.kind, level := 0xF, bad := none } : MemFault).trap y.elem).xlinfo }

/-- R271 to R278: tile forms at issue. A multiply form whose checks pass enters the queue of 8 and the thread goes on; the
forms that move lines enter it and the thread stands at them until the last line (TILE_LINE_COMPLETE); tl.bcast arrives
at its meeting and goes on when that has ended without a cause. The checks of the multiply forms trap in the order that
R274 gives, and change nothing; that the thread stands at tl.ldp, tl.stp and tl.ldsc until their last line, and the order of
their checks, are the model's choice (log 61), and so is
that a descriptor which tl.desc would refuse counts as not set (log 104). The history that tl.bcast adds to is log 48. -/
def Obligations.TileForms : Prop :=
  ∀ (s : State) (c : BitVec 1) (d a' b' : BitVec 4) (a b : BitVec 5) (op p : BitVec 4),
    let T := s.core.tile
    let n := tsSub T.tshape
    let S := (tsK T.tshape + 63) / 64
    let y := s.g b
    let room := T.queue.length < 8
    let lines := tdLines (rget T.tdb d)
    let gb (j : Fin 4) : Word := s.g (b + BitVec.ofNat 5 j.val)
    let isSet (q : BitVec 4) : Prop := Claims.goodDesc (rget T.tda q) (rget T.tdb q)
    let mul (i : Instr) : Prop :=
      (tsWa T.tshape = 0 ∨ tsWb T.tshape = 0 → traps i s { cause := 0x6D })
      ∧ (tsWa T.tshape ≠ 0 → tsWb T.tshape ≠ 0 →
        (¬ isSet a' ∨ ¬ isSet b' → traps i s { cause := 0x6F })
        ∧ (isSet a' → isSet b' →
          let fits := n.1 ≤ tdLines (rget T.tdb a') ∧ n.2 ≤ tdLines (rget T.tdb b') ∧ S ≤ tdRuns (rget T.tda a') ∧ S ≤ tdRuns (rget T.tda b')
          (¬ fits → traps i s { cause := 0x6E })
          ∧ (fits → ¬ room ∨ s.spansHeld (T.tdSpans a' false ++ T.tdSpans b' false) = true → stands i s .dauStall)
          ∧ (fits → room → s.spansHeld (T.tdSpans a' false ++ T.tdSpans b' false) = false →
              ends i s (Claims.enqueued s i.word32 0 (fun _ => 0)))))
    let move (i : Instr) (writes : Bool) (first last : Nat) (bad : Prop) : Prop :=
      s.core.wait ≠ some .tileLine →
        (¬ isSet d ∨ bad → traps i s { cause := 0x6F })
        ∧ (isSet d → ¬ bad → lines < first + last → traps i s { cause := 0x6E })
        ∧ (isSet d → ¬ bad → first + last ≤ lines → ¬ room → stands i s .dauStall)
        ∧ (isSet d → ¬ bad → first + last ≤ lines → room →
            (s.spansHeld (T.tdSpans d writes) = true → stands i s .dauStall)
            ∧ (s.spansHeld (T.tdSpans d writes) = false →
                exec i s = .next ((Claims.enqueued s i.word32 (s.g a) gb).stand .tileLine)))
    mul (.tlMma c a' b') ∧ mul (.tlMmz c a' b') ∧ mul (.tlMms c a' b')
    ∧ (y.extractLsb' 32 32 = 0#32 →
        move (.tlLdp d a b op) true (y.extractLsb' 16 16).toNat (y.extractLsb' 0 16).toNat (op = 1 ∧ tdW (rget T.tda d) ≠ 5)
        ∧ move (.tlStp d a b) false (y.extractLsb' 16 16).toNat (y.extractLsb' 0 16).toNat False)
    ∧ move (.tlLdsc d a b op p) true (y.extractLsb' 32 16).toNat (y.extractLsb' 48 16).toNat
        (y.extractLsb' 5 11 ≠ 0#11 ∨ (y.extractLsb' 0 5).toNat ∉ [0x00, 0x01, 0x0C, 0x0D, 0x0E, 0x0F, 0x10])
    ∧ (let i := Instr.tlBcast d a p
       let g := arrGrid (tsArr T.tshape)
       let r := BitVec.ofNat 4 s.core.rank
       s.share.bdone.find? (fun v => v.rank == s.core.rank) = none → s.share.bcast.any (fun x => x.rank == s.core.rank) = false →
       T.queue = [] →
        (¬ isSet d → traps i s { cause := 0x6F })
        ∧ (isSet d → g.1 * g.2 ≤ s.core.rank → traps i s { cause := 0x6C })
        ∧ (isSet d → s.core.rank < g.1 * g.2 → s.reachSpans (T.tdSpans d true) .lwrite 0 = .ok () →
            exec i s = .next ((s.onShare (fun h => { h with
              bcast := h.bcast ++ [⟨s.core.rank, i.word32, s.g a⟩]
              bhist := (let x := rget h.bhist r
                rset h.bhist r ⟨x.epoch, if x.refused then x.ps.dropLast ++ [(p, x.tries)] else x.ps ++ [(p, 0)], false⟩) })).stand .bcast)))
    ∧ (∀ v, s.share.bdone.find? (fun v => v.rank == s.core.rank) = some v →
        let u := s.onShare (fun h => { h with bdone := h.bdone.filter (fun w => w.rank != s.core.rank) })
        (v.cause = none → ends (.tlBcast d a p) s u)
        ∧ (∀ q, v.cause = some q → (v.at' = none → exec (.tlBcast d a p) s = .next (u.enterTrap { cause := q }))
            ∧ (∀ y, v.at' = some y → exec (.tlBcast d a p) s = .next (u.enterTrap (Claims.memTrap q y)))))
    ∧ (s.core.cmds = [] → s.dev.badBytes = [] → s.dev.quarantine = [] → (∀ q : BitVec 3, xState (s.xstat (0#1 ++ q)) = stIdle) →
        ∀ l kind e, s.reachSpans l kind e = .ok () ∧ s.spansHeld l = false)

/-- Element (i, j) after K step k of a multiply form (R92, R93, R274): the exact sum of old value and products, negated
for tl.mms, rounded once. -/
def Claims.stepValue (s : State) (form : Nat) (d : BitVec 1) (a b : BitVec 4) (k i j : Nat) : Word :=
  let T := s.core.tile
  let x := s.readRun a i k (tsWa T.tshape)
  let y := s.readRun b j k (tsWb T.tshape)
  let ks := (List.range 64).filter (fun q => decide (64 * k + q < tsK T.tshape))
  let p := (ks.map (fun q => x.q.getD q 0 * y.q.getD q 0)).sum
  let old := if form = 1 ∧ k = 0 then .zero else accVal (getF 64 (rget T.acc d) (160 * i + j))
  match old.add (.fin (if form = 2 then -p else p) (x.e + y.e - 256)) with
  | .fin m e => (roundAcc m e).1
  | _ => 0

/-- A descriptor as R268 admits it, whose planes and exponents do not overlap. -/
def Claims.laidOut (x y : Word) : Prop :=
  Claims.goodDesc x y ∧
    (tdBase x + 8 * tdRs y * (tdLines y - 1) + 8 * tdW x * tdRuns x ≤ tdEbase x
      ∨ tdEbase x + tdEs y * (tdLines y - 1) + tdRuns x ≤ tdBase x)

/-- R273: the meeting of a group that has all arrived with one p. Where g[a], the descriptor number, W, RUNS and LINES agree
and the sender is of the group, every member goes on, and the sender's runs and exponents stand in each member's layout;
else every member takes cause 0x6C and memory is unchanged. A member whose group has all come to its broadcasts of one place,
and does not name one p there, takes cause 0x6C. Which broadcasts of the members are of one place is log 48. -/
def Claims.broadcastMeeting : Prop :=
  ∀ (s : State) (g : List Nat) (d p : BitVec 4) (x : Word) (W R L r0 : Nat) (src : Core),
    let f := s.focus s.ev.c
    let key (q : Nat) := (f.share.bcast.find? (fun y => y.rank == q)).bind f.bcastKey
    (∀ y ∈ f.share.bcast, y.rank = f.core.rank → f.share.bcast.find? (fun z => z.rank == f.core.rank) = some y →
      (f.bcastCome y = true → f.bcastClash y = true → (f.groupOf y).contains y.rank = true → ∃ l, f.bcastDue = some (.fail l) ∧ l.contains y.rank = true)
      ∧ ((∀ z ∈ f.share.bcast, f.bcastClash z = false) →
          (f.groupOf y).all (fun q => f.share.bcast.any (fun z => z.rank == q && z.p == y.p)) = true → f.bcastDue = some (.meet (f.groupOf y))))
    ∧ (∀ l, f.bcastDue = some (.fail l) →
        ∃ u, exec .tlBcastMeet s = .next u ∧ (∀ q ∈ l, u.share.bdone.contains ⟨q, some 0x6C, none⟩ = true) ∧ u.mem = f.mem
          ∧ u.core.g = f.core.g ∧ u.core.tile = f.core.tile)
    ∧ (f.bcastDue = some (.meet g) →
      ((∀ q ∈ g, key q = some (d, p, x, W, R, L)) → g[x.toNat]? = some r0 → f.memberAt r0 = some src → f.memOk →
        f.dev.badBytes = [] → f.dev.quarantine = [] →
        (∀ q ∈ g, ∀ c, f.memberAt q = some c → Claims.laidOut (rget c.tile.tda d) (rget c.tile.tdb d)) →
          ∃ u, exec .tlBcastMeet s = .next u ∧ (∀ q ∈ g, u.share.bdone.contains ⟨q, none, none⟩ = true)
            ∧ ∀ q ∈ g, ∀ c, f.memberAt q = some c → ∀ l < L,
                let at' (c : Core) (h : Word → Word → Nat → Nat → Nat) : Nat :=
                  scratchBase c.id.toNat + h (rget c.tile.tda d) (rget c.tile.tdb d) l 0
                (∀ o < 8 * W * R, u.byteAt (at' c runOff + o) = f.byteAt (at' src runOff + o))
                ∧ (∀ o < R, u.byteAt (at' c expOff + o) = f.byteAt (at' src expOff + o)))
      ∧ ((∀ k : BitVec 4 × BitVec 4 × Word × Nat × Nat × Nat, ¬ ((∀ q ∈ g, key q = some k) ∧ k.2.2.1.toNat < g.length)) →
          ∃ u, exec .tlBcastMeet s = .next u ∧ (∀ q ∈ g, u.share.bdone.contains ⟨q, some 0x6C, none⟩ = true) ∧ u.mem = f.mem
            ∧ u.core.g = f.core.g ∧ u.core.tile = f.core.tile))

/-- The scratchpad runs that K step k of a multiply form reads: run k of the first MC lines of t[a] and NC lines of t[b],
planes and exponents (R267, R274). -/
def Claims.stepSpans (T : TileState) (a b : BitVec 4) (k : Nat) : List Span :=
  let n := tsSub T.tshape
  let of (d : BitVec 4) (lines : Nat) : List Span :=
    let x := rget T.tda d
    let y := rget T.tdb d
    [⟨tdBase x + 8 * tdW x * k, 8 * tdRs y, 8 * tdW x, lines, false⟩, ⟨tdEbase x + k, tdEs y, 1, lines, false⟩]
  of a n.1 ++ of b n.2

/-- R87, R267: run k of line l holds the integers q, in w planes, the most significant first, and the exponent e. -/
def Claims.runStands (u : State) (x y : Word) (l k : Nat) (q : Nat → Int) (e : Nat) : Prop :=
  let A := scratchBase u.core.id.toNat
  let w := tdW x
  (∀ p < w, ∀ j < 64, (u.byteAt (A + runOff x y l k + 8 * p + j / 8)).getLsbD (j % 8) = (q j % 2 ^ w).toNat.testBit (w - 1 - p))
  ∧ (u.byteAt (A + expOff x y l k)).toNat = e

/-- R88: a run read at declared width d: below w the leading d planes, which is floor(q / 2^(w − d)), and the exponent
w − d more; else the whole. -/
def Claims.runsAsRead : Prop :=
  ∀ (s : State) (n : BitVec 4) (l k d e : Nat) (q : Nat → Int),
    let x := rget s.core.tile.tda n
    let y := rget s.core.tile.tdb n
    let w := tdW x
    Claims.goodDesc x y → l < tdLines y → k < tdRuns x → 2 ≤ d → d ≤ 16 →
    (∀ j < 64, -(2 ^ (w - 1) : Int) ≤ q j ∧ q j < 2 ^ (w - 1)) → Claims.runStands s x y l k q e →
      let r := s.readRun n l k d
      (∀ j < 64, r.q.getD j 0 = q j / 2 ^ (w - d)) ∧ r.q.length = 64 ∧ r.e = (e : Int) + (w - d : Nat)

/-- R90: to_bfp without draws. NaN and infinite values count as 0 and set INV. The exponent is the least byte at which the
greatest magnitude rounds to w bits, or 255; each value is rounded once over it, saturating with SAT. -/
def Claims.runsFormed : Prop :=
  ∀ (x : List XVal) (w : Nat) (c : Ctl), 2 ≤ w → w ≤ 16 → c.mode ≠ .sr →
    let r := toBfp x w c
    let v (k : Nat) : XVal := let y := (x[k]?).getD XVal.zero
      if y.special = true then XVal.zero else y
    let hi : Int := 2 ^ (w - 1) - 1
    let at' (y : XVal) (e : Nat) : Int := match y with
      | .fin m f => roundInt c.mode 0 m (f - ((e : Int) - 128))
      | _ => 0
    let fits (e : Nat) : Prop := ∀ k < x.length, (∀ j < x.length, (v k).abs.lt (v j).abs = false) → (at' (v k).abs e).natAbs ≤ hi.toNat
    r.1.length = x.length
    ∧ (r.2.2.getLsbD 1 = true ↔ ∃ y ∈ x, y.special = true)
    ∧ ((∀ k < x.length, (v k).isZero = true) → (∀ q ∈ r.1, q = 0) ∧ r.2.1 = 0 ∧ r.2.2.getLsbD 0 = false)
    ∧ ((∃ k < x.length, (v k).isZero = false) →
        r.2.1 ≤ 255 ∧ (fits r.2.1 ∨ r.2.1 = 255) ∧ (∀ e < r.2.1, ¬ fits e)
        ∧ (∀ k < x.length, r.1.getD k 0 = max (-hi - 1) (min hi (at' (v k) r.2.1)))
        ∧ (r.2.2.getLsbD 0 = true ↔ ∃ k < x.length, at' (v k) r.2.1 < -hi - 1 ∨ hi < at' (v k) r.2.1))

/-- R91, R92: round_acc of m·2^e, with L = floor(log2) of its magnitude. -/
def Claims.accumulatorRounding : Prop :=
  ∀ m e : Int,
    let r := roundAcc m e
    let y := (XVal.fin m e).abs
    let is (S : Int) (E : Int) : Prop := accS r.1 = S ∧ (accE r.1 : Int) = E
    r.1.extractLsb' 58 6 = 0#6
    ∧ (m = 0 → r = (0, 0))
    ∧ (m ≠ 0 → ∀ L S, y.lt (.fin 1 L) = false → y.lt (.fin 1 (L + 1)) = true →
        let E := max 0 (L - 46 + 512)
        let tops := S.natAbs = 2 ^ 47
        Claims.nearest m (e - (E - 512)) S →
          (1023 < (if tops then E + 1 else E) → is (if m < 0 then -(2 ^ 47 - 1) else 2 ^ 47 - 1) 1023 ∧ r.2 = flagSat)
          ∧ (¬ 1023 < (if tops then E + 1 else E) →
              is (if tops then S / 2 else S) (if tops then E + 1 else E) ∧ r.2 = 0))

/-- R89, R271, R272: what line l of a form of lines moves, FL being the first tile line. tl.ldp copies planes and exponents
of memory unchanged, or makes each e2m1x block a 5-bit run; tl.stp copies them to memory; tl.ldsc forms each run, by to_bfp,
from 64 elements of the channel's window, zeros from K up. No other byte of memory changes. -/
def Claims.lineContents : Prop :=
  ∀ (f t : State) (e : TileCmd) (d : BitVec 4) (a b : BitVec 5) (op p : BitVec 4) (l P Q : Nat),
    let x := rget f.core.tile.tda d
    let y := rget f.core.tile.tdb d
    let R := tdRuns x
    let n := 8 * tdW x * R
    let D := scratchBase f.core.id.toNat
    let planes := e.ga + BitVec.ofNat 64 l * e.gb[1]
    let exps := e.gb[2] + BitVec.ofNat 64 l * e.gb[3]
    let away (p n : Nat) : Prop := p + n ≤ D ∨ D + 2 ^ 21 ≤ p
    let F := (e.gb[0].extractLsb' 16 16).toNat + l
    let G := (e.gb[0].extractLsb' 32 16).toNat + l
    let rest (o : Nat) : Prop := ∀ q, ¬ (D + runOff x y o 0 ≤ q ∧ q < D + runOff x y o 0 + n) →
      ¬ (D + expOff x y o 0 ≤ q ∧ q < D + expOff x y o 0 + R) → t.byteAt q = f.byteAt q
    f.memOk → Claims.laidOut x y →
      (F < tdLines y → f.tileLine e (.tlLdp d a b 0) l = .ok t → planes.toNat % 8 = 0 →
        Claims.span f .lread planes n P → Claims.span f .lread exps R Q → away P n → away Q R →
          (∀ o < n, t.byteAt (D + runOff x y F 0 + o) = f.byteAt (P + o))
          ∧ (∀ o < R, t.byteAt (D + expOff x y F 0 + o) = f.byteAt (Q + o)) ∧ rest F)
      ∧ (F < tdLines y → tdW x = 5 → f.tileLine e (.tlLdp d a b 1) l = .ok t → planes.toNat % 8 = 0 →
        Claims.span f .lread planes (32 * R) P → Claims.span f .lread exps (2 * R) Q → away P (32 * R) → away Q (2 * R) →
          let bit (k j i : Nat) : Nat := ((f.byteAt (P + 32 * k + 8 * i + j / 8)).getLsbD (j % 8)).toNat
          (∀ k < R, Claims.runStands t x y F k
            (fun j => Claims.halves (Claims.extraOf (f.byteAt (Q + 2 * k + 1))) (bit k j 0 + 2 * bit k j 1 + 4 * bit k j 2 + 8 * bit k j 3))
            (f.byteAt (Q + 2 * k)).toNat) ∧ rest F)
      ∧ (F < tdLines y → f.tileLine e (.tlStp d a b) l = .ok t → planes.toNat % 8 = 0 →
        Claims.span f .lwrite planes n P → Claims.span f .lwrite exps R Q → away P n → away Q R → (P + n ≤ Q ∨ Q + R ≤ P) →
          (∀ o < n, t.byteAt (P + o) = f.byteAt (D + runOff x y F 0 + o))
          ∧ (∀ o < R, t.byteAt (Q + o) = f.byteAt (D + expOff x y F 0 + o))
          ∧ ∀ q, ¬ (P ≤ q ∧ q < P + n) → ¬ (Q ≤ q ∧ q < Q + R) → t.byteAt q = f.byteAt q)
      ∧ (∀ tag c, G < tdLines y → f.tileLine e (.tlLdsc d a b op p) l = .ok t → Tag.ofCode (e.gb[0].extractLsb' 0 5) = some tag →
          Ctl.ofCode op = some c →
          let sz := tag.width / 8
          let K := tsK f.core.tile.tshape
          let off (q : Nat) : Nat := ((f.chwin (p.setWidth 3)).extractLsb' 0 22).toNat + sz * (e.ga.toNat + l * (e.gb[0].extractLsb' 16 16).toNat + q)
          let clear (q : Nat) (o len : Nat) : Prop := off q + sz ≤ o ∨ o + len ≤ off q
          (∀ q < K, clear q (runOff x y G 0) n ∧ clear q (expOff x y G 0) R) →
          let X (k : Nat) : List XVal := (List.range 64).map (fun j =>
            if K ≤ 64 * k + j then XVal.zero else tag.widen 0 (ofBytes (Memory.read f.mem (D + off (64 * k + j)) sz)))
          (∀ k < R, Claims.runStands t x y G k (fun j => (toBfp (X k) (tdW x) c).1.getD j 0) (toBfp (X k) (tdW x) c).2.1)
          ∧ (∀ i < 64, t.core.vec.vstat.getLsbD i = (f.core.vec.vstat.getLsbD i ||
              (List.range R).any (fun k => (toBfp (X k) (tdW x) c).2.2.getLsbD i))) ∧ rest G)

/-- R274 to R276: the engine. A form of K steps begins at step 0, or where a matching TPROG stands; with no step to go it
ends at once, tl.mmz with S = 0 writing zero to the sub-block. Each step rounds every
accumulator of the sub-block once and touches no other; after the last step the form has left the queue and TPROG is 0
as a whole, of which R275 names V alone: the rest is the model's choice (log 49). Data that a step cannot read trap
at the form, with TPROG at the step, and what was issued behind the form is undone (R275, R398; log 46).
A line moves as tileLine says, with TPROG.STEP one further, and after the last the thread goes on (log 84 where it
reads an exit register in error); a fault of a line leaves memory, accumulators and TPROG as they were. tl.ext and tl.extr
write narrowed accumulators; a reserved or stochastic control takes cause 0x70. -/
def Claims.tileEngine : Prop :=
  ∀ (s : State) (d : BitVec 1) (a b : BitVec 4) (v w : BitVec 5) (k : BitVec 3) (z : Bool) (e : TileCmd) (r : List TileCmd),
    let f := s.focus s.ev.c
    let T := f.core.tile
    let S := (tsK T.tshape + 63) / 64
    let n := tsSub T.tshape
    let muls := [(Instr.tlMma d a b, 0), (Instr.tlMmz d a b, 1), (Instr.tlMms d a b, 2)]
    (∀ m ∈ muls, decode e.word = .ok m.1 → T.queue = e :: r → T.running = false →
      let mine := T.tprog.getLsbD 63 = true ∧ T.tprog.extractLsb' 59 5 = (1#1 ++ BitVec.ofNat 3 m.2 ++ d : BitVec 5)
        ∧ T.tprog.extractLsb' 51 8 = (a ++ b : BitVec 8)
      let done (acc : Vector (BitVec 983040) 2) : State :=
        { f with core := { f.core with tile := { T with acc := acc, queue := r, tprog := 0, running := false } } }
      (¬ mine → 0 < S →
        ∃ w, exec .tileFormExecute s = .next { f with core := { f.core with tile := { T with running := true, tprog := w } } }
          ∧ w.getLsbD 63 = true ∧ tpStep w = 0 ∧ w.extractLsb' 59 5 = (1#1 ++ BitVec.ofNat 3 m.2 ++ d : BitVec 5)
          ∧ w.extractLsb' 51 8 = (a ++ b : BitVec 8) ∧ w.extractLsb' 16 35 = 0#35)
      ∧ (mine → tpStep T.tprog < S →
          exec .tileFormExecute s = .next { f with core := { f.core with tile := { T with running := true } } })
      ∧ (S = 0 → f.exitBad = false → ∃ acc, exec .tileFormExecute s = .next (done acc)
          ∧ (m.2 ≠ 1 → acc = T.acc)
          ∧ (m.2 = 1 → (∀ q, q ≠ d → rget acc q = rget T.acc q) ∧ ∀ i j, i < 96 → j < 160 →
              (getF 64 (rget acc d) (160 * i + j) : Word) = if i < n.1 ∧ j < n.2 then 0 else getF 64 (rget T.acc d) (160 * i + j))))
    ∧ (∀ m ∈ muls, decode e.word = .ok m.1 → T.queue = e :: r → T.running = true → tpStep T.tprog < S →
      let q := tpStep T.tprog
      let read := f.touchSpans (Claims.stepSpans T a b q) .lread
      let lost := ¬ (m.2 = 1 ∧ q = 0) ∧ RegName.acc d ∈ f.core.regErr
      (∀ tr, lost ∧ tr = { cause := 0xC3 } ∨ (¬ lost ∧ ∃ x, read = .error (.fault x) ∧ tr = x.trap q) →
        ∃ t : State, exec .tileKStepComplete s = .next (t.enterTrap tr)
          ∧ t = { f with dev := { f.dev with ecccnt := t.dev.ecccnt }, core := { f.core with
              pc := e.journal.pc, g := e.journal.g, blk := e.journal.blk, wait := none
              vec := { f.core.vec with lrot := e.journal.lrot, k := e.journal.k, xuq := [] }
              tile := { T with queue := [], running := false } } })
      ∧ (¬ lost → read = .ok () → ∃ u, exec .tileKStepComplete s = .next u
        ∧ (∀ i j, i < 96 → j < 160 → (getF 64 (rget u.core.tile.acc d) (160 * i + j) : Word) =
            if i < n.1 ∧ j < n.2 then Claims.stepValue f m.2 d a b q i j else getF 64 (rget T.acc d) (160 * i + j))
        ∧ (∀ g, g ≠ d → rget u.core.tile.acc g = rget T.acc g)
        ∧ (q + 1 < S → u.core.tile.queue = e :: r ∧ tpStep u.core.tile.tprog = q + 1)
        ∧ (S ≤ q + 1 → u.core.tile.queue = r ∧ u.core.tile.tprog = 0 ∧ u.core.tile.running = false)
        ∧ (f.dev.softBytes = [] → u.dev = f.dev)
        ∧ u = { f with dev := f.dev.withErrors u.dev, core := { f.core with
            vec := { f.core.vec with vstat := u.core.vec.vstat }
            tile := { T with acc := u.core.tile.acc, queue := u.core.tile.queue, tprog := u.core.tile.tprog, running := u.core.tile.running } } }))
    ∧ (f.dev.badBytes = [] → f.dev.quarantine = [] → (∀ q : BitVec 3, xState (f.xstat (0#1 ++ q)) = stIdle) →
        ∀ q, f.touchSpans (Claims.stepSpans T a b q) .lread = .ok ())
    ∧ (∀ i, decode e.word = .ok i → (∃ k, tileKey i = some k ∧ 3 ≤ k.1.toNat) → T.queue = e :: r → T.running = true →
        f.core.wait = some .tileLine →
        let q := tpStep T.tprog
        let go := { f with core := { f.core with tile := { T with queue := [] } } }.tileLine e i q
        (∀ t, go = .ok t →
          let u := { t with core := { t.core with tile := { t.core.tile with
            queue := T.queue, tprog := putFld t.core.tile.tprog 0 (BitVec.ofNat 16 (tpStep t.core.tile.tprog + 1)) } } }
          (q + 1 < (e.lines i).2 → exec .tileLineComplete s = .next u)
          ∧ ((e.lines i).2 ≤ q + 1 → u.exitBad = false → exec .tileLineComplete s = .next
              ({ u with core := { u.core with tile := { u.core.tile with tprog := 0, queue := r, running := false } } } : State).next))
        ∧ (∀ l m, go = .error (.access l (.fault m)) → ∃ u, exec .tileLineComplete s = .next u ∧ u = f.enterTrap (m.trap l)
            ∧ u.mem = f.mem ∧ u.core.tile.acc = T.acc ∧ u.core.tile.tprog = T.tprog ∧ u.core.g = f.core.g))
    ∧ (let x := s.g w
       let h := tsSub s.core.tile.tshape
       let o := s.vop v
       let L := (x.extractLsb' 0 16).toNat
       let val (c : Ctl) (e : Nat) : Nat × Flags :=
         o.tag.round o.frac c 0 (accVal (getF 64 (rget s.core.tile.acc d) (160 * ((L + e) / h.2) + (L + e) % h.2)))
       (o.tag.isFloat = true ∨ o.tag.isFx = true) → s.core.vec.n ≤ o.cap → L + s.core.vec.n ≤ h.1 * h.2 → s.core.tile.queue = [] →
        (x.extractLsb' 16 48 = 0#48 → ∃ u, ends (.tlExt v d w k z) s u
          ∧ Claims.elementResults s u v k z (s.startGroup clsV v) (val ctlRne))
        ∧ (x.extractLsb' 16 44 = 0#44 → x.getLsbD 62 = false → ∀ c, Ctl.ofCode (x.extractLsb' 60 4) = some c →
            ∃ u, ends (.tlExtr v d w k z) s u ∧ Claims.elementResults s u v k z (s.startGroup clsV v) (val c))
        ∧ (x.getLsbD 62 = true ∨ Ctl.ofCode (x.extractLsb' 60 4) = none → traps (.tlExtr v d w k z) s { cause := 0x70 }))

/-- R87 to R92, R271 to R276: the engine, the meetings of broadcasts, what a line moves, runs as they are read and formed,
and the rounding into an accumulator. -/
def Obligations.TileEngine : Prop :=
  Claims.tileEngine ∧ Claims.broadcastMeeting ∧ Claims.lineContents ∧ Claims.runsAsRead ∧ Claims.runsFormed
    ∧ Claims.accumulatorRounding


/-! ## Streams, ports and circular buffers -/

/-- The stream forms: form, kind, far base and source channel (R143, R146). -/
def Claims.streamForms (s : State) (d a b : BitVec 5) (ch : BitVec 3) (op p : BitVec 4) :
    List (Instr × StreamKind × Word × BitVec 3) :=
  [ (.xsLd d a b op p, .ld, s.g a, 0), (.xsSt d a b op p, .st, s.g a, 0), (.xsGth d a b op p, .gth, s.g a, 0),
    (.xsSct d a b op p, .sct, s.g a, 0), (.xsCp d ch b op p, .cp, ((s.chwin ch).extractLsb' 0 22).setWidth 64, ch) ]

/-- Bytes of an element of a format code that streams accept (R144); none for the others. -/
def Claims.fmtBytes (c : BitVec 5) : Option Nat :=
  if c.toNat ∈ [0x00, 0x04, 0x0F, 0x10] then some 1 else if c.toNat ∈ [0x01, 0x05, 0x0D, 0x0E] then some 2
  else if c.toNat ∈ [0x02, 0x06, 0x0C] then some 4 else if c.toNat ∈ [0x03, 0x07] then some 8 else none

/-- A command that has just been issued holds these parameters (R141 to R146). -/
def Claims.captured (s : State) (c : StreamCmd) (kind : StreamKind) (p op : BitVec 4) (base : Word) (src : BitVec 3) (b : BitVec 5) (near : Near) : Prop :=
  c.kind = kind ∧ c.port = p ∧ c.op = op ∧ c.base = base ∧ c.src = src ∧ c.near = near ∧ c.c0 = (s.g b).extractLsb' 0 16
    ∧ c.c1 = (s.g b).extractLsb' 16 16 ∧ c.c2 = (s.g b).extractLsb' 32 16 ∧ c.s1 = s.g (b + 1) ∧ c.s2 = s.g (b + 2)
    ∧ c.ffmt = (s.g (b + 3)).extractLsb' 15 5 ∧ c.nfmt = (s.g (b + 3)).extractLsb' 10 5 ∧ c.ctl = (s.g (b + 3)).extractLsb' 20 4
    ∧ c.sc = (s.g (b + 3)).extractLsb' 24 8 ∧ c.b0 = (s.g (b + 3)).extractLsb' 32 16 ∧ c.b1 = (s.g (b + 3)).extractLsb' 48 16
    ∧ c.exp = BitVec.ofNat 16 s.core.vec.n ∧ c.pl = s.pl ∧ c.active = false ∧ c.next = 0 ∧ c.moved = [] ∧ c.sends = [] ∧ c.ahead = [] ∧ c.skip = []

/-- R141 to R148, R152: a stream form whose parameters are well formed puts its command, with the parameters captured, at
the end of Rowan's order, and the thread goes on; malformed parameters, a window, ring or MODE descriptor among them,
take cause 0x60, a window beyond the scratchpad 0x64, a ring that is not configured 0x67. With 16 stream commands held it
stands; that Sloe commands do not count toward the 16 is the model's choice (log 85), and that xs.cp takes the base of its
source window at its issue is log 112. A stream that writes a deterministic
page takes a number in the step (R339). Nothing else changes. -/
def Obligations.StreamForms : Prop :=
  ∀ (s : State) (d a b : BitVec 5) (ch : BitVec 3) (op p : BitVec 4), ∀ f ∈ Claims.streamForms s d a b ch op p,
    let g0 := s.g b
    let g3 := s.g (b + 3)
    let x := s.g d
    let E := s.core.vec.n
    let n (lo : Nat) : Nat := (g0.extractLsb' lo 16).toNat
    let indexed := f.2.1 = .gth ∨ f.2.1 = .sct
    let empties := f.2.1 = .st ∨ f.2.1 = .sct
    let total := n 0 * n 16 * (if indexed then 1 else n 32)
    let ffmt : BitVec 5 := g3.extractLsb' 15 5
    let nfmt : BitVec 5 := g3.extractLsb' 10 5
    let good := g0.extractLsb' 48 16 = 0#16 ∧ g3.extractLsb' 0 10 = 0#10 ∧ total ≠ 0 ∧ Claims.fmtBytes ffmt ≠ none
      ∧ g3.getLsbD 22 = false ∧ (op.getLsbD 1 = false → ffmt = nfmt ∧ g3.extractLsb' 24 8 = 0#8) ∧ E ≤ total
      ∧ (op.getLsbD 2 = true → E = total) ∧ (op.getLsbD 0 = true → n 0 % 64 = 0)
    let out (near : Near) : Prop :=
      (16 ≤ s.core.streams → stands f.1 s .dauStall)
      ∧ (s.core.streams < 16 → s.core.tile.queue = [] → ∃ c, Claims.captured s c f.2.1 p op f.2.2.1 f.2.2.2 b near
          ∧ ends f.1 s { s with core := { s.core with
              cmds := s.core.cmds ++ [.stream c], seq := if s.streamDt c = true then s.core.seq + 1 else s.core.seq } }
          ∧ (s.core.vec.det = false → s.streamDt c = false))
    (¬ good ∨ Claims.fmtBytes nfmt = none → traps f.1 s { cause := 0x60 })
    ∧ (good → ∀ nsz, Claims.fmtBytes nfmt = some nsz →
        (p.toNat ≤ 7 → x.getLsbD 63 = false →
          (x.extractLsb' 22 41 ≠ 0#41 ∨ (x.extractLsb' 0 22).toNat % nsz ≠ 0 → traps f.1 s { cause := 0x60 })
          ∧ (x.extractLsb' 22 41 = 0#41 → (x.extractLsb' 0 22).toNat % nsz = 0 →
              (2 ^ 21 < (x.extractLsb' 0 22).toNat + E * nsz → traps f.1 s { cause := 0x64 })
              ∧ ((x.extractLsb' 0 22).toNat + E * nsz ≤ 2 ^ 21 → out (.window (x.extractLsb' 0 22)))))
        ∧ (p.toNat ≤ 7 → x.getLsbD 63 = true → x.extractLsb' 3 60 ≠ 0#60 → traps f.1 s { cause := 0x60 })
        ∧ (12 ≤ p.toNat → x.getLsbD 63 = false → x.extractLsb' 32 31 ≠ 0#31 ∨ x.extractLsb' 11 5 ≠ 0#5 → traps f.1 s { cause := 0x60 })
        ∧ (12 ≤ p.toNat → x.getLsbD 63 = true → x.extractLsb' 56 7 ≠ (if x.getLsbD 55 then 0x7F#7 else 0#7) → traps f.1 s { cause := 0x60 })
        ∧ (p.toNat ≤ 7 → x.getLsbD 63 = true → x.extractLsb' 3 60 = 0#60 →
            let cfg := s.cbCfg (x.extractLsb' 0 3)
            (cbSlot cfg % nsz ≠ 0 → traps f.1 s { cause := 0x60 })
            ∧ (cbSlot cfg % nsz = 0 → cbCount cfg = 0 → traps f.1 s { cause := 0x67 })
            ∧ (cbSlot cfg % nsz = 0 → cbCount cfg ≠ 0 → out (.ring (x.extractLsb' 0 3))))
        ∧ (8 ≤ p.toNat → p.toNat ≤ 11 → out .queue)
        ∧ (12 ≤ p.toNat → x.getLsbD 63 = false → ¬ empties → x.extractLsb' 32 31 = 0#31 → x.extractLsb' 11 5 = 0#5 →
            out (.remote (x.extractLsb' 0 8) (x.extractLsb' 8 3) (x.extractLsb' 16 16)))
        ∧ (12 ≤ p.toNat → x.getLsbD 63 = false → empties → traps f.1 s { cause := 0x60 })
        ∧ (12 ≤ p.toNat → x.getLsbD 63 = true → x.extractLsb' 56 7 = (if x.getLsbD 55 then 0x7F#7 else 0#7) →
            out (.region ((x.extractLsb' 0 56).signExtend 64))))

/-- R141, R152, R156, R158: Rowan starts the next command of a port that holds no failure and is not armed; the port is
ACTIVE, or with E = 0 DONE at once. SAT and INV stay. A load-data queue starts with VQRD 0 (R209). A failure that the port
held counts no longer (R297). -/
def Claims.streamStarts : Prop :=
  ∀ (s : State) (c : StreamCmd) (l r : List Cmd),
    let f := s.focus s.ev.c
    f.core.cmds = l ++ .stream c :: r → (∀ x ∈ l, x.port ≠ c.port) → c.port = s.ev.p → c.active = false →
    xState (f.xstat c.port) ≠ stError → xState (f.xstat c.port) ≠ stOverfill → (f.xstat c.port).getLsbD 51 = false →
    (∀ n, c.near = .ring n → ∀ x ∈ f.core.cmds, x.active = true → x.ring ≠ some n) →
      ∃ u, exec .streamStart s = .next u
        ∧ (let x := u.xstat c.port
           xState x = (if c.exp = 0 then stDone else stActive) ∧ xDir x = c.empties ∧ xExp x = c.exp.toNat ∧ xCnt x = 0 ∧ xArm x = false
             ∧ x.extractLsb' 52 2 = (f.xstat c.port).extractLsb' 52 2)
        ∧ (c.exp ≠ 0 → u.core.cmds = l ++ .stream { c with active := true } :: r)
        ∧ (c.exp = 0 → u.core.cmds = l ++ r)
        ∧ (∀ w, c.near = .window w → c.port.toNat ≤ 7 → chBase (u.portWin c.port) = w.toNat ∧ chWm (u.portWin c.port) = w.toNat)
        ∧ (c.near ≠ .queue → u.core.vec.vqrd = f.core.vec.vqrd)
        ∧ (c.near = .queue → ∀ i < 64, u.core.vec.vqrd.getLsbD i =
            if 16 * (c.port.toNat % 4) ≤ i ∧ i < 16 * (c.port.toNat % 4) + 16 then false else f.core.vec.vqrd.getLsbD i)
        ∧ u = { f with core := { f.core with port := u.core.port, cmds := u.core.cmds, vec := { f.core.vec with vqrd := u.core.vec.vqrd }, sloe := { f.core.sloe with failed := f.core.sloe.failed.filter (fun x => x.2 != c.port) } } }

/-- The active stream of a port that moves between memory and a window of the scratchpad, uncompressed, with its elements
so far in order: what the claims about elements are made of. -/
def Claims.plainStream (f : State) (c : StreamCmd) (l r : List Cmd) (w : BitVec 22) : Prop :=
  f.core.cmds = l ++ .stream c :: r ∧ (∀ x ∈ l, x.port ≠ c.port) ∧ c.active = true ∧ c.next < c.exp.toNat
    ∧ c.near = .window w ∧ c.port.toNat ≤ 7 ∧ c.dc = false ∧ c.tr = false ∧ c.sends = [] ∧ c.ahead = []
    ∧ c.moved.map (fun m => m.1) = List.range c.next ∧ w.toNat + c.exp.toNat * c.nsz ≤ 2 ^ 21
    ∧ (f.xstat c.port).getLsbD 59 = false ∧ chBase (f.portWin c.port) = w.toNat ∧ xExp (f.xstat c.port) = c.exp.toNat
    ∧ xNsz (f.xstat c.port) = BitVec.ofNat 2 (fmtLog c.nfmt)

/-- What the port holds once near element e has moved (R152, R156): CNT, WM, and at the last element DONE. -/
def Claims.counted (f u : State) (c : StreamCmd) (l r : List Cmd) : Prop :=
  let e := c.next
  let x := u.xstat c.port
  xCnt x = e + 1 ∧ xExp x = c.exp.toNat ∧ chWm (u.portWin c.port) = chBase (f.portWin c.port) + (e + 1) * c.nsz
    ∧ (e + 1 < c.exp.toNat → xState x = xState (f.xstat c.port) ∧ ∃ c', u.core.cmds = l ++ .stream c' :: r ∧ c'.next = e + 1
        ∧ c'.active = true ∧ c'.moved.map (fun m => m.1) = List.range (e + 1))
    ∧ (c.exp.toNat ≤ e + 1 → xState x = stDone ∧ u.core.cmds = l ++ r)
    ∧ u = { f with mem := u.mem, dev := f.dev.withErrors u.dev, core := { f.core with port := u.core.port, cmds := u.core.cmds } }

/-- R146 to R154: one element of a stream. A filling stream lands the converted far element, or zero where the element
lies outside its bounds; an emptying stream stores the converted near element; CNT and WM follow, and the last element
makes the port DONE. A failing access makes the port ERROR with FELEM, the cause and the address. -/
def Claims.streamElements : Prop :=
  ∀ (s : State) (c : StreamCmd) (l r : List Cmd) (w : BitVec 22) (x : Xl),
    let f := s.focus s.ev.c
    let e := c.next
    let va := BitVec.ofInt 64 (c.farInt e)
    let place (e : Nat) : Nat := scratchBase f.core.id.toNat + w.toNat + e * c.nsz
    let pa := place e
    Claims.plainStream f c l r w → c.port = s.ev.p → f.memOk →
      (∀ k, 0 < k → s.ev.chunk.toNat = k → e + k < c.exp.toNat → (e + k) / 16 = e / 16 → c.kind = .ld → c.inside (e + k) 0 = true →
        reach f l c.pl .xread (BitVec.ofInt 64 (c.farInt (e + k))) c.fsz = .ok x → x.entry = none → x.plain = true →
        x.attr pteCS = false → f.dataFault .xwrite (place (e + k)) c.nsz = none →
          ∃ u c', exec .streamElementComplete s = .next u ∧ u.core.cmds = l ++ .stream c' :: r ∧ c'.next = e ∧ c'.active = true
            ∧ u.xstat c.port = putFld (f.xstat c.port) 16 (BitVec.ofNat 16 e) ∧ chWm (u.portWin c.port) = chBase (f.portWin c.port) + e * c.nsz
            ∧ (∀ i < c.nsz, u.byteAt (place (e + k) + i) =
                BitVec.ofNat 8 ((c.convert c.ffmt c.nfmt c.sc.toInt (ofBytes (Memory.read f.mem x.pa c.fsz))).1 / 256 ^ i))
            ∧ sameBut f u (place (e + k)) c.nsz)
      ∧ (s.ev.chunk = 0 →
      (c.kind = .ld → c.inside e 0 = true → reach f l c.pl .xread va c.fsz = .ok x → x.entry = none → x.plain = true → x.attr pteCS = false →
        f.dataFault .xwrite pa c.nsz = none →
        ∃ u, exec .streamElementComplete s = .next u ∧ Claims.counted f u c l r
          ∧ (∀ i < c.nsz, u.byteAt (pa + i) =
              BitVec.ofNat 8 ((c.convert c.ffmt c.nfmt c.sc.toInt (ofBytes (Memory.read f.mem x.pa c.fsz))).1 / 256 ^ i))
          ∧ sameBut f u pa c.nsz)
      ∧ (c.kind = .ld → c.inside e 0 = false → f.dataFault .xwrite pa c.nsz = none →
        ∃ u, exec .streamElementComplete s = .next u ∧ Claims.counted f u c l r
          ∧ (∀ i < c.nsz, u.byteAt (pa + i) = 0) ∧ sameBut f u pa c.nsz)
      ∧ (c.kind = .st → c.inside e 0 = true → f.dataFault .xread pa c.nsz = none →
        reach (f.correct pa c.nsz) l c.pl .xwrite va c.fsz = .ok x → x.entry = none → x.plain = true →
        ∃ u, exec .streamElementComplete s = .next u ∧ Claims.counted f u c l r
          ∧ (∀ i < c.fsz, u.byteAt (x.pa + i) =
              BitVec.ofNat 8 ((c.convert c.nfmt c.ffmt (-c.sc.toInt) (ofBytes (Memory.read f.mem pa c.nsz))).1 / 256 ^ i))
          ∧ sameBut f u x.pa c.fsz)
      ∧ (∀ m, c.kind = .ld → c.inside e 0 = true → reach f l c.pl .xread va c.fsz = .error (.fault m) →
        ∃ u, exec .streamElementComplete s = .next u ∧ xState (u.xstat c.port) = stError ∧ xFelem (u.xstat c.port) = e
          ∧ xCnt (u.xstat c.port) = e ∧ (u.xfault c.port).extractLsb' 56 8 = m.cause
          ∧ (m.cause ≠ 0x65 → m.cause ≠ 0x66 → (u.xfault c.port).extractLsb' 0 56 = m.va.extractLsb' 0 56)
          ∧ u.core.cmds = l ++ r ∧ u.core.g = f.core.g
          ∧ ∀ p, ¬ (pa ≤ p ∧ p < scratchBase f.core.id.toNat + w.toNat + c.exp.toNat * c.nsz) → u.byteAt p = f.byteAt p))

/-- An access by a stream goes through to plain memory whose page has the CS given, with no walk to be cached. -/
def Claims.streamReach (s : State) (l : List Cmd) (c : StreamCmd) (kind : AccKind) (va : Word) (n : Nat) (cs : Bool) (x : Xl) : Prop :=
  reach s l c.pl kind va n = .ok x ∧ x.entry = none ∧ x.plain = true ∧ x.attr pteCS = cs

/-- R146, R147: where an element lies on the far side, and what its read gives: near index under TR, index words, source
windows of xs.cp, and no access where inside = 0. Only the device's records of errors change. That an element of xs.cp both
misaligned and outside takes 0x2A is the model's choice (log 97). -/
def Claims.farReads : Prop :=
  ∀ (s : State) (l : List Cmd) (c : StreamCmd) (e : Nat) (x y : Xl),
    let C0 := c.c0.toNat
    let C1 := c.c1.toNat
    let ix : BitVec 32 := BitVec.ofNat 32 (ofBytes (Memory.read s.mem y.pa 4))
    let gets (va : Word) : Prop := Claims.streamReach s l c .xread va c.fsz false x →
      ∃ f, farRead s l c e = .ok f ∧ f.c = c ∧ f.inside = true ∧ f.raw = ofBytes (Memory.read s.mem x.pa c.fsz)
        ∧ f.bytes = Memory.read s.mem x.pa c.fsz ∧ f.s = { s with dev := s.dev.withErrors f.s.dev }
    let none' (i : BitVec 32) : Prop := c.inside e i = false →
      ∃ f, farRead s l c e = .ok f ∧ f.c = c ∧ f.inside = false ∧ f.raw = 0 ∧ f.bytes = [] ∧ f.s = { s with dev := s.dev.withErrors f.s.dev }
    let indexed := c.kind = .gth ∨ c.kind = .sct
    (c.nearIx e = if c.op.getLsbD 2 = true then e / C0 % C1 + C1 * (e % C0 + C0 * (e / (C0 * C1))) else e)
    ∧ (c.farInt e = (c.base.toNat : Int) + (e / C0 % C1 : Nat) * c.s1.toInt + (e / (C0 * C1) : Nat) * c.s2.toInt + (e % C0 * c.fsz : Nat))
    ∧ (indexed → ∀ i : BitVec 32, c.inside e i = (!c.op.getLsbD 3 || decide (c.b0 = 0) || (decide (0 ≤ i.toInt) && decide (i.toInt < c.b0.toNat))))
    ∧ (¬ indexed → ∀ i : BitVec 32, c.inside e i = (!c.op.getLsbD 3
        || (decide (e % C0 < if c.b0 = 0 then C0 else c.b0.toNat) && decide (e / C0 % C1 < if c.b1 = 0 then C1 else c.b1.toNat))))
    ∧ (c.dc = false → c.kind = .ld → (c.inside e 0 = true → gets (BitVec.ofInt 64 (c.farInt e))) ∧ none' 0)
    ∧ (c.dc = false → c.kind = .gth → Claims.streamReach s l c .xread (c.s1 + BitVec.ofNat 64 (4 * e)) 4 false y →
        (c.inside e ix = true → gets (c.base + BitVec.ofInt 64 (ix.toInt * c.fsz))) ∧ none' ix)
    ∧ (c.dc = false → c.kind = .cp →
        let o := c.farInt e
        let pa := scratchBase s.core.id.toNat + o.toNat
        let fails (cause : BitVec 8) : Prop := ∃ g m, farRead s l c e = .error (g, .fault m) ∧ m.cause = cause
        none' 0 ∧ (c.inside e 0 = true →
          (o % c.fsz ≠ 0 → fails 0x2A) ∧ (o % c.fsz = 0 → o < 0 ∨ 2 ^ 21 < o + c.fsz → fails 0x64)
          ∧ (o % c.fsz = 0 → 0 ≤ o → o + c.fsz ≤ 2 ^ 21 →
            (∀ ch, s.core.port.window o.toNat c.fsz false = .failed ch → fails 0x63)
            ∧ (s.core.port.window o.toNat c.fsz false = .stall → farRead s l c e = .error (s, .wait .watermark))
            ∧ (s.core.port.window o.toNat c.fsz false = .ok → s.dataFault .xread pa c.fsz = none →
                ∃ f, farRead s l c e = .ok f ∧ f.c = c ∧ f.inside = true ∧ f.raw = ofBytes (Memory.read s.mem pa c.fsz)
                  ∧ f.s = { s with dev := s.dev.withErrors f.s.dev }))))

/-- R150: an element of compressed rows. Its block begins at the row, or where the block before it ended, with the mask
word; a stored element is the next fsz bytes, another expands to zero; after the last element of a block come zero bytes
up to a multiple of 8, and another byte there fails the stream with cause 0x65. -/
def Claims.sparseReads : Prop :=
  ∀ (s : State) (l : List Cmd) (c : StreamCmd) (e : Nat) (xm xe : Xl) (y : Nat → Xl), c.dc = true → c.kind = .ld →
    let j := e % c.c0.toNat % 64
    let at' := if e % c.c0.toNat = 0 then c.row e else c.dcAddr
    let first := Claims.streamReach s l c .xread at' 8 true xm
    let mask := if j = 0 then wordOfBytes (Memory.read s.mem xm.pa 8) else c.dcMask
    let from' := if j = 0 then at' + 8 else c.dcAddr
    let stored := mask.getLsbD j
    let after := if stored then from' + BitVec.ofNat 64 c.fsz else from'
    let raw := if stored then ofBytes (Memory.read s.mem xe.pa c.fsz) else 0
    let pads := (8 - after.toNat % 8) % 8
    let read := (if j = 0 then Memory.read s.mem xm.pa 8 else []) ++ (if stored then Memory.read s.mem xe.pa c.fsz else [])
    (j = 0 → at'.toNat % 8 ≠ 0 → ∃ g m, farRead s l c e = .error (g, .fault m) ∧ m.cause = 0x2A)
    ∧ (∀ m, j = 0 → at'.toNat % 8 = 0 → reach s l c.pl .xread at' 8 = .ok m → m.attr pteCS = false →
        ∃ g f, farRead s l c e = .error (g, .fault f) ∧ f.cause = 0x2B)
    ∧ ((j = 0 → at'.toNat % 8 = 0 ∧ first) → (stored = true → Claims.streamReach s l c .xread from' c.fsz true xe) →
        (j ≠ 63 → ∃ f, farRead s l c e = .ok f ∧ f.raw = raw ∧ f.inside = c.inside e 0 ∧ f.bytes = read
          ∧ f.c = { c with dcAddr := after, dcMask := mask } ∧ f.s = { s with dev := s.dev.withErrors f.s.dev })
        ∧ (j = 63 → (∀ i < pads, Claims.streamReach s l c .xread (after + BitVec.ofNat 64 i) 1 true (y i)) →
            ((∀ i < pads, s.byteAt (y i).pa = 0) → ∃ f, farRead s l c e = .ok f ∧ f.raw = raw ∧ f.inside = c.inside e 0
              ∧ f.bytes = read ++ (List.range pads).map (fun i => s.byteAt (y i).pa)
              ∧ f.c = { c with dcAddr := after + BitVec.ofNat 64 pads, dcMask := mask } ∧ f.s = { s with dev := s.dev.withErrors f.s.dev })
            ∧ ((∃ i < pads, s.byteAt (y i).pa ≠ 0) → ∃ g m, farRead s l c e = .error (g, .fault m) ∧ m.cause = 0x65)))

/-- R148, R152, R159, R164: the near side of an element of n bytes at near index i: the window's bytes, a slot of a ring,
taken when the stream first needs it, the entry of a load-data queue, the bytes of a region, or a message to a channel. A
transposing stream of a ring makes its near accesses at turns of their own, in ascending near index (log 58); where the
scratchpad refuses one, that is noted for the element. -/
def Claims.nearSides : Prop :=
  ∀ (s : State) (l : List Cmd) (c : StreamCmd) (e i : Nat) (v : Word) (x : Xl), s.memOk →
    let n := c.nsz
    let wrote (q : Nat) (t : State × StreamCmd) : Prop :=
      (∀ b < n, t.1.byteAt (q + b) = BitVec.ofNat 8 (v.toNat / 256 ^ b)) ∧ sameBut s t.1 q n
    let read (q : Nat) (h : Nat × State × StreamCmd) : Prop := h.1 = ofBytes (Memory.read s.mem q n) ∧ h.2.1.mem = s.mem
    let scr (o : Nat) : Nat := scratchBase s.core.id.toNat + o
    (∀ w, c.near = .window w →
      (s.dataFault .xwrite (scr (w.toNat + i * n)) n = none → ∃ t, nearWrite s l c e i v = .ok t ∧ wrote (scr (w.toNat + i * n)) t)
      ∧ (s.dataFault .xread (scr (w.toNat + i * n)) n = none → ∃ h, nearRead s l c i = .ok h ∧ read (scr (w.toNat + i * n)) h ∧ h.2.2 = c))
    ∧ (∀ r, c.near = .ring r →
      let cfg := s.cbCfg r
      let q := s.ringCnt r
      let k := i * n / cbSlot cfg
      let o (pos : Nat) : Nat := scr (cbBase cfg + cbSlot cfg * pos + i * n % cbSlot cfg)
      (c.tr = true → nearWrite s l c e i v = .ok (s, { c with sends := c.sends ++ [(i, v)] }))
      ∧ (let kind : AccKind := if c.empties then .xread else .xwrite
         let turn := s.nearTurn c r i v
         let takes (pos : Nat) (slots : List Nat) : Prop :=
          (s.dataFault kind (o pos) n = none → ∃ t, turn = some t ∧ t.2.slots = slots ∧ t.2.skip = c.skip
            ∧ (c.empties = false → wrote (o pos) t ∧ t.2.sends = c.sends.filter (fun y => y.1 != i))
            ∧ (c.empties = true → t.1.mem = s.mem
                ∧ t.2.sends = c.sends ++ [(i, BitVec.ofNat 64 (ofBytes (Memory.read s.mem (o pos) n)))]))
          ∧ (∀ cause bad, s.dataFault kind (o pos) n = some (cause, bad) → ∃ t, turn = some t ∧ t.2.slots = slots
              ∧ t.2.skip = c.skip ++ [(i, cause, o pos, bad)] ∧ t.1.mem = s.mem)
         (∀ pos, c.slots[k]? = some pos → takes pos c.slots)
         ∧ (k = c.slots.length → c.empties = false → (q.free = 0 → turn = none) ∧ (1 ≤ q.free → takes q.head (c.slots ++ [q.head])))
         ∧ (k = c.slots.length → c.empties = true → (q.filled = 0 → turn = none) ∧ (1 ≤ q.filled → takes q.tail (c.slots ++ [q.tail]))))
      ∧ (∀ pos, c.slots[k]? = some pos →
        (c.tr = false → s.dataFault .xwrite (o pos) n = none → ∃ t, nearWrite s l c e i v = .ok t ∧ wrote (o pos) t)
        ∧ (s.dataFault .xread (o pos) n = none → ∃ h, nearRead s l c i = .ok h ∧ read (o pos) h))
      ∧ (k = c.slots.length → c.empties = false → c.tr = false →
          (q.free = 0 → nearWrite s l c e i v = .error (.wait .cbAcq))
          ∧ (1 ≤ q.free → s.dataFault .xwrite (o q.head) n = none → ∃ t, nearWrite s l c e i v = .ok t ∧ wrote (o q.head) t
              ∧ t.2.slots = c.slots ++ [q.head]))
      ∧ (k = c.slots.length → c.empties = true →
          (q.filled = 0 → nearRead s l c i = .error (.wait .cbAcq))
          ∧ (1 ≤ q.filled → s.dataFault .xread (o q.tail) n = none → ∃ h, nearRead s l c i = .ok h ∧ read (o q.tail) h
              ∧ h.2.2.slots = c.slots ++ [q.tail])))
    ∧ (c.near = .queue → c.moved.map (fun m => m.1) = List.range i → ∃ t, nearWrite s l c e i v = .ok t ∧ t.1.mem = s.mem
        ∧ rget t.1.core.port.ldq (c.port.setWidth 2) = c.moved.map (fun m => m.2) ++ [v]
        ∧ xCnt (t.1.xstat c.port) = (i + 1) % 2 ^ 16)
    ∧ (∀ b, c.near = .region b →
      let va := b + BitVec.ofNat 64 (i * n)
      (Claims.streamReach s l c .xwrite va n (x.attr pteCS) x → ∃ t, nearWrite s l c e i v = .ok t ∧ wrote x.pa t)
      ∧ (Claims.streamReach s l c .xread va n false x → ∃ h, nearRead s l c i = .ok h ∧ read x.pa h ∧ h.2.2 = c))
    ∧ (∀ t ch off, c.near = .remote t ch off → nearWrite s l c e i v = .ok (s, { c with sends := c.sends ++ [(i, v)] }))

/-- R146, R149, R151, R154: what STREAM_ELEMENT_COMPLETE makes of a far read and a near side. A filling stream converts the
far element, writes zero where inside = 0, adds the far bytes to the source checksum and SAT and INV to XSTAT; an
emptying stream converts the near element and stores it where inside = 1; a fault makes the port fail there. A transposing
stream of a ring visits far elements in ascending e, and near ones in ascending n, each when the other side has it (R164;
log 58). -/
def Claims.elementSteps : Prop :=
  ∀ (s : State) (c : StreamCmd) (l r : List Cmd),
    let f := s.focus s.ev.c
    let e := c.next
    let n := c.nearIx e
    let done (t : State × StreamCmd) : Prop := exec .streamElementComplete s =
      .next (if t.2.exp.toNat ≤ t.2.next ∧ t.2.sends = [] then t.1.finishStream t.2 else t.1.putCmd c.port (.stream t.2))
    f.core.cmds = l ++ .stream c :: r → (∀ x ∈ l, x.port ≠ c.port) → c.port = s.ev.p → s.ev.chunk = 0 → c.active = true →
    (c.next < c.exp.toNat ∨ (c.tr = true ∧ c.empties = false ∧ ∃ q, c.near = .ring q)) → c.ahead = [] →
    (∀ t ch off, c.near ≠ .remote t ch off) →
      let ringed := c.tr = true ∧ ∃ q, c.near = .ring q
      let go (t : State × StreamCmd) : Prop := exec .streamElementComplete s = .next (t.1.putCmd c.port (.stream t.2))
      let fill (x : Fetched) : Nat × Flags :=
        let v := if x.inside = true ∨ c.dc = true then c.convert c.ffmt c.nfmt c.sc.toInt x.raw else (0, 0)
        (if x.inside = true then v.1 else 0, v.2)
      (c.empties = false → ¬ ringed →
        (∀ x t, farRead f l c e = .ok x →
          nearWrite (x.s.portFlags c.port (fill x).2) l { x.c with srcCrc := crcRun x.c.srcCrc x.bytes, next := e + 1 } e n
            (BitVec.ofNat 64 (fill x).1) = .ok t → t.2.ahead = [] → done t)
        ∧ (∀ g m, farRead f l c e = .error (g, .fault m) → c.sends = [] →
            exec .streamElementComplete s = .next (g.failStream c e m)))
      ∧ (∀ q, c.near = .ring q → c.tr = true → c.empties = false → c.skip = [] →
        (∀ y, c.sends.find? (fun z => z.1 == c.lead) = some y → ∀ t, f.nearTurn c q c.lead y.2 = some t →
            exec .streamElementComplete s =
              .next (if t.2.exp.toNat ≤ t.2.next ∧ t.2.sends = [] ∧ t.2.skip = [] then t.1.finishStream t.2 else t.1.putCmd c.port (.stream t.2)))
        ∧ (c.sends.find? (fun z => z.1 == c.lead) = none → c.next < c.exp.toNat →
            (∀ x, farRead f l c e = .ok x → x.c.sends = c.sends → x.c.near = c.near → x.c.op = c.op → x.c.ahead = [] →
              go (x.s.portFlags c.port (fill x).2, { x.c with
                srcCrc := crcRun x.c.srcCrc x.bytes, next := e + 1, sends := c.sends ++ [(n, BitVec.ofNat 64 (fill x).1)] }))
            ∧ (∀ g m, farRead f l c e = .error (g, .fault m) → exec .streamElementComplete s = .next (g.failStream c e m))))
      ∧ (∀ q, c.near = .ring q → c.tr = true → c.empties = true → c.skip = [] →
        (c.sends.find? (fun z => z.1 == n) = none → ∀ t, f.nearTurn c q c.lead 0 = some t → go t)
        ∧ (∀ y ix g t, c.sends.find? (fun z => z.1 == n) = some y → streamIndex f l c e = .ok (ix, g) →
            let v := c.convert c.nfmt c.ffmt (-c.sc.toInt) y.2.toNat
            let d := { c with sends := c.sends.filter (fun z => z.1 != n), next := e + 1 }
            (c.inside e ix = false ∧ t = (g.portFlags c.port v.2, d))
              ∨ (c.inside e ix = true ∧ ∃ w, store g l c.pl .xwrite c.seq e (c.far e ix) c.fsz (BitVec.ofNat 64 v.1) = .ok w
                  ∧ t = (w.portFlags c.port v.2, { d with dstCrc := crcRun d.dstCrc (toBytes c.fsz v.1) })) → done t))
      ∧ (c.empties = true → ¬ ringed → ∀ ix g x u d, streamIndex f l c e = .ok (ix, g) → nearRead g l c n = .ok (x, u, d) →
        let v := c.convert c.nfmt c.ffmt (-c.sc.toInt) x
        (c.inside e ix = false → done ((u.portFlags c.port v.2).landed { d with next := e + 1 } n (BitVec.ofNat 64 x)))
        ∧ (∀ w, c.inside e ix = true → store u l c.pl .xwrite c.seq e (c.far e ix) c.fsz (BitVec.ofNat 64 v.1) = .ok w →
            done ((w.portFlags c.port v.2).landed { d with next := e + 1, dstCrc := crcRun d.dstCrc (toBytes c.fsz v.1) } n (BitVec.ofNat 64 x))))

/-- R151: CRC-32C of bytes, bit by bit, the least significant bit of each byte first. -/
def Claims.crc (l : List Byte) : BitVec 32 :=
  (l.flatMap (fun b => (List.range 8).map (fun i => b.getLsbD i))).foldl
    (fun (r : BitVec 32) b => if (r.getLsbD 0 ^^ b) = true then (r >>> 1) ^^^ 0x82F63B78 else r >>> 1) 0xFFFFFFFF ^^^ 0xFFFFFFFF

/-- R149, R151, R152, R156: the conversion of a stream's element, and what the end of a stream leaves: the port DONE with
CNT = EXP, and in XCSUM both checksums, DST above SRC. Of a filling stream SRC covers the far bytes, taken in as the
elements were read, and DST the near elements in ascending n, each of nsz bytes, the least significant first; of an emptying
stream SRC covers the near elements and DST the far bytes written. -/
def Claims.streamEnds : Prop :=
  (∀ (c : StreamCmd) (src dst : BitVec 5) (k : Int) (v : Nat),
    (c.op.getLsbD 1 = false → c.convert src dst k v = (v, 0))
    ∧ ∀ t u m, c.op.getLsbD 1 = true → Tag.ofCode src = some t → Tag.ofCode dst = some u → Ctl.ofCode c.ctl = some m →
        c.convert src dst k v = u.round 0 m 0 ((t.widen 0 v).scale k))
  ∧ Claims.crc [0x31, 0x32, 0x33, 0x34, 0x35, 0x36, 0x37, 0x38, 0x39] = 0xE3069283
  ∧ (∀ (x : BitVec 32) (l m : List Byte), x ^^^ 0xFFFFFFFF = Claims.crc l → crcRun x m ^^^ 0xFFFFFFFF = Claims.crc (l ++ m))
  ∧ crcInit ^^^ 0xFFFFFFFF = Claims.crc []
  ∧ ∀ (f : State) (c : StreamCmd) (l r : List Cmd) (far : List Byte),
      let u := f.finishStream c
      let near := c.moved.flatMap (fun m => toBytes c.nsz m.2.toNat)
      f.core.cmds = l ++ .stream c :: r → (∀ x ∈ l, x.port ≠ c.port) →
      (if c.empties then c.dstCrc else c.srcCrc) ^^^ 0xFFFFFFFF = Claims.crc far →
        xState (u.xstat c.port) = stDone ∧ xCnt (u.xstat c.port) = c.exp.toNat ∧ u.core.cmds = l ++ r ∧ u.mem = f.mem
        ∧ rget u.core.port.xcsum c.port = (if c.empties = true then Claims.crc far ++ Claims.crc near else Claims.crc near ++ Claims.crc far)

/-- R107, R148, R434: an element for a channel of another core passes the gate of the target's cluster: through an open one
with nothing held before it, the element is on its way; an isolated cluster refuses the stream with cause 0x2C, and so
does a gated one unless the leaf through which the element was read has WK, which holds the request and wakes the
cluster. That it is this leaf's WK is the model's choice (log 87), and that the gate is asked first is log 99. -/
def Claims.fabricSends : Prop :=
  ∀ (s : State) (c : StreamCmd) (l r : List Cmd) (t : BitVec 8) (ch : BitVec 3) (off : BitVec 16) (x : Fetched),
    let f := s.focus s.ev.c
    let cl := f.clAt (clusterOf t)
    let e := c.next
    let v := if x.inside = true ∨ c.dc = true then c.convert c.ffmt c.nfmt c.sc.toInt x.raw else (0, 0)
    let refused := ∃ u, exec .streamElementComplete s = .next u ∧ xState (u.xstat c.port) = stError
      ∧ (u.xfault c.port).extractLsb' 56 8 = 0x2C ∧ u.core.cmds = l ++ r ∧ u.mem = f.mem
    f.core.cmds = l ++ .stream c :: r → (∀ x ∈ l, x.port ≠ c.port) → c.port = s.ev.p → s.ev.chunk = 0 → c.active = true →
    c.next < c.exp.toNat → c.ahead = [] → c.empties = false → c.near = .remote t ch off → farRead f l c e = .ok x → x.c = c →
      (cl.isolated = false → cl.open = true → cl.held = [] → ∃ u, exec .streamElementComplete s = .next u
        ∧ u.core.cmds = l ++ .stream { c with
            next := e + 1
            srcCrc := crcRun c.srcCrc x.bytes
            sends := c.sends ++ [(c.nearIx e, BitVec.ofNat 64 (if x.inside = true then v.1 else 0))] } :: r)
      ∧ (cl.isolated = true → c.sends = [] → refused)
      ∧ (cl.isolated = false → cl.open = false → cl.held = [] → x.wk = false → c.sends = [] → refused)
      ∧ (cl.isolated = false → cl.open = false → cl.held = [] → x.wk = true →
          ∃ u, exec .streamElementComplete s = .next u ∧ (u.clAt (clusterOf t)).held = [⟨f.core.id, c.port⟩]
            ∧ u.core = { f.core with sys := { f.core.sys with evt := u.core.sys.evt }, vec := { f.core.vec with alc := u.core.vec.alc } })

/-- R148, R155, R434: an element on its way to a channel, whose cluster's ingress is open or closing. Below EXP of an armed channel it lands in the target's window; at or
above it the channel goes to OVERFILL with cause 0x61 and memory is unchanged; a target that refuses makes the sending
port fail with cause 0x66. -/
def Claims.remoteArrivals : Prop :=
  ∀ (s : State) (c : StreamCmd) (l r : List Cmd) (t : BitVec 8) (ch : BitVec 3) (off : BitVec 16) (n : Nat) (v : Word)
    (q : List (Nat × Word)) (y : Core),
    let f := s.focus s.ev.c
    let p : BitVec 4 := 0#1 ++ ch
    let ix := off.toNat + n
    let pa := scratchBase t.toNat + chBase (rget y.port.chwin ch) + ix * c.nsz
    f.core.cmds = l ++ .stream c :: r → (∀ x ∈ l, x.port ≠ c.port) → c.port = s.ev.p → c.near = .remote t ch off →
    c.sends = (n, v) :: q → (f.clAt (clusterOf t)).admits = true →
      (f.coreAt (numbered t) = some y → y.id = t → f.core.id ≠ t → f.memOk →
        (ix < xExp (rget y.port.xstat p) → f.dataFault .xwrite pa c.nsz = none) → f.arrival t ch (fmtLog c.nfmt) = .lands →
        ∃ u z, exec .remoteArrival s = .next u ∧ u.coreAt (numbered t) = some z
          ∧ (ix < xExp (rget y.port.xstat p) →
              (∀ i < c.nsz, u.byteAt (pa + i) = BitVec.ofNat 8 (v.toNat / 256 ^ i)) ∧ sameBut f u pa c.nsz)
          ∧ (xExp (rget y.port.xstat p) ≤ ix → xState (rget z.port.xstat p) = stOverfill
              ∧ rget z.port.xfault p = 0x6100000000000000 ∧ u.mem = f.mem)
          ∧ u.core.g = f.core.g ∧ z.g = y.g)
      ∧ (f.arrival t ch (fmtLog c.nfmt) = .refused →
        ∃ u, exec .remoteArrival s = .next u ∧ xState (u.xstat c.port) = stError ∧ u.core.cmds = l ++ r
          ∧ u.xfault c.port = 0x6600000000000000 ∧ xFelem (u.xstat c.port) = (c.next - c.sends.length) % 65536)

/-- R141 to R158: the life of a stream in Rowan, from its start through its elements, plain, gathered, scattered, copied,
transposed and compressed, to and from every near side, and arrivals at armed channels. The model's choices here: the
order in which elements of a group complete (log 9), when a ring slot is taken (log 58), that padding is read with the last
element of a block (log 66), the leaf whose WK counts for a fabric send and the gate's place (logs 87, 99), and the order
of the causes of an xs.cp element (log 97). -/
def Obligations.StreamEngine : Prop :=
  Claims.streamStarts ∧ Claims.streamElements ∧ Claims.farReads ∧ Claims.sparseReads ∧ Claims.nearSides ∧ Claims.elementSteps
    ∧ Claims.streamEnds ∧ Claims.fabricSends ∧ Claims.remoteArrivals

/-- R156, R157: the forms of major 0x31. Reads write g[d] alone; xs.wait goes on, stands, or traps with the cause and the
address of XFAULT and the XLINFO of the failure; xs.rst resets or arms a port that is not ACTIVE. Where the XLINFO of a
failure stands until the trap, and what it is once software has written XFAULT, is the model's choice (log 72); so is that
arming with VL 0 gives DONE at once (log 67). -/
def Claims.portForms : Prop :=
  ∀ (s : State) (d b : BitVec 5) (p : BitVec 4) (ch : BitVec 3),
    let x := s.xstat p
    let y := s.g b
    let busy := ∃ c ∈ s.core.cmds, c.port = p
    let bad := xState x = stError ∨ xState x = stOverfill
    let go := (b ≠ 0 ∧ (y.extractLsb' 0 16).toNat ≤ xCnt x) ∨ (¬ busy ∧ xState x ≠ stRecv)
    let n := s.core.vec.n
    let held := rget s.core.port.xinfo p
    let info : Word := if held ≠ 0 then held else
      (x.extractLsb' 0 16 ++ 0#8 ++ (if x.getLsbD 60 then 7#4 else 6#4) ++ 15#4 ++ 0#8 ++ (s.xfault p).extractLsb' 56 8 : BitVec 48).setWidth 64
    let cleared (u : State) (st : Word) : Prop :=
      u.xstat p = st ∧ rget u.core.port.xcsum p = 0 ∧ u.xfault p = 0 ∧ (∀ q, q ≠ p → u.xstat q = s.xstat q ∧ u.xfault q = s.xfault q)
        ∧ (∀ c : BitVec 3, p ≠ 0#1 ++ c → u.chwin c = s.chwin c)
        ∧ u = { s with core := { s.core with port := u.core.port, sloe := { s.core.sloe with failed := u.core.sloe.failed } } }
    ends (.xsCnt d p) s (s.setG d x) ∧ ends (.xsWm d ch) s (s.setG d (s.chwin ch))
    ∧ ends (.xsCsum d p) s (s.setG d (rget s.core.port.xcsum p))
    ∧ (bad → traps (.xsWait p b) s { cause := (s.xfault p).extractLsb' 56 8, tval := ((s.xfault p).extractLsb' 0 56).setWidth 64, xlinfo := some info })
    ∧ (¬ bad → go → ends (.xsWait p b) s s) ∧ (¬ bad → ¬ go → stands (.xsWait p b) s .xsWait)
    ∧ (xState x = stActive → stands (.xsRst p b) s .dauStall)
    ∧ (xState x ≠ stActive → b = 0 → ∃ u, ends (.xsRst p b) s u ∧ cleared u 0
        ∧ ∀ c : BitVec 3, p = 0#1 ++ c → chBase (u.chwin c) = chBase (s.chwin c) ∧ chWm (u.chwin c) = chBase (s.chwin c))
    ∧ (xState x ≠ stActive → b ≠ 0 →
        (8 ≤ p.toNat → traps (.xsRst p b) s { cause := 0x07, tval := (Instr.xsRst p b).wordOf })
        ∧ (∀ c : BitVec 3, p = 0#1 ++ c →
          let z := (y.extractLsb' 24 2).toNat
          let good := y.extractLsb' 26 38 = 0#38 ∧ y.extractLsb' 22 2 = 0#2
          let base := (y.extractLsb' 0 22).toNat
          (¬ good → traps (.xsRst p b) s { cause := 0x60 })
          ∧ (good → 2 ^ 21 < base + n * 2 ^ z → traps (.xsRst p b) s { cause := 0x64 })
          ∧ (good → base + n * 2 ^ z ≤ 2 ^ 21 → ∃ u w, ends (.xsRst p b) s u ∧ cleared u w
              ∧ xState w = (if n = 0 then stDone else stRecv) ∧ xArm w = true ∧ xExp w = n ∧ xCnt w = 0 ∧ (xNsz w).toNat = z
              ∧ chBase (u.chwin c) = base ∧ chWm (u.chwin c) = base)))

/-- R163 to R166: the forms of major 0x32. cb.cfg sets a ring at rest; cb.acq moves n slots to its side and gives the
offset of the first, or stands; cb.rel passes n held slots on; cb.stat reads. The counters that a form does not name
stay. -/
def Claims.ringForms : Prop :=
  ∀ (s : State) (n : BitVec 3) (d a b : BitVec 5),
    let x := s.g a
    let y := s.g b
    let cfg := s.cbCfg n
    let r := s.ringCnt n
    let cnt := cbCount cfg
    let base := (x.extractLsb' 0 22).toNat
    let slot := (y.extractLsb' 0 16).toNat
    let count := (y.extractLsb' 16 16).toNat
    let m := (y.extractLsb' 0 16).toNat
    let put (w : Word) (q : RingCnt) : State := { s with core := { s.core with port := { s.core.port with
      cbcfg := rset s.core.port.cbcfg n w, cbstat := rset s.core.port.cbstat n q.word } } }
    let idle := ∀ c ∈ s.core.cmds, c.active = true → c.ring ≠ some n
    let rest := r.free = cnt ∧ idle
    let fits := slot % 64 = 0 ∧ 64 ≤ slot ∧ 1 ≤ count ∧ count ≤ 1024 ∧ base + slot * count ≤ 2 ^ 21
    let good := y.extractLsb' 17 47 = 0#47 ∧ 1 ≤ m ∧ m ≤ cnt
    (¬ rest → traps (.cbCfg n a b) s { cause := 0x68 }) ∧ (rest → ¬ fits → traps (.cbCfg n a b) s { cause := 0x64 })
    ∧ (rest → fits → ∃ w, ends (.cbCfg n a b) s (put w ⟨count, 0, 0, 0, 0, 0⟩) ∧ cbBase w = base ∧ cbSlot w = slot ∧ cbCount w = count)
    ∧ (cnt = 0 → traps (.cbAcq d n b) s { cause := 0x67 } ∧ traps (.cbRel n b) s { cause := 0x67 } ∧ traps (.cbStat d n) s { cause := 0x67 })
    ∧ (cnt ≠ 0 → ends (.cbStat d n) s (s.setG d (rget s.core.port.cbstat n))
      ∧ (¬ good → traps (.cbAcq d n b) s { cause := 0x60 } ∧ traps (.cbRel n b) s { cause := 0x60 })
      ∧ (good → y.getLsbD 16 = false →
          (r.filled < m → stands (.cbAcq d n b) s .cbAcq)
          ∧ (m ≤ r.filled → ends (.cbAcq d n b) s ((put cfg { r with filled := r.filled - m, heldC := r.heldC + m, tail := (r.tail + m) % cnt }).setG d
              (BitVec.ofNat 64 (cbBase cfg + cbSlot cfg * r.tail))))
          ∧ (r.heldC < m → traps (.cbRel n b) s { cause := 0x67 })
          ∧ (idle → m ≤ r.heldC → ends (.cbRel n b) s (put cfg { r with heldC := r.heldC - m, free := r.free + m })))
      ∧ (good → y.getLsbD 16 = true →
          (r.free < m → stands (.cbAcq d n b) s .cbAcq)
          ∧ (m ≤ r.free → ends (.cbAcq d n b) s ((put cfg { r with free := r.free - m, heldP := r.heldP + m, head := (r.head + m) % cnt }).setG d
              (BitVec.ofNat 64 (cbBase cfg + cbSlot cfg * r.head))))
          ∧ (r.heldP < m → traps (.cbRel n b) s { cause := 0x67 })
          ∧ (idle → m ≤ r.heldP → ends (.cbRel n b) s (put cfg { r with heldP := r.heldP - m, filled := r.filled + m }))))

/-- R156, R157, R163 to R166: the port forms and the circular buffers. Arming with VL 0, and the XLINFO that a port keeps,
are the model's choice (logs 67, 72). -/
def Obligations.PortsAndRings : Prop := Claims.portForms ∧ Claims.ringForms

/-! ## Sloe -/

/-- A list descriptor (R286): the channel and the count, where it is well formed. -/
def Claims.listOf (x : Word) : Option (BitVec 3 × Nat) :=
  let n := (x.extractLsb' 32 16).toNat
  if x.extractLsb' 3 29 = 0#29 ∧ x.extractLsb' 48 16 = 0#16 ∧ 1 ≤ n ∧ n ≤ 32768 then some (x.extractLsb' 0 3, n) else none

/-- The entries that a Sloe form makes and the lists that it reads, where its operands are well formed (R286). -/
def Claims.sloeNeeds (kind : SloeKind) (x y : Word) (vl : Nat) : Option (Nat × List (BitVec 3 × Nat)) :=
  let nc := (y.extractLsb' 0 5).toNat
  let k := (y.extractLsb' 0 11).toNat
  match kind with
  | .dec =>
    if y.extractLsb' 5 11 = 0#11 ∧ y.extractLsb' 32 32 = 0#32 ∧ 1 ≤ nc ∧ nc ≤ 16 ∧ (y.extractLsb' 16 16).toNat + nc ≤ 65536 then some (2048 * nc, []) else none
  | .isect => (Claims.listOf x).bind (fun p => (Claims.listOf y).map (fun q => (min p.2 q.2, [p, q])))
  | .unite => (Claims.listOf x).bind (fun p => (Claims.listOf y).map (fun q => (p.2 + q.2, [p, q])))
  | .bm25 => if y.extractLsb' 32 32 = 0#32 then (Claims.listOf x).map (fun p => (p.2, [p])) else none
  | .fuse => (Claims.listOf x).map (fun p => (p.2 + vl, [p]))
  | .topk => if y.extractLsb' 11 53 = 0#53 ∧ 1 ≤ k ∧ k ≤ 1024 then (Claims.listOf x).map (fun p => (k, [p])) else none

/-- R286 to R288: a Sloe form whose operands are well formed puts its command at the end of Rowan's order, and the thread
goes on; malformed operands take cause 0x71, a window beyond the scratchpad 0x64. With 8 commands held it stands. -/
def Claims.sloeForms : Prop :=
  ∀ (s : State) (d a b : BitVec 5) (op p : BitVec 4),
    ∀ f ∈ [(Instr.plDec d a b op p, SloeKind.dec, op), (.plIsect d a b op p, .isect, op), (.plUnite d a b op p, .unite, op),
      (.plBm25 d a b p, .bm25, 0), (.plFuse d a b p, .fuse, 0), (.plTopk d a b p, .topk, 0)],
    let x := s.g d
    let need := Claims.sloeNeeds f.2.1 (s.g a) (s.g b) s.core.vec.n
    let base := (x.extractLsb' 0 22).toNat
    let aligned := x.extractLsb' 22 42 = 0#42 ∧ x.extractLsb' 0 3 = 0#3
    (¬ aligned ∨ need = none → traps f.1 s { cause := 0x71 })
    ∧ (aligned → ∀ E ls, need = some (E, ls) →
        let apart := E ≤ 32768 ∧ ∀ l ∈ ls, p ≠ 0#1 ++ l.1
        let inside := base + 8 * E ≤ 2 ^ 21 ∧ ∀ l ∈ ls, chBase (s.chwin l.1) + 8 * l.2 ≤ 2 ^ 21
        let pair := f.2.1 = .fuse → (s.vop b).tag = .n32 ∧ (s.vop (b + 1)).tag = .f32
        (¬ apart → traps f.1 s { cause := 0x71 }) ∧ (apart → ¬ inside → traps f.1 s { cause := 0x64 })
        ∧ (apart → inside → ¬ pair → traps f.1 s { cause := 0x42 })
        ∧ (apart → inside → pair → (f.2.1 = .fuse → Claims.fits s b ∧ Claims.fits s (b + 1)) →
            (8 ≤ s.core.sloes → stands f.1 s .dauStall)
            ∧ (s.core.sloes < 8 → s.core.tile.queue = [] → ∃ c, ends f.1 s { s with core := { s.core with
                  cmds := s.core.cmds ++ [.sloe c], sloe := { s.core.sloe with seq := s.core.sloe.seq + 1 } } }
                ∧ c.kind = f.2.1 ∧ c.port = p ∧ c.op = f.2.2 ∧ c.base.toNat = base ∧ c.exp.toNat = E ∧ c.ga = s.g a
                ∧ (f.2.1 ≠ .fuse → c.gb = s.g b) ∧ c.prm0 = s.core.sloe.plprm[0] ∧ c.prm1 = s.core.sloe.plprm[1]
                ∧ c.prm2 = s.core.sloe.plprm[2] ∧ c.doc0 = s.core.sloe.pldoc[0] ∧ c.doc1 = s.core.sloe.pldoc[1]
                ∧ c.seq = s.core.sloe.seq ∧ c.active = false ∧ c.removed = false ∧ c.out = 0 ∧ c.chunks = [] ∧ c.entries = []
                ∧ (∀ l, ls[0]? = some l → c.chA = l.1 ∧ c.baseA.toNat = chBase (s.chwin l.1) ∧ c.lenA.toNat = l.2)
                ∧ (∀ l, ls[1]? = some l → c.chB = l.1 ∧ c.baseB.toNat = chBase (s.chwin l.1) ∧ c.lenB.toNat = l.2)
                ∧ (f.2.1 = .fuse → c.pair = (List.range s.core.vec.n).map (fun e =>
                    (BitVec.ofNat 32 (s.vbits (s.vop b) e), BitVec.ofNat 32 (s.vbits (s.vop (b + 1)) e)))))))

/-- R296 to R299: parameters, status, the wait and the abort. pl.wait stands while a command is held and traps with the
failure issued first that its port still holds, in ERROR or, of a command removed behind a fill that went over, in OVERFILL;
pl.abort removes what is pending, and stands until what is active has stopped. -/
def Claims.sloeControl : Prop :=
  ∀ (s : State) (d a b : BitVec 5) (q : BitVec 2),
    let r := s.core.sloe
    let x := s.g a
    let y := s.g b
    let put (f : SloeRegs) : State := { s with core := { s.core with sloe := f } }
    let held := ∃ c, Cmd.sloe c ∈ s.core.cmds
    let bad := r.failed.filter (fun y => xState (s.xstat y.2) == stError || xState (s.xstat y.2) == stOverfill)
    let active := ∃ c, Cmd.sloe c ∈ s.core.cmds ∧ c.active = true
    let live := s.core.cmds.countP (fun c => match c with | .sloe z => !z.removed | .stream _ => false)
    (q.toNat < 3 → ends (.plPrm a q) s (put { r with plprm := r.plprm.setIfInBounds q.toNat x }))
    ∧ (canonical x = false → traps (.plQry a b) s { cause := 0x20, tval := x })
    ∧ (canonical x = true → y.extractLsb' 32 32 ≠ 0#32 → traps (.plQry a b) s { cause := 0x71 })
    ∧ (canonical x = true → y.extractLsb' 32 32 = 0#32 → ends (.plQry a b) s (put { r with pldoc := (r.pldoc.set 0 x).set 1 y }))
    ∧ (∃ w : Word, ends (.plStat d) s (s.setG d w) ∧ (w.extractLsb' 32 4).toNat = live % 16
        ∧ ∀ i < 64, ¬ (32 ≤ i ∧ i < 36) → w.getLsbD i = r.plstat.getLsbD i)
    ∧ (∃ w : Word, ends (.plClr a) s (put { r with plstat := w })
        ∧ ∀ i < 64, w.getLsbD i = (r.plstat.getLsbD i && !(i == 62 && x.getLsbD 62)
            && !(x.getLsbD 63 && i != 62 && !(decide (32 ≤ i) && decide (i < 36)))))
    ∧ (held → stands .plWait s .plWait) ∧ (¬ held → bad = [] → ends .plWait s s)
    ∧ (¬ held → bad ≠ [] → ∃ z ∈ bad, (∀ y ∈ bad, z.1 ≤ y.1) ∧ ∃ info : Word, info.extractLsb' 20 4 = 6#4 ∧
        traps .plWait s { cause := (s.xfault z.2).extractLsb' 56 8, tval := ((s.xfault z.2).extractLsb' 0 56).setWidth 64, xlinfo := some info })
    ∧ (∃ u, (¬ active → ends .plAbort s u) ∧ (active → exec .plAbort s = .next (u.stand .plWait))
        ∧ u.core.cmds = s.core.cmds.map (fun c => match c with
          | .stream z => .stream z
          | .sloe z => .sloe (if z.active then { z with stop := true } else { z with removed := true }))
        ∧ u = { s with core := { s.core with cmds := u.core.cmds, sloe := { r with plstat := u.core.sloe.plstat } } }
        ∧ (∀ i < 62, u.core.sloe.plstat.getLsbD i = r.plstat.getLsbD i)
        ∧ u.core.sloe.plstat.getLsbD 62 = (r.plstat.getLsbD 62 || s.core.cmds.any (fun c => match c with
          | .sloe z => !z.removed && !z.stop
          | .stream _ => false)))

/-- The identifiers of entries that are not empty, in order (R284). -/
def Claims.ids (l : List Word) : List (BitVec 32) := (l.map (fun w => (w.extractLsb' 0 32 : BitVec 32))).filter (fun i => i != 0xFFFFFFFF)

/-- The n bytes at offset o of a chunk (R282), lowest first. -/
def Claims.chunkField (l : List Byte) (o n : Nat) : Nat := ofBytes ((l.drop o).take n)

/-- The documents of block i, the bytes of its payload as R283 counts them, and the payload as one number. -/
def Claims.blockDocs (l : List Byte) (i : Nat) : Nat :=
  if i + 1 < Claims.chunkField l 4 2 then 128 else Claims.chunkField l 6 2
def Claims.blockSize (l : List Byte) (i : Nat) : Nat :=
  let n := Claims.blockDocs l i
  ((n - 1) * Claims.chunkField l (36 + 16 * i) 1 + n * Claims.chunkField l (37 + 16 * i) 1 + 63) / 64 * 8
def Claims.payload (l : List Byte) (i : Nat) : Nat := Claims.chunkField l (Claims.chunkField l (38 + 16 * i) 2) (Claims.blockSize l i)

/-- Document j of block i, and its frequency (R283): the deltas stand from bit 0 of the payload, the frequencies after them. -/
def Claims.document (l : List Byte) (i : Nat) : Nat → Nat
  | 0 => Claims.chunkField l (32 + 16 * i) 4
  | j + 1 =>
    let w := Claims.chunkField l (36 + 16 * i) 1
    Claims.document l i j + Claims.payload l i / 2 ^ (j * w) % 2 ^ w + 1
def Claims.frequency (l : List Byte) (i j : Nat) : Nat :=
  let w := Claims.chunkField l (37 + 16 * i) 1
  Claims.payload l i / 2 ^ ((Claims.blockDocs l i - 1) * Claims.chunkField l (36 + 16 * i) 1 + j * w) % 2 ^ w + 1

/-- A chunk fails check y of R285. -/
def Claims.chunkFails (l : List Byte) (y : Nat) : Prop :=
  let at' := Claims.chunkField l
  let nb := at' 4 2
  let len := at' 12 4
  let off (i : Nat) := at' (38 + 16 * i) 2
  let size := Claims.blockSize l
  let bound (i : Nat) : XVal := Claims.wid (at' (40 + 16 * i) 4)
  match y with
  | 1 => at' 0 4 ≠ 0x534C4F45
  | 2 => ¬ (1 ≤ nb ∧ nb ≤ 16 ∧ 1 ≤ at' 6 2 ∧ at' 6 2 ≤ 128)
  | 3 => ¬ (32 + 16 * nb ≤ len ∧ len ≤ 16384 ∧ len % 8 = 0)
  | 4 => at' 8 4 ≠ 0 ∨ at' 24 8 ≠ 0 ∨ 2 ≤ at' 20 4
  | 5 => at' 20 4 % 2 = 1 ∧ at' 16 4 ≠ (Claims.crc ((l.drop 32).take (len - 32))).toNat
  | 6 => (∃ i < nb, ¬ (at' (36 + 16 * i) 1 ≤ 32 ∧ at' (37 + 16 * i) 1 ≤ 16 ∧ off i % 8 = 0 ∧ at' (44 + 16 * i) 4 = 0
          ∧ (bound i).isNan = false ∧ 0 ≤ XVal.cmp (bound i) (.fin 0 0)
          ∧ (0 < size i → 32 + 16 * nb ≤ off i ∧ off i + size i ≤ len)))
      ∨ (∃ i < nb, ∃ j < i, 0 < size i ∧ 0 < size j ∧ off i < off j + size j ∧ off j < off i + size i)
  | 7 => ∃ i, i + 1 < nb ∧ at' (32 + 16 * (i + 1)) 4 ≤ Claims.document l i (Claims.blockDocs l i - 1)
  | 8 => ∃ i < nb, Claims.payload l i / 2 ^ ((Claims.blockDocs l i - 1) * at' (36 + 16 * i) 1
          + Claims.blockDocs l i * at' (37 + 16 * i) 1) ≠ 0
  | 9 => ∃ i < nb, ∃ j < Claims.blockDocs l i, 0xFFFFFFFF ≤ Claims.document l i j
  | _ => False

/-- y is the first check of those from lo to hi that the chunk fails (R285). -/
def Claims.firstFailing (l : List Byte) (lo hi y : Nat) : Prop :=
  lo ≤ y ∧ y ≤ hi ∧ Claims.chunkFails l y ∧ ∀ z, lo ≤ z → z < y → ¬ Claims.chunkFails l z

/-- R281, R285: a chunk is read at the offset that its table entry gives, its header of 32 bytes first, then as many bytes
as LEN says, and the first check that it fails gives FWHY. R283, R284, R291: of a chunk the entries are its documents with
their frequencies as f32, 128 positions a block, the rest empty; with PRUNE a block whose bound lies below THR is empty, and
a NaN threshold prunes nothing. -/
def Claims.chunks : Prop :=
  ∀ (s t u v : State) (earlier : List Cmd) (c : SloeCmd) (ci : Nat) (off : Word) (hd tl : List Byte),
    let a := c.ga + BitVec.ofNat 64 (off.toNat % 2 ^ 32)
    let l := hd ++ tl
    (load s earlier c.pl .xread 0 (c.ga + BitVec.ofNat 64 (4 * ci)) 4 = .ok (off, t) → sloeWords earlier c.pl a 4 t = .ok (hd, u) →
      (∀ y, Claims.firstFailing hd 1 4 y → readChunk s earlier c ci = .ok (.why (BitVec.ofNat 4 y), u))
      ∧ ((∀ y, ¬ Claims.firstFailing hd 1 4 y) →
          sloeWords earlier c.pl (a + 32) ((Claims.chunkField hd 12 4 - 32) / 8) u = .ok (tl, v) →
          (∀ y, Claims.firstFailing l 5 9 y → readChunk s earlier c ci = .ok (.why (BitVec.ofNat 4 y), v))
          ∧ ((∀ y, ¬ Claims.firstFailing l 5 9 y) → readChunk s earlier c ci = .ok (.bytes (ofBytes l), v))))
    ∧ (∀ m, load s earlier c.pl .xread 0 (c.ga + BitVec.ofNat 64 (4 * ci)) 4 = .error (.fault m) →
        readChunk s earlier c ci = .error (s, .fault m))
    ∧ (∀ n va, ∀ w : Word, load s earlier c.pl .xread 0 va 8 = .ok (w, t) → ∀ r, sloeWords earlier c.pl (va + 8) n t = .ok (r, u) →
        sloeWords earlier c.pl va (n + 1) s = .ok (toBytes 8 w.toNat ++ r, u))
    ∧ ∀ (prune : Bool) (thr i j : Nat), i < Claims.chunkField l 4 2 → Claims.chunkField l 4 2 ≤ 16 → j < 128 →
        1 ≤ Claims.chunkField l 6 2 → Claims.chunkField l 6 2 ≤ 128 →
        let bound : XVal := Claims.wid (Claims.chunkField l (40 + 16 * i) 4)
        let gone := prune = true ∧ bound.isNan = false ∧ (Claims.wid thr).isNan = false ∧ XVal.cmp bound (Claims.wid thr) < 0
        let w := (chunkEntries (ofBytes l) prune thr).getD (128 * i + j) 0
        (gone ∨ Claims.blockDocs l i ≤ j → w = 0xFFFFFFFF)
        ∧ (¬ gone → j < Claims.blockDocs l i → (w.extractLsb' 0 32).toNat = Claims.document l i j % 2 ^ 32
            ∧ (w.extractLsb' 32 32).toNat = Claims.rnd (.fin (Claims.frequency l i j) 0))
        ∧ ∀ k, 128 * Claims.chunkField l 4 2 ≤ k → k < 2048 → (chunkEntries (ofBytes l) prune thr)[k]? = some 0xFFFFFFFF

/-- R281 to R292, R297 to R299: the engine. A command starts where its port holds no failure; a chunk that passes its check
puts 2048 entries with rising identifiers into its slot, one that fails puts empty entries and makes the command fail
with cause 0x72; a batch goes on until the command has all its entries, and a command that is to stop fails with cause
0x74. At the heads of two lists pl.isect emits only where they agree, and pl.unite the lesser. -/
def Claims.sloeEngine : Prop :=
  ∀ (s : State) (c : SloeCmd) (l r : List Cmd) (t : State) (h : Nat) (y : BitVec 4) (ha hb : Head),
    let f := s.focus s.ev.c
    let bad := xState (f.xstat c.port) = stError ∨ xState (f.xstat c.port) = stOverfill
    let i := s.ev.chunk.toNat
    let slot := scratchBase f.core.id.toNat + c.base.toNat + 16384 * i
    let failed (u : State) (cause : BitVec 8) (e : Nat) : Prop := xState (u.xstat c.port) = stError ∧ xFelem (u.xstat c.port) = e % 65536
      ∧ (u.xfault c.port).extractLsb' 56 8 = cause ∧ u.core.cmds = l ++ r ∧ (c.seq, c.port) ∈ u.core.sloe.failed
      ∧ u.core.sloe.plstat.getLsbD 63 = true ∧ u.core.g = f.core.g
    f.core.cmds = l ++ .sloe c :: r → (∀ x ∈ l, x.port ≠ c.port) → c.port = s.ev.p →
      (c.active = false → c.removed = false → ¬ bad → (f.xstat c.port).getLsbD 51 = false →
        ∃ u, exec .sloeCommandStart s = .next u ∧ u.core.cmds = l ++ .sloe { c with active := true } :: r
          ∧ xState (u.xstat c.port) = stActive ∧ xExp (u.xstat c.port) = c.exp.toNat ∧ xCnt (u.xstat c.port) = 0
          ∧ u = { f with core := { f.core with port := u.core.port, cmds := u.core.cmds, sloe := { f.core.sloe with
              failed := f.core.sloe.failed.filter (fun x => x.2 != c.port) } } })
      ∧ (c.removed = true → (¬ bad → ∃ u, exec .sloeCommandStart s = .next u ∧ failed u 0x74 0 ∧ u.mem = f.mem)
          ∧ (bad → ∃ u, exec .sloeCommandStart s = .next u ∧ u.core.cmds = l ++ r ∧ (c.seq, c.port) ∈ u.core.sloe.failed
              ∧ u.core.port = f.core.port ∧ u.mem = f.mem))
      ∧ (c.kind = .dec → c.active = true → c.stop = false → c.inLane i = true → f.memOk → c.base.toNat + 16384 * c.nc ≤ 2 ^ 21 → c.nc ≤ 16 →
        let more := c.chunks.length + 1 < c.nc
        t.dev.badBytes = [] → t.dev.quarantine = [] →
        (readChunk f l c (c.fc + i) = .ok (.bytes h, t) →
          let es := chunkEntries h (c.op.getLsbD 0) (c.prm1.extractLsb' 0 32).toNat
          es.length = 2048 ∧ (Claims.ids es).Pairwise (fun x y => x.toNat < y.toNat)
          ∧ ∃ u, exec .sloeChunkComplete s = .next u ∧ (∀ j < 2048, Memory.read u.mem (slot + 8 * j) 8 = toBytes 8 (es.getD j 0).toNat)
            ∧ sameBut f u slot 16384
            ∧ (more → ∃ c', u.core.cmds = l ++ .sloe c' :: r ∧ c'.chunks.length = c.chunks.length + 1)
            ∧ (¬ more → c.firstFailed = none → xState (u.xstat c.port) = stDone ∧ u.core.cmds = l ++ r))
        ∧ (readChunk f l c (c.fc + i) = .ok (.why y, t) →
          ∃ u, exec .sloeChunkComplete s = .next u ∧ (∀ j < 2048, Memory.read u.mem (slot + 8 * j) 8 = toBytes 8 0xFFFFFFFF)
            ∧ sameBut f u slot 16384 ∧ (¬ more → ∃ q e, failed u q e ∧ (c.firstFailed = none → q = 0x72 ∧ e = 2048 * i))))
      ∧ (c.active = true → c.stop = true → ∃ u,
          exec (if c.kind = .dec then .sloeChunkComplete else .sloeBatchComplete) s = .next u ∧ failed u 0x74 (xCnt (f.xstat c.port)))
      ∧ (c.kind ≠ .dec → c.active = true → c.stop = false →
        let b := runBatch l 64 f c
        let all := b.2.1.exp.toNat ≤ b.2.1.out
        (b.2.2 = none → ¬ all → ∃ u, exec .sloeBatchComplete s = .next u ∧ u.core.cmds = l ++ .sloe b.2.1 :: r)
        ∧ (b.2.2 = none → all → ∃ u, exec .sloeBatchComplete s = .next u ∧ u.core.cmds = l ++ r
            ∧ xState (u.xstat c.port) = stDone)
        ∧ (∀ q va lv x, b.2.2 = some (.fail q va lv x) → ∃ u, exec .sloeBatchComplete s = .next u ∧ failed u q b.2.1.out))
      ∧ (let m := comb (c.op.getLsbD 0) ha.val hb.val
         (c.kind = .isect → c.merge (some ha) (some hb) =
            (if ha.id = hb.id then some (ha.id, m.1, m.2) else none, decide (ha.id.toNat ≤ hb.id.toNat), decide (hb.id.toNat ≤ ha.id.toNat)))
         ∧ (c.kind = .unite → c.merge (some ha) (some hb) =
            (some (if ha.id = hb.id then (ha.id, m.1, m.2) else if ha.id.toNat < hb.id.toNat then (ha.id, ha.val, 0) else (hb.id, hb.val, 0)),
              decide (ha.id.toNat ≤ hb.id.toNat), decide (hb.id.toNat ≤ ha.id.toNat)))
         ∧ (c.kind = .isect → c.merge (some ha) none = (none, true, false) ∧ c.merge none (some hb) = (none, false, true))
         ∧ (c.kind = .unite → c.merge (some ha) none = (some (ha.id, ha.val, 0), true, false)
            ∧ c.merge none (some hb) = (some (hb.id, hb.val, 0), false, true)))

/-- R289, R290, R292: an entry of a list is read under R153, its command's own destination included; an identifier that is
not above the one before it in its list fails the command with 0x73, and an empty entry is skipped; an entry that is
written puts CNT one further. -/
def Claims.sloeSteps : Prop :=
  ∀ (s : State) (c : SloeCmd) (base : BitVec 22) (i : Nat) (w : Word) (fl : Flags) (last : BitVec 32),
    let off := base.toNat + 8 * i
    let pa := scratchBase s.core.id.toNat + off
    let x := wordOfBytes (Memory.read s.mem pa 8)
    let dst := scratchBase s.core.id.toNat + c.base.toNat + 8 * c.out
    (s.core.port.window off 8 false = .stall → readEntry s base i = .error (s, .wait))
    ∧ (∀ ch, s.core.port.window off 8 false = .failed ch → ∃ va lv y, readEntry s base i = .error (s, .fail 0x63 va lv y))
    ∧ (s.core.port.window off 8 false = .ok → s.dataFault .xread pa 8 = none →
        ∃ u, readEntry s base i = .ok (x, u) ∧ u = { s with dev := s.dev.withErrors u.dev }
          ∧ (x.extractLsb' 0 32 ≠ 0xFFFFFFFF#32 → (x.extractLsb' 0 32).toNat ≤ last.toNat → ∀ n,
              ∃ va lv y, nextHead (fun i s => readEntry s base i) (some last) (n + 1) i s = .error (u, .fail 0x73 va lv y))
          ∧ (x.extractLsb' 0 32 ≠ 0xFFFFFFFF#32 → last.toNat < (x.extractLsb' 0 32).toNat → ∀ n,
              nextHead (fun i s => readEntry s base i) (some last) (n + 1) i s =
                .ok (some ⟨i, x.extractLsb' 0 32, (x.extractLsb' 32 32).toNat⟩, u))
          ∧ (x.extractLsb' 0 32 = 0xFFFFFFFF#32 → ∀ n, nextHead (fun i s => readEntry s base i) (some last) (n + 1) i s =
                nextHead (fun i s => readEntry s base i) (some last) n (i + 1) u))
    ∧ (s.memOk → s.dev.badBytes = [] → s.dev.quarantine = [] → ∃ u d, s.emit c w fl = .ok (u, d)
        ∧ d = { c with out := c.out + 1, entries := c.entries ++ [w] } ∧ Memory.read u.mem dst 8 = toBytes 8 w.toNat ∧ sameBut s u dst 8
        ∧ xCnt (u.xstat c.port) = (c.out + 1) % 2 ^ 16)

/-- R293 to R295: the scores of pl.bm25 and pl.fuse, one rounding a step, and the ranking of pl.topk: a higher value first, a
NaN last, equal values by ascending identifier. That two equal values of one identifier stand in the order of their
encodings is the model's choice (log 113). -/
def Claims.scores : Prop :=
  ∀ (c : SloeCmd) (dl a b : Nat) (q x y : Word),
    let prm (w : Word) (lo : Nat) : XVal := Claims.wid (w.extractLsb' lo 32).toNat
    let t := Claims.rnd ((Claims.wid a).add (Claims.wid (Claims.rnd ((prm c.prm0 0).add ((prm c.prm1 32).mul (.fin dl 0))))))
    let n := Claims.rnd ((Claims.wid a).mul (prm c.prm0 32))
    let key (w : Word) : XVal := prm w 32
    let id (w : Word) : Nat := (w.extractLsb' 0 32).toNat
    (bm25Val c dl a).1 = Claims.rnd ((Claims.wid (Claims.rnd ((Claims.wid n).div (Claims.wid t)))).mul (prm c.gb 0))
    ∧ (fuseVal q a b).1 = Claims.rnd ((Claims.wid (Claims.rnd ((prm q 32).mul (Claims.wid a)))).add ((prm q 0).mul (Claims.wid b)))
    ∧ ((key x).isNan = false → (key y).isNan = true → ranksBefore x y = true ∧ ranksBefore y x = false)
    ∧ ((key x).isNan = false → (key y).isNan = false → XVal.cmp (key x) (key y) ≠ 0 →
        (ranksBefore x y = true ↔ 0 < XVal.cmp (key x) (key y)))
    ∧ ((key x).isNan = (key y).isNan → ((key x).isNan = false → XVal.cmp (key x) (key y) = 0) →
        (id x ≠ id y → (ranksBefore x y = true ↔ id x < id y))
        ∧ (id x = id y → (ranksBefore x y = true ↔ (x.extractLsb' 32 32).toNat < (y.extractLsb' 32 32).toNat)))

/-- R281 to R299: the posting-list engine, its forms, its control and its steps. -/
def Obligations.PostingLists : Prop :=
  Claims.sloeForms ∧ Claims.sloeControl ∧ Claims.chunks ∧ Claims.sloeEngine ∧ Claims.sloeSteps ∧ Claims.scores

/-! ## Reserving loops -/

/-- The signature of an item holds the hash of every granule that it claims (R307). -/
def Claims.signed (x : RsvItem) : Prop :=
  ∀ a : Word, a.extractLsb' 5 51 ∈ x.granules →
    x.sig.getLsbD (rsvHash a).1 = true ∧ x.sig.getLsbD (rsvHash a).2.1 = true ∧ x.sig.getLsbD (rsvHash a).2.2 = true

/-- R307, R309, R310, R315: a wave goes through the items in their order and admits each live one whose signature has no bit
in common with that of a live item before it, admitted or not; so it admits no two items that claim one granule, and where
some item is live it admits one. It counts the live items, and itself where it admits one. A claim keeps the signature. -/
def Claims.waves : Prop :=
  ∀ (x : Session) (y : RsvItem) (a : Word),
    (Claims.signed y → Claims.signed (y.claim a) ∧ a.extractLsb' 5 51 ∈ (y.claim a).granules)
    ∧ ((∀ i ∈ x.items, Claims.signed i) →
        x.form.items.Pairwise (fun p q => p.admitted = true → q.admitted = true → ∀ g ∈ p.granules, g ∉ q.granules))
    ∧ ((∃ i ∈ x.items, i.live = true) → ∃ i ∈ x.form.items, i.live = true ∧ i.admitted = true)
    ∧ (∀ i ∈ x.form.items, i.admitted = true → i.live = true)
    ∧ (∀ p i r, x.items = p ++ i :: r → x.form.items[p.length]? = some { i with admitted := decide (i.live = true ∧
          ∀ j ∈ p, j.live = true → j.sig &&& i.sig = 0) })
    ∧ x.form.items.length = x.items.length ∧ x.form.ni = x.ni ∧ x.form.waved = true
    ∧ x.form.liveAt = x.items.countP (fun i => i.live)
    ∧ x.form.waves = x.waves + (if x.items.any (fun i => i.live) = true then 1 else 0)

/-- R312 to R316: the forms for a gang of one, which meets itself at once. rsv.open opens a session of the core's items,
live as k says; rsv.claim posts the claims of active elements; rsv.wave forms a wave, with what it admits in k[d];
rsv.retire takes admitted items out of it; rsv.close frees the session. -/
def Claims.reservingForms : Prop :=
  ∀ (s : State) (d k sh : BitVec 3) (a b v : BitVec 5),
    let ni := (s.g a).toNat
    let first := (s.g b).toNat
    let n := s.core.vec.n
    let w := s.core.rsvstat
    let cl := s.clAt (clusterOf s.core.id)
    let fresh := s.share.rdone = [] ∧ s.share.rendez = [] ∧ s.gangSize = 1
    ends (.rsvStat a) s (s.setG a w)
    ∧ (s.session = none → traps (.rsvClaim sh a b k) s { cause := 0x77 } ∧ traps (.rsvRetire k) s { cause := 0x77 }
        ∧ (fresh → traps (.rsvWave d) s { cause := 0x77 } ∧ traps .rsvClose s { cause := 0x77 }))
    ∧ (fresh → s.session ≠ none → traps (.rsvOpen a b k) s { cause := 0x77 })
    ∧ (fresh → s.session = none → ni = 0 ∨ 2048 < ni ∨ ni < first + n → traps (.rsvOpen a b k) s { cause := 0x76 })
    ∧ (fresh → s.session = none → 1 ≤ ni → ni ≤ 2048 → first + n ≤ ni → cl.quince.length < 4 →
        (cl.quince.map (fun q => q.ni)).sum + ni ≤ 2048 →
        ∃ u x, ends (.rsvOpen a b k) s u ∧ u.session = some x ∧ x.ni = ni ∧ x.waved = false
          ∧ x.items.map (fun i => (i.idx, i.live)) = (List.range n).map (fun e => (first + e, (s.kreg k).getLsbD e))
          ∧ (∀ i ∈ x.items, i.granules = [] ∧ i.count = 0) ∧ u.core.rsvNloc = n ∧ u.core.rsvFirst = first
          ∧ u.core.rsvstat = 1#1 ++ (0#3 ++ (BitVec.ofNat 12 ni ++ (BitVec.ofNat 12 (x.items.countP (fun i => i.live))
              ++ (0#12 ++ (BitVec.ofNat 12 first ++ BitVec.ofNat 12 n))))) ∧ x.waves = 0 ∧ u.core.g = s.core.g ∧ u.mem = s.mem)
    ∧ (∀ x, s.session = some x → x.waved = false → (∀ e < n, s.act k e = true → e < s.core.rsvNloc) →
        (s.vop v).tag.isInt = true → Claims.fits s v →
        let at' (e : Nat) : Word := s.g b + BitVec.ofInt 64 (Claims.elemInt (s.vop v).tag (s.vbits (s.vop v) e) * 2 ^ sh.toNat)
        (∀ i ∈ x.items, i.live = true → i.count < 16) → (x.items.map (fun i => i.idx)).Pairwise (fun p q => p < q) →
          ∃ u z, ends (.rsvClaim sh v b k) s u ∧ u.session = some z ∧ z.items.map (fun i => i.idx) = x.items.map (fun i => i.idx)
            ∧ (∀ e < n, s.act k e = true → ∀ i ∈ z.items, i.idx = s.core.rsvFirst + e → i.live = true → (at' e).extractLsb' 5 51 ∈ i.granules)
            ∧ u.core.g = s.core.g ∧ u.mem = s.mem ∧ u.core.rsvstat = w)
    ∧ (∀ x, fresh → s.session = some x →
        ∃ u, ends (.rsvWave d) s u ∧ u.session = some x.form
          ∧ (d ≠ 0 → ∀ e < n, (u.kreg d).getLsbD e = (decide (e < s.core.rsvNloc) &&
              x.form.items.any (fun i => i.idx == s.core.rsvFirst + e && i.admitted)))
          ∧ (∀ j, j ≠ d → u.kreg j = s.kreg j) ∧ (u.core.rsvstat.extractLsb' 24 12).toNat = x.form.waves % 4096
          ∧ (u.core.rsvstat.extractLsb' 36 12).toNat = x.form.liveAt % 4096 ∧ u.core.g = s.core.g ∧ u.mem = s.mem)
    ∧ (∀ x, s.session = some x → s.core.cmds = [] →
        ∃ u, ends (.rsvRetire k) s u ∧ u.session = some { x with items := x.items.map (fun i =>
            if s.core.rsvFirst ≤ i.idx ∧ i.idx < s.core.rsvFirst + s.core.rsvNloc ∧ s.act k (i.idx - s.core.rsvFirst) = true ∧ i.admitted = true
            then { i with live := false } else i) }
          ∧ u.core.g = s.core.g ∧ u.mem = s.mem ∧ u.core.rsvstat = w)
    ∧ (fresh → s.session ≠ none → ∃ u, ends .rsvClose s u ∧ u.session = none ∧ u.core.rsvstat.getLsbD 63 = false
        ∧ (∀ i < 63, u.core.rsvstat.getLsbD i = w.getLsbD i) ∧ u.core.g = s.core.g ∧ u.mem = s.mem)

/-- R312, R313: in a larger gang a form arrives and stands; once every member has arrived with one form, the meeting takes
effect and every member may go on; forms that differ give every member cause 0x76. -/
def Claims.rendezvous : Prop :=
  ∀ (s : State) (d k : BitVec 3) (a b : BitVec 5),
    let f := s.focus s.ev.c
    let l := f.share.rendez
    let all := f.gangSize ≤ l.length
    (s.gangSize ≠ 1 → s.share.rdone.find? (fun v => v.rank == s.core.rank) = none →
      s.share.rendez.any (fun y => y.rank == s.core.rank) = false →
        let arrives (i : Instr) (x : RsvArrival) : Prop :=
          exec i s = .next ((s.onShare (fun h => { h with rendez := h.rendez ++ [x] })).stand .rendezvous)
        (s.session ≠ none → arrives (.rsvWave d) ⟨s.core.rank, .wave, 0, 0, 0, 0⟩ ∧ arrives .rsvClose ⟨s.core.rank, .close, 0, 0, 0, 0⟩)
        ∧ (s.session = none → 1 ≤ (s.g a).toNat → (s.g a).toNat ≤ 2048 → (s.g b).toNat + s.core.vec.n ≤ (s.g a).toNat →
            arrives (.rsvOpen a b k) ⟨s.core.rank, .openS, (s.g a).toNat, (s.g b).toNat, s.core.vec.n, s.kreg k⟩))
    ∧ (all → l ≠ [] → (∃ x ∈ l, ∃ y ∈ l, x.form ≠ y.form) → ∃ u, exec .rsvRendezvous s = .next u ∧ u.share.rendez = []
        ∧ (∀ x ∈ l, u.share.rdone.contains ⟨x.rank, some 0x76, none⟩ = true) ∧ u.clusters = f.clusters)
    ∧ (all → l ≠ [] → (∀ x ∈ l, x.form = .wave) → ∃ u, exec .rsvRendezvous s = .next u ∧ u.share.rendez = []
        ∧ (∀ x ∈ l, u.share.rdone.contains ⟨x.rank, none, none⟩ = true) ∧ u.session = f.session.map Session.form)
    ∧ (∀ x, s.session = some x → s.share.rdone.find? (fun v => v.rank == s.core.rank) = some ⟨s.core.rank, none, none⟩ →
        ∃ u, ends (.rsvWave d) s u ∧ u.session = some x ∧ (d ≠ 0 → ∀ e < s.core.vec.n, (u.kreg d).getLsbD e =
          (decide (e < s.core.rsvNloc) && x.items.any (fun i => i.idx == s.core.rsvFirst + e && i.admitted))))

/-- R306 to R316: reserving loops. -/
def Obligations.ReservingLoops : Prop := Claims.waves ∧ Claims.reservingForms ∧ Claims.rendezvous

/-! ## Atomics, barriers, fences and deterministic steps -/

/-- The atomics with g operands: form, bytes, what a DT page holds, and the new word from old word, operand and old g[d]
(R329). -/
def Claims.atomics (d a b : BitVec 5) : List (Instr × Nat × Option UpdOp × (Word → Word → Word → Word × Flags)) :=
  let f (w : Word) : XVal := Tag.f32.widen 0 (w.toNat % 2 ^ 32)
  [ (.amoAdd d a b, 8, some .add, fun m x _ => (BitVec.ofNat 64 (m.toNat + x.toNat), 0)),
    (.amoMin d a b, 8, some .min, fun m x _ => (BitVec.ofInt 64 (min m.toInt x.toInt), 0)),
    (.amoMax d a b, 8, some .max, fun m x _ => (BitVec.ofInt 64 (max m.toInt x.toInt), 0)),
    (.amoAnd d a b, 8, some .and, fun m x _ => (m &&& x, 0)), (.amoOr d a b, 8, some .or, fun m x _ => (m ||| x, 0)),
    (.amoXor d a b, 8, some .xor, fun m x _ => (m ^^^ x, 0)), (.amoSwap d a b, 8, none, fun _ x _ => (x, 0)),
    (.amoCas d a b, 8, none, fun m x c => (if m = c then x else m, 0)),
    (.amoFadd d a b, 4, some .fadd, fun m x _ =>
      let r := Tag.f32.roundRne 0 ((f m).add (f x))
      (BitVec.ofNat 64 r.1, r.2)) ]

/-- R329, R330, R339: an atomic whose access goes through gives the old word to g[d]. In plain memory the new word stands
there, and only amo.fadd sets flags; on a page with DT = 1 memory is unchanged, the update is held, and amo.swap and
amo.cas take cause 0xA3. Beside that only the translation caches and the device's records of errors change. -/
def Claims.atomicForms : Prop :=
  ∀ (s : State) (d a b : BitVec 5) (x : Xl), ∀ f ∈ Claims.atomics d a b,
    let va := s.g a
    let n := f.2.1
    (s.core.vp.live = false → reach s s.core.cmds s.pl .atomic va n = .ok x →
      let m := wordOfBytes (s.readAt x .atomic 0 va n)
      let r := f.2.2.2 m (s.g b) (s.g d)
      (x.plain = true → s.memOk → ∃ u, ends f.1 s (u.setG d m) ∧ m = wordOfBytes (Memory.read s.mem x.pa n)
        ∧ (∀ i < n, u.byteAt (x.pa + i) = r.1.extractLsb' (8 * i) 8) ∧ sameBut s u x.pa n
        ∧ u.core.vec.vstat = (if s.core.fw then s.core.vec.vstat else s.core.vec.vstat ||| r.2.setWidth 64)
        ∧ u = { s with mem := u.mem, dev := s.dev.withErrors u.dev, clusters := withCaches s.clusters u.clusters,
                       core := { s.core with tlb := u.core.tlb, vec := { s.core.vec with vstat := u.core.vec.vstat } } })
      ∧ (x.dt = true → f.2.2.1 = none → traps f.1 s ((⟨0xA3, va, 5, 0xF, none, x.walked va⟩ : MemFault).trap 0))
      ∧ (x.dt = true → ∀ o, f.2.2.1 = some o → ∃ (u : State) (h : StepUpd), ends f.1 s (u.setG d m) ∧ u.mem = s.mem ∧ u.core.g = s.core.g ∧ u.core.sys = s.core.sys
        ∧ u.core.vec = s.core.vec ∧ (u.ctxAt s.ctxIx).stepUpds = (s.ctxAt s.ctxIx).stepUpds ++ [h] ∧ h.pa = x.pa ∧ h.op = o ∧ h.size = n
        ∧ h.val = ((s.g b).toNat : Int) ∧ h.elem = 0 ∧ h.seq = s.core.seq ∧ h.lcore = s.core.detid.extractLsb' 0 16))

/-- R331: an atomic in a VP block takes its addresses, operands and results in vector registers, v[a] of tag i64 or n64,
v[b] and v[d] of these or, for amo.fadd, f32; other tags take cause 0x42. The VPs of the group perform theirs in ascending
order: each element of v[d] receives the word as the VPs before it have left it, and in plain memory the word stands at
the end as the last VP that names it has left it; no other byte changes. On a page with DT = 1 memory is unchanged, each
element receives the word of memory, and the updates are held in that order. Nothing else changes but VSTAT, PIX.V and the
device's records of errors. -/
def Claims.atomicsOfVps : Prop :=
  ∀ (s : State) (d a b : BitVec 5) (x : Nat → Xl), ∀ f ∈ Claims.atomics d a b, s.core.vp.live = true →
    let n := f.2.1
    let o := s.vop d
    let long (t : Tag) : Prop := t = .i64 ∨ t = .n64
    let fine (t : Tag) : Prop := if n = 4 then t = .f32 else long t
    let tags := long (s.vop a).tag ∧ fine (s.vop b).tag ∧ fine o.tag
    let w (r : BitVec 5) (e : Nat) : Word := BitVec.ofNat 64 (s.vbits (s.vop r) e)
    let on (e : Nat) : Prop := s.inPlay e = true ∧ 16 * s.startGroup clsV d ≤ e
    let mem (e : Nat) : Word := wordOfBytes (Memory.read s.mem (x e).pa n)
    let regs (u : State) (m : Nat → Word) : Prop :=
      (∀ e < o.cap, on e → u.vbits o e = (m e).toNat % 2 ^ o.tag.width) ∧ (∀ e < o.cap, ¬ on e → u.vbits o e = s.vbits o e)
      ∧ (∀ j < 32, j < o.base ∨ o.base + o.regs ≤ j → u.physReg j = s.physReg j)
      ∧ (∀ j < 32, u.physReg j = { s.physReg j with data := (u.physReg j).data })
    (¬ tags → traps f.1 s { cause := 0x42 })
    ∧ (tags → Claims.fits s d → Claims.fits s a → Claims.fits s b → s.core.cmds = [] →
      (∀ e, on e → Claims.reaches s .atomic (w a e) n (x e)) →
      ((∀ e, on e → (x e).plain = true) → s.memOk →
        (∀ e q, on e → on q → (x e).pa ≠ (x q).pa → (x e).pa + n ≤ (x q).pa ∨ (x q).pa + n ≤ (x e).pa) →
        ∃ (u : State) (m : Nat → Word), ends f.1 s u ∧ regs u m
          ∧ (let new (e : Nat) : Word × Flags := f.2.2.2 (m e) (w b e) (w d e)
             (∀ e, on e → (∀ q < e, on q → (x q).pa ≠ (x e).pa) → m e = mem e)
             ∧ (∀ e q, on e → on q → q < e → (x q).pa = (x e).pa → (∀ p, q < p → p < e → on p → (x p).pa ≠ (x e).pa) →
                  m e = wordOfBytes (toBytes n (new q).1.toNat))
             ∧ (∀ e, on e → (∀ q > e, on q → (x q).pa ≠ (x e).pa) → ∀ i < n, u.byteAt ((x e).pa + i) = (new e).1.extractLsb' (8 * i) 8)
             ∧ (∀ p, (∀ e, on e → ¬ ((x e).pa ≤ p ∧ p < (x e).pa + n)) → u.byteAt p = s.byteAt p)
             ∧ (∀ i < 64, u.core.vec.vstat.getLsbD i = (s.core.vec.vstat.getLsbD i || (!s.core.fw
                  && (List.range s.core.vec.n).any (fun e => s.inPlay e && decide (16 * s.startGroup clsV d ≤ e) && (new e).2.getLsbD i)))))
          ∧ u.core.vec.pix = (s.core.vec.pix &&& ~~~ 0x80000000)
          ∧ u = { s with mem := u.mem, dev := s.dev.withErrors u.dev, core := { s.core with vec := { s.core.vec with
              v := u.core.vec.v, vstat := u.core.vec.vstat, pix := u.core.vec.pix } } })
      ∧ (∀ k, f.2.2.1 = some k → (∀ e, on e → (x e).dt = true ∧ regionOf (x e).pa ≠ .control ∧ regionOf (x e).pa ≠ .checkpoint) →
        ∃ u : State, ends f.1 s u ∧ regs u mem ∧ u.mem = s.mem ∧ u.core.vec.vstat = s.core.vec.vstat
          ∧ (u.ctxAt s.ctxIx).stepUpds.map (fun h => (h.lcore, h.seq, h.elem, h.pa, h.op, h.size, h.val)) =
              (s.ctxAt s.ctxIx).stepUpds.map (fun h => (h.lcore, h.seq, h.elem, h.pa, h.op, h.size, h.val))
                ++ ((List.range s.core.vec.n).filter (fun e => s.inPlay e && decide (16 * s.startGroup clsV d ≤ e))).map (fun e =>
                  (s.core.detid.extractLsb' 0 16, s.core.seq, e, (x e).pa, k, n, ((w b e).toNat : Int)))))

/-- R336: claim.el of a counter record in plain memory gives NEXT to g[d] and VL.N the elements claimed: no more than
asked, than MVL, and than LIMIT leaves. NEXT alone is written. A record of a DT page takes cause 0xA3. -/
def Claims.claimElements : Prop :=
  ∀ (s : State) (d a b : BitVec 5) (x y : Xl),
    let va := s.g a
    let next := wordOfBytes (Memory.read s.mem x.pa 8)
    let lim := wordOfBytes (Memory.read s.mem y.pa 8)
    let mvl := if s.core.fw then 1024 else mvl32Of s.core.vec.vprof * 32 / widthOfCode s.core.vec.w
    let n := min (s.g b).toNat (min mvl (lim.toNat - next.toNat))
    (canonical va = true → va.toNat % 16 ≠ 0 → traps (.claimEl d a b) s ((⟨0x2A, va, 5, 0xF, none, none⟩ : MemFault).trap 0))
    ∧ (va.toNat % 16 = 0 → reach s s.core.cmds s.pl .atomic va 8 = .ok x → reach s s.core.cmds s.pl .atomic (va + 8) 8 = .ok y →
      (x.dt = true → traps (.claimEl d a b) s ((⟨0xA3, va, 5, 0xF, none, x.walked va⟩ : MemFault).trap 0))
      ∧ (x.plain = true → y.plain = true → s.memOk → ∃ u, ends (.claimEl d a b) s u ∧ u.g d = (if d = 0 then 0 else next)
        ∧ wordOfBytes (Memory.read u.mem x.pa 8) = next + BitVec.ofNat 64 n ∧ sameBut s u x.pa 8
        ∧ (∀ r, r ≠ d → u.g r = s.g r)
        ∧ (s.core.fw = true → u.core.vec = s.core.vec)
        ∧ (s.core.fw = false → u.core.vec.n = n ∧ u.core.vec.w = s.core.vec.w ∧ u.core.vec = { s.core.vec with vl := u.core.vec.vl })
        ∧ u.core.sys = s.core.sys ∧ u.ctxs = s.ctxs))

/-- R329 to R331, R336, R339: the atomics and claim.el. That amo.fadd sets no flags on the firmware core, which has no
VSTAT, is the model's choice (log 75), and so is what claim.el takes for MVL there (log 39). -/
def Obligations.AtomicsAndClaims : Prop := Claims.atomicForms ∧ Claims.atomicsOfVps ∧ Claims.claimElements

/-- R334, R335: gang barriers. After COUNT arrivals the phase is one further and none has arrived; a form changes its
barrier and g[d] alone; gb.wait goes on where the phase has passed. -/
def Claims.barriers : Prop :=
  ∀ (s : State) (d a b : BitVec 5) (n : BitVec 4),
    let x := rget s.share.gb n
    let c := ((s.g a).extractLsb' 0 5).toNat
    let set (w : Word) : State := s.onShare (fun h => { h with gb := rset h.gb n w })
    let phase := (x.extractLsb' 32 32).toNat
    let COUNT := (x.extractLsb' 16 5).toNat
    let ARR := (x.extractLsb' 0 5).toNat
    (c = 0 ∨ 16 < c → traps (.gbInit n a) s { cause := 0xA6 })
    ∧ (1 ≤ c → c ≤ 16 → ARR ≠ 0 → traps (.gbInit n a) s { cause := 0xA5 })
    ∧ (1 ≤ c → c ≤ 16 → ARR = 0 → ends (.gbInit n a) s (set (BitVec.ofNat 64 (phase * 2 ^ 32 + c * 2 ^ 16))))
    ∧ (COUNT = 0 → traps (.gbArr d n) s { cause := 0xA5 })
    ∧ (COUNT ≠ 0 → s.core.cmds = [] → ends (.gbArr d n) s ((set (if COUNT ≤ ARR + 1
        then BitVec.ofNat 64 ((phase + 1) % 2 ^ 32 * 2 ^ 32 + COUNT * 2 ^ 16) else BitVec.ofNat 64 (phase * 2 ^ 32 + COUNT * 2 ^ 16 + ARR + 1))).setG d
          (BitVec.ofNat 64 phase)))
    ∧ (let k := ((phase : Int) - ((s.g b).toNat % 2 ^ 32 : Nat)) % 2 ^ 32
       (1 ≤ k ∧ k ≤ 2 ^ 31 → s.core.cmds = [] → ends (.gbWait n b) s s) ∧ (¬ (1 ≤ k ∧ k ≤ 2 ^ 31) → stands (.gbWait n b) s .gbWait))
    ∧ (∀ y : Word, gbCount y ≠ 0 → gbArrived y = 0 →
        (∀ k < gbCount y, gbArrived (Nat.repeat gbArrive k y) = k ∧ gbPhase (Nat.repeat gbArrive k y) = gbPhase y ∧ gbCount (Nat.repeat gbArrive k y) = gbCount y)
        ∧ gbArrived (Nat.repeat gbArrive (gbCount y) y) = 0 ∧ gbPhase (Nat.repeat gbArrive (gbCount y) y) = gbPhase y + 1)

/-- R326, R327: fences. A fence at scope 0, or with no earlier command whose accesses it orders, completes with no effect
on the state; an acquire stands while such a command may still read memory, a release while one may still write it, and a
release traps as xs.wait would where one is held behind a failed port. That only the accesses of commands are ever waited
for rests on log 7 (one memory image), and what an acquire waits for on log 88. -/
def Claims.fences : Prop :=
  ∀ (s : State) (b : BitVec 3),
    let bad (p : BitVec 4) : Bool := xState (s.xstat p) == stOverfill || xState (s.xstat p) == stError
    let stuck (c : Cmd) : Bool := !c.active && bad c.port
    let reads : Cmd → Bool
      | .stream c => c.kind != .st || (match c.near with
          | .region _ => true
          | _ => false)
      | .sloe c => c.kind == .dec || c.kind == .bm25
    let readers := s.core.cmds.filter (fun c => reads c && !stuck c)
    let writers := s.core.cmds.filter (Cmd.writesAt b.toNat)
    let held := writers.find? stuck
    (b = 0 ∨ readers = [] → ends (.fenceAcq b) s s)
    ∧ (b ≠ 0 → readers ≠ [] → stands (.fenceAcq b) s .fence)
    ∧ (b = 0 ∨ writers = [] → ends (.fenceRel b) s s)
    ∧ (b = 0 ∨ (writers = [] ∧ readers = []) → ends (.fenceAr b) s s)
    ∧ (b ≠ 0 → writers ≠ [] → held = none → stands (.fenceRel b) s .fence)
    ∧ (b ≠ 0 → writers ≠ [] ∨ readers ≠ [] → held = none → stands (.fenceAr b) s .fence)
    ∧ (∀ c, b ≠ 0 → held = some c →
        let t : Trap := { cause := (s.xfault c.port).extractLsb' 56 8, tval := ((s.xfault c.port).extractLsb' 0 56).setWidth 64, xlinfo := some (s.portInfo c.port) }
        traps (.fenceRel b) s t ∧ traps (.fenceAr b) s t)

/-- R341, R342: det.step arrives and stands, and goes on with STEP in g[d], or traps with the cause, once the step has
ended; the NP-th arrival ends the step at once. det.log reads DSTAT. A form issued again makes no second arrival: the
ends that await it stand by its pc (log 73). That det.log gives 0 on the firmware core is the model's choice (log 39). -/
def Claims.stepForms : Prop :=
  ∀ (s : State) (d : BitVec 5),
    let v := s.core.vec
    let ended : Option (Option (BitVec 8) × Option BadAccess) := (s.core.detDone.find? (fun x => x.1 == s.core.pc)).map (fun x => x.2)
    let out : State := { s with core := { s.core with detDone := s.core.detDone.eraseP (fun x => x.1 == s.core.pc) } }
    let p := s.ctxIx
    let np := ((s.ctxAt p).detcfg.extractLsb' 0 16).toNat
    let arrived : State := s.onCtx p (fun c => { c with arrivals := c.arrivals ++
      [⟨s.core.gang, s.core.rank, if s.core.gang.isNone then s.core.id else 0, s.core.pc, s.core.detid.extractLsb' 0 16⟩] })
    ends (.detLog d) s (s.setG d (if s.core.fw then 0 else s.core.dstat))
    ∧ (s.core.fw = true → traps (.detStep d) s { cause := 0xA1 })
    ∧ (∀ y, s.core.fw = false → ended = some (none, y) →
        ends (.detStep d) s ({ out with core := { out.core with vec := { v with det := v.vprof.getLsbD 4 } } }.setG d ((s.core.dstat.extractLsb' 32 32).setWidth 64)))
    ∧ (∀ c, s.core.fw = false → ended = some (some c, none) → exec (.detStep d) s = .next (out.enterTrap { cause := c }))
    ∧ (∀ c y, s.core.fw = false → ended = some (some c, some y) → exec (.detStep d) s = .next (out.enterTrap (Claims.memTrap c y)))
    ∧ (s.core.fw = false → ended = none → s.arrivedStep = true → stands (.detStep d) s .detStep)
    ∧ (s.core.fw = false → ended = none → s.arrivedStep = false →
        (v.det = false → v.vprof.getLsbD 4 = false → traps (.detStep d) s { cause := 0xA1 })
        ∧ (v.det = true ∨ v.vprof.getLsbD 4 = true →
          (s.session ≠ none → traps (.detStep d) s { cause := 0x77 })
          ∧ (s.session = none → np = 0 → traps (.detStep d) s { cause := 0xA2 })
          ∧ (s.session = none → np ≠ 0 → s.core.cmds = [] →
              ((s.ctxAt p).arrivals.length + 1 < np → exec (.detStep d) s = .next (arrived.stand .detStep))
              ∧ (np ≤ (s.ctxAt p).arrivals.length + 1 → exec (.detStep d) s = .next ((arrived.resolveStep p).stand .detStep)))))

/-- A write of a step as the log names it (R343): its 8-byte word, LCORE, SEQ and element, and whether it is an update. -/
abbrev Claims.WriteKey : Type := Nat × BitVec 16 × Nat × Nat × Bool

/-- The bytes that the writes of a step write, covered ones left out (R317, R340): the key of each, its physical address and
its place in the word. -/
def Claims.stepWrites (c : Context) : List (Claims.WriteKey × Nat × Nat) :=
  (c.stepBytes.filter (fun b => !b.covered)).map (fun b => ((b.va / 8, b.lcore, b.seq, b.elem, false), b.pa, b.va % 8))
  ++ c.stepUpds.flatMap (fun h => (List.range h.size).map (fun i =>
      ((h.va / 8, h.lcore, h.seq, h.elem, true), h.pa + i, h.va % 8 + i)))

/-- R340: two bytes of writes meet: one address, two logical cores, and not two updates. -/
def Claims.stepClash (x y : Claims.WriteKey × Nat × Nat) : Prop :=
  x.2.1 = y.2.1 ∧ x.1.2.1 ≠ y.1.2.1 ∧ ¬ (x.1.2.2.2.2 = true ∧ y.1.2.2.2.2 = true)

/-- R339: (LCORE, SEQ, element) in ascending order. -/
def Claims.keyBefore (x y : BitVec 16 × Nat × Nat) : Prop :=
  x.1.toNat < y.1.toNat ∨ (x.1 = y.1 ∧ (x.2.1 < y.2.1 ∨ (x.2.1 = y.2.1 ∧ x.2.2 < y.2.2)))

/-- R210, R329: the word m after a held update, and the flags of an atomic. -/
def Claims.updated (h : StepUpd) (m : Nat) : Nat × Flags :=
  let w : Word := BitVec.ofNat 64 m
  let v : Word := BitVec.ofInt 64 h.val
  let t := h.tag
  let x := t.widen h.frac.toNat m
  let y : XVal := if t.isFloat then t.widen h.frac.toNat h.val.toNat
    else .fin h.val (if t.isFx then -(h.frac.toNat : Int) else if t.isAng then -(t.width : Int) else 0)
  if h.atomic then
    match h.op with
    | .add => ((w + v).toNat, 0)
    | .min => ((BitVec.ofInt 64 (min w.toInt v.toInt)).toNat, 0)
    | .max => ((BitVec.ofInt 64 (max w.toInt v.toInt)).toNat, 0)
    | .and => ((w &&& v).toNat, 0)
    | .or => ((w ||| v).toNat, 0)
    | .xor => ((w ^^^ v).toNat, 0)
    | .fadd => Tag.f32.roundRne 0 ((Tag.f32.widen 0 (w.toNat % 2 ^ 32)).add (Tag.f32.widen 0 (v.toNat % 2 ^ 32)))
  else ((t.roundRne h.frac.toNat (match h.op with
    | .min => lesser x y
    | .max => greater x y
    | _ => x.add y)).1, 0)

/-- Memory and VSTAT of logical core lc after a held update. -/
def Claims.applied (lc : BitVec 16) (m : (Nat → Byte) × Flags) (h : StepUpd) : (Nat → Byte) × Flags :=
  let r := Claims.updated h (ofBytes ((List.range h.size).map (fun i => m.1 (h.pa + i))))
  (fun a => if h.pa ≤ a ∧ a < h.pa + h.size then (toBytes h.size r.1).getD (a - h.pa) 0 else m.1 a,
    if h.lcore = lc then m.2 ||| r.2 else m.2)

/-- R343: the conflict log. It holds one entry of two words for each write that takes part in a conflict, in ascending order
of its word and then of its key, as far as CAP reaches, at BASE and up, where the partition's translation places them; DSTAT
counts them all. Where the first entry cannot be placed none is written, and LFLT is set. -/
def Claims.conflictLog : Prop :=
  ∀ (s : State) (pa : Nat → Nat),
    let p := s.ev.ctx
    let c := s.ctxAt p
    let W := Claims.stepWrites c
    let one := ∀ a ∈ c.arrivals, ∀ b ∈ c.arrivals, a.lcore = b.lcore → a.key = b.key
    let base (i : Nat) : Word := (c.dlog.extractLsb' 4 52 ++ 0#4).signExtend 64 + BitVec.ofNat 64 (16 * i)
    let cap := (c.detcfg.extractLsb' 16 16).toNat
    let meets' (k : Claims.WriteKey) : Prop := ∃ x ∈ W, x.1 = k ∧ ∃ y ∈ W, Claims.stepClash x y
    let mine := s.core.fw = false ∧ s.inPart s.core.id p = true
    let u := s.resolveStep p
    let inside (n a : Nat) : Prop := ∃ i < n, pa i ≤ a ∧ a < pa i + 16
    let said (n : Nat) (lost : Bool) : Prop := mine → u.core.dstat.extractLsb' 32 32 = s.core.dstat.extractLsb' 32 32
      ∧ u.core.dstat.getLsbD 31 = decide (cap < n) ∧ u.core.dstat.getLsbD 30 = true ∧ u.core.dstat.getLsbD 29 = lost
      ∧ (u.core.dstat.extractLsb' 0 16).toNat = min n 0xFFFF
    one → (∃ x ∈ W, ∃ y ∈ W, Claims.stepClash x y) → s.memOk →
    (c.stepUpds.map (fun h => (h.va / 8, h.lcore, h.seq, h.elem))).Nodup →
    s.dev.softBytes = [] → s.dev.badBytes = [] → s.dev.quarantine = [] →
      ∃ K : List Claims.WriteKey, K.Nodup ∧ (∀ k, k ∈ K ↔ meets' k)
        ∧ K.Pairwise (fun x y => x.1 < y.1 ∨ (x.1 = y.1 ∧ ¬ Claims.keyBefore (y.2.1, y.2.2.1, y.2.2.2.1) (x.2.1, x.2.2.1, x.2.2.2.1)))
        ∧ ((∀ i < min K.length cap, (∀ m, ({ s with mem := m }).unitPlace p .swrite (base i) 16 = some (pa i)) ∧ inScratch (pa i) = false
              ∧ ∀ j < i, pa j + 16 ≤ pa i ∨ pa i + 16 ≤ pa j) →
            said K.length false
            ∧ (∀ i < min K.length cap, ∀ k, K[i]? = some k → ∃ mask : BitVec 8, (∀ j < 8, mask.getLsbD j = true ↔ ∃ x ∈ W, x.1 = k ∧ x.2.2 = j)
                ∧ Memory.read u.mem (pa i) 16 = toBytes 8 (BitVec.ofNat 56 (8 * k.1) ++ mask).toNat
                    ++ toBytes 8 (k.2.1 ++ (BitVec.ofNat 16 k.2.2.2.1 ++ BitVec.ofNat 32 k.2.2.1)).toNat)
            ∧ (∀ a, ¬ inside (min K.length cap) a → u.byteAt a = s.byteAt a))
        ∧ (cap ≠ 0 → s.unitPlace p .swrite (base 0) 16 = none → said K.length true ∧ u.mem = s.mem)

/-- R339 to R342: the end of a step, with no refused data. With no two logical cores writing one byte, the step image
becomes memory, the latest write of each byte, and the held updates are applied to it in the order of their keys, those that
meet a write of their own core included; with a conflict, or two members of one LCORE, memory keeps its content, and
every arrived member is to take cause 0xA0 or 0xA4, one end for each of its arrivals. The image is empty after. A step is
due to end here where DETCFG has come down to the arrivals there are; its NP-th arrival ends it at once. -/
def Claims.stepEnds : Prop :=
  ∀ (s : State),
    let p := s.ev.ctx
    let c := s.ctxAt p
    let np := (c.detcfg.extractLsb' 0 16).toNat
    let one := ∀ a ∈ c.arrivals, ∀ b ∈ c.arrivals, a.lcore = b.lcore → a.key = b.key
    let clash := ∃ x ∈ Claims.stepWrites c, ∃ y ∈ Claims.stepWrites c, Claims.stepClash x y
    let lc : BitVec 16 := s.core.detid.extractLsb' 0 16
    let image (a : Nat) : Byte := match c.stepBytes.reverse.find? (fun b => b.pa == a) with
      | some b => b.val
      | none => s.byteAt a
    let mine := s.core.fw = false ∧ s.inPart s.core.id p = true
    let pcs : List Word := (c.arrivals.filter (fun a => a.key == s.core.detKey)).map (fun a => a.pc)
    let told (u : State) (v : Option (BitVec 8)) : Prop := u.core.detDone = s.core.detDone ++ pcs.map (fun x => (x, v, none))
    let closed (u : State) : Prop := (u.ctxAt p).stepBytes = [] ∧ (u.ctxAt p).stepUpds = [] ∧ (u.ctxAt p).arrivals = []
      ∧ u.core.g = s.core.g ∧ u.core.sys = s.core.sys ∧ u.core.pc = s.core.pc
    (np ≠ 0 → np ≤ c.arrivals.length → exec .detStepResolve s = .next (s.resolveStep p))
    ∧ (∀ l : List StepUpd, one → ¬ clash → s.memOk → s.dev.badBytes = [] → s.dev.quarantine = [] → l.Perm c.stepUpds →
        l.Pairwise (fun x y => Claims.keyBefore (x.lcore, x.seq, x.elem) (y.lcore, y.seq, y.elem)) →
        (∀ h ∈ l, h.atomic = false → h.tag ≠ .e2m1x) →
        let u := s.resolveStep p
        let r := l.foldl (Claims.applied lc) (image, 0)
        closed u
        ∧ (∀ a, u.byteAt a = r.1 a)
        ∧ (mine → (∀ h ∈ l, h.atomic = true) → u.core.vec.vstat = s.core.vec.vstat ||| r.2.setWidth 64)
        ∧ (mine → u.core.dstat.extractLsb' 32 32 = s.core.dstat.extractLsb' 32 32 + 1#32 ∧ u.core.dstat.getLsbD 30 = false ∧ u.core.seq = 0
            ∧ told u none))
    ∧ (one → clash → c.detcfg.extractLsb' 16 16 = 0#16 →
        let u := s.resolveStep p
        closed u ∧ u.mem = s.mem
        ∧ (mine → u.core.dstat.extractLsb' 32 32 = s.core.dstat.extractLsb' 32 32 ∧ u.core.dstat.getLsbD 30 = true ∧ u.core.dstat.getLsbD 31 = true
            ∧ told u (some 0xA0)))
    ∧ (¬ one →
        let u := s.resolveStep p
        closed u ∧ u.mem = s.mem
        ∧ (mine → u.core.dstat.extractLsb' 32 32 = s.core.dstat.extractLsb' 32 32 ∧ u.core.dstat.getLsbD 30 = true
            ∧ (u.core.dstat.extractLsb' 0 16).toNat = 0 ∧ told u (some 0xA4)))

/-- R326 to R344: barriers, fences and deterministic steps. What fences wait for (logs 7, 88), and how a det.step that is
issued again is known (log 73), are the model's choices, and so is what det.log reads on the firmware core (log 39). -/
def Obligations.BarriersFencesAndSteps : Prop :=
  Claims.barriers ∧ Claims.fences ∧ Claims.stepForms ∧ Claims.stepEnds ∧ Claims.conflictLog

/-! ## Tasks and queues -/

/-- R366: a record that is neither spawned nor placed. -/
def Claims.malformed (r : Record) : Prop :=
  let c := r.ctl
  c.extractLsb' 35 29 ≠ 0#29 ∨ c.extractLsb' 12 4 ≠ 0#4 ∨ c.extractLsb' 5 3 ≠ 0#3 ∨ c.getLsbD 18 = true ∨ r.join.toNat % 64 ≠ 0
    ∨ (c.getLsbD 16 = false ∧ (¬ (c.extractLsb' 0 5).toNat ∈ [1, 2, 4, 8, 16] ∨ r.code.toNat % 4 ≠ 0))

/-- Queue 4·PRIO + LANE of a record (R366). -/
def Claims.queueOf (r : Record) : BitVec 4 := BitVec.ofNat 4 (4 * (r.ctl.extractLsb' 8 2).toNat + (r.ctl.extractLsb' 10 2).toNat)

/-- R375: task.spawn copies its n records and pushes all of them, each at TAIL of its queue, or traps for the first that
fails, or stands while a queue has no room, with the copy kept: it goes on from there without reading or checking it again,
and takes cause 0x89 once a target queue has left MAPPED in the wait. -/
def Claims.taskSpawn : Prop :=
  ∀ (s : State) (a b : BitVec 5),
    let i := Instr.taskSpawn a b
    let n := (s.g b).toNat
    let va := s.g a
    let ctx := s.ctxIx
    (n = 0 ∨ 64 < n → traps i s { cause := 0x89 })
    ∧ (1 ≤ n → n ≤ 64 → va.toNat % 32 ≠ 0 → traps i s ((⟨0x2A, va, 3, 0xF, none, none⟩ : MemFault).trap 0))
    ∧ (∀ (l : List Record) (r0 : State), 1 ≤ n → n ≤ 64 → va.toNat % 32 = 0 →
      let fresh := s.core.spawned = [] ∧ readRecords va n n s = .ok (l, r0)
      let waits := l ≠ [] ∧ s.core.spawned = l.flatMap Record.words ∧ s.core.spawnLost = false ∧ r0 = s
      let t : State := { r0 with core := { r0.core with spawned := l.flatMap Record.words, spawnLost := false } }
      let bound (q : BitVec 4) : Nat := (l.filter (fun r => Claims.queueOf r == q)).length
      let queue (r : Record) : Queue := t.queueRaw ctx (Claims.queueOf r)
      let refused (r : Record) : Prop := Claims.malformed r ∨ r.ctl.getLsbD 16 = true
      let taken (r : Record) : Prop := (queue r).state = .mapped ∧ bound (Claims.queueOf r) ≤ (queue r).cap.toNat
      let size (r : Record) : Nat := (r.ctl.extractLsb' 0 5).toNat
      let places (r : Record) : Prop := ∃ base, base % size r = 0 ∧ base + size r ≤ 256 ∧ ∀ j < size r, t.inPart (BitVec.ofNat 8 (base + j)) ctx = true
      let fine (r : Record) : Prop := ¬ refused r ∧ taken r ∧ places r
      (fresh → ∀ k r, l[k]? = some r → (∀ j < k, ∀ x, l[j]? = some x → fine x) →
        (refused r → exec i s = .next (t.enterTrap { cause := 0x88, tval := BitVec.ofNat 64 k }))
        ∧ (¬ refused r → ¬ taken r → exec i s = .next (t.enterTrap { cause := 0x89 }))
        ∧ (¬ refused r → taken r → ¬ places r → exec i s = .next (t.enterTrap { cause := 0x8A })))
      ∧ (l ≠ [] → s.core.spawned = l.flatMap Record.words → s.core.spawnLost = true → traps i s { cause := 0x89 })
      ∧ ((fresh ∧ ∀ r ∈ l, fine r) ∨ waits → t.core.cmds = [] →
        let room := ∀ r ∈ l, bound (Claims.queueOf r) + ((queue r).tail - (queue r).head).toNat ≤ (queue r).cap.toNat
        (¬ room → exec i s = .next (t.stand .spawn))
        ∧ (room → t.dev.badBytes = [] → ∃ u, ends i s u ∧ u.core = { t.core with spawned := [] } ∧ u.rest = t.rest
          ∧ (∀ q, u.queueRaw ctx q = { t.queueRaw ctx q with tail := (t.queueRaw ctx q).tail + BitVec.ofNat 32 (bound q) })
          ∧ (∀ r pa, l = [r] → t.memOk →
              t.unitPlace ctx .xwrite ((queue r).ring + BitVec.ofNat 64 (32 * ((queue r).tail.toNat % (queue r).cap.toNat))) 32 = some pa →
              Memory.read u.mem pa 32 = toBytes 8 r.code.toNat ++ toBytes 8 r.frame.toNat ++ toBytes 8 r.join.toNat ++ toBytes 8 r.ctl.toNat ∧ sameBut t u pa 32))))

/-- R374, R376, R377: task.exit of a settled member. The last member of a gang ends it: its cores fall free, and its JOIN
is signalled. -/
def Claims.taskExit : Prop :=
  ∀ (s : State),
    (s.myGang = none → traps .taskExit s { cause := 0x8D })
    ∧ (∀ gang, s.myGang = some gang → s.core.cmds = [] → s.core.tile.queue = [] →
        (∀ p : BitVec 4, xState (s.xstat p) ≠ stOverfill ∧ xState (s.xstat p) ≠ stError ∧ xArm (s.xstat p) = false) →
        (gang.exited.length + 1 < gang.cores.length → ∃ u, exec .taskExit s = .next u ∧ u.core.run = .exited ∧ u.core.g = s.core.g
          ∧ u.core.sys = s.core.sys ∧ u.mem = s.mem ∧ u.rest = s.rest ∧ u.ctxs = s.ctxs
          ∧ u.gangs = s.gangs.map (fun x => if x.id = gang.id then { x with exited := x.exited ++ [s.core.rank] } else x))
        ∧ (gang.cores.length ≤ gang.exited.length + 1 → ∃ u v, exec .taskExit s = .next u
          ∧ v.core.run = .idle ∧ v.core.gang = none ∧ v.core.g = s.core.g ∧ v.core.sys = s.core.sys
          ∧ v.gangs = s.gangs.filter (fun x => x.id != gang.id) ∧ (∀ c ∈ v.rest, c.gang ≠ some gang.id) ∧ v.mem = s.mem ∧ v.ctxs = s.ctxs
          ∧ (gang.join = 0 → u = v) ∧ (gang.join ≠ 0 → gang.join.toNat % 64 = 0 → u = v.signal gang.ctx false gang.join gang.queue)))

/-- R378, R379: task.join returns COUNT and signals; task.notify adds n records to TAIL, in the unit, for an UNMAPPED
queue in its descriptor in memory, and for a queue never mapped to what is held. -/
def Claims.taskSignals : Prop :=
  ∀ (s : State) (d a b : BitVec 5),
    let va := s.g a
    (va.toNat % 64 ≠ 0 → traps (.taskJoin d a) s ((⟨0x2A, va, 5, 0xF, none, none⟩ : MemFault).trap 0))
    ∧ (∀ x, va.toNat % 64 = 0 → s.core.cmds = [] → reach s s.core.cmds s.pl .atomic va 8 = .ok x →
        let c := wordOfBytes (s.readAt x .atomic 0 va 8)
        (c.toInt ≤ 0 → traps (.taskJoin d a) s { cause := 0x8B })
        ∧ (0 < c.toInt → ends (.taskJoin d a) s ((((s.correct x.pa 8).fill x).signal s.ctxIx false va s.myQueue).setG d c)))
    ∧ (let q := va.extractLsb' 0 4
       let n := (s.g b).toNat
       let x := s.queue s.ctxIx q
       let most := if x.state = .unmapped ∧ x.desc = none then 32768 else x.cap.toNat
       let y : Queue := { x with tail := x.tail + BitVec.ofNat 32 n, pnotify := x.pnotify || x.state != .mapped }
       (va.extractLsb' 4 60 ≠ 0#60 ∨ n = 0 ∨ most < n → traps (.taskNotify a b) s { cause := 0x89 })
       ∧ (va.extractLsb' 4 60 = 0#60 → 1 ≤ n → n ≤ most → s.core.cmds = [] →
          (x.state = .unmapped → x.desc = none → ∃ u, ends (.taskNotify a b) s u ∧ u.core = s.core ∧ u.rest = s.rest ∧ u.mem = s.mem
            ∧ u.queueRaw s.ctxIx q = { x with heldCount := x.heldCount + n })
          ∧ (x.state ≠ .unmapped → ∃ u, ends (.taskNotify a b) s u ∧ u.core = s.core ∧ u.rest = s.rest ∧ u.mem = s.mem ∧ u.queueRaw s.ctxIx q = y)
          ∧ (∀ dv pa, x.state = .unmapped → x.desc = some dv → s.memOk → s.unitScrub s.ctxIx dv 64 = s →
              s.unitPlace s.ctxIx .xread dv 64 = some pa → s.unitPlace s.ctxIx .xwrite dv 64 = some pa →
              ∃ u, ends (.taskNotify a b) s u ∧ u.core = s.core ∧ u.rest = s.rest ∧ sameBut s u pa 64 ∧ u.queueRaw s.ctxIx q = y
                ∧ u.peek64 (pa + 16) = (s.peek64 (pa + 16)).extractLsb' 32 32 + BitVec.ofNat 32 n ++ (s.peek64 (pa + 16)).extractLsb' 0 32
                ∧ (u.peek64 (pa + 48)).getLsbD 2 = true ∧ (u.peek64 (pa + 48)).getLsbD 3 = (s.peek64 (pa + 48)).getLsbD 3
                ∧ (∀ k ∈ [0, 24, 32, 40], u.peek64 (pa + k) = s.peek64 (pa + k)))))

/-- R368: a signal to a join block. That NEXT of the block that is now the last of a chain is 0 is the model's choice
(log 33). -/
def Claims.signals : Prop :=
  ∀ (s : State) (ctx : BitVec 8) (ab : Bool) (j : Word) (src : BitVec 4) (pj : Nat),
    s.memOk → s.unitPlace ctx .atomic j 64 = some pj → s.unitScrub ctx j 64 = s →
    let count := s.peek64 pj
    let st := s.peek64 (pj + 8)
    let u := s.signal ctx ab j src
    let r := s.recordAt (pj + 32)
    let q := Claims.queueOf r
    let x := s.queueRaw ctx q
    let aborted := ab = true ∨ st.getLsbD 0 = true
    (count.toInt ≤ 0 → (s.queueRaw ctx src).state = .mapped →
      u.peek64 (pj + 8) = st ||| 2 ∧ sameBut s u (pj + 8) 8 ∧ (u.queueRaw ctx src).err = true
      ∧ (s.core.fw = false → s.inPart s.core.id ctx = true → u.core.sys.evt = s.core.sys.evt ||| 8))
    ∧ (1 < count.toInt →
      u.peek64 pj = count - 1 ∧ u.peek64 (pj + 8) = (if ab then st ||| 1 else st) ∧ sameBut s u pj 16 ∧ u.ctxs = s.ctxs ∧ u.core = s.core)
    ∧ (count = 1 → ¬ aborted → r.ctl.getLsbD 16 = false → x.state = .mapped →
      (u.queueRaw ctx q).chainT = j ∧ (u.queueRaw ctx q).chainH = (if x.chainH = 0 then j else x.chainH)
      ∧ (x.chainH = 0 → u.peek64 pj = 0 ∧ u.peek64 (pj + 8) = st ∧ u.peek64 (pj + 16) = 0 ∧ sameBut s u pj 24))
    ∧ (count = 1 → ¬ aborted → r.ctl.getLsbD 16 = true → x.state = .mapped →
      u = (s.poke pj (toBytes 8 0 ++ toBytes 8 st.toNat)).sendCpl ctx q x.cpl (j ||| st))
    ∧ (count = 1 → aborted → r.ctl.getLsbD 16 = false → r.join = 0 →
      u.peek64 pj = 0 ∧ (u.peek64 (pj + 56)).getLsbD 18 = true ∧ u.ctxs = s.ctxs ∧ u.core = s.core
      ∧ ∀ a, ¬ (pj ≤ a ∧ a < pj + 16) → ¬ (pj + 56 ≤ a ∧ a < pj + 64) → u.byteAt a = s.byteAt a)

/-- R366 to R368, R374 to R379, R448: tasks and their signals. NEXT of the last join block of a chain is the model's
choice (log 33). -/
def Obligations.TasksAndSignals : Prop := Claims.taskSpawn ∧ Claims.taskExit ∧ Claims.taskSignals ∧ Claims.signals

/-- R370, R381, R382, R448: the host's queue commands. A refused one changes QRES alone, which tells the command, its queue
and cause 0x89; an accepted one tells cause 0. A map takes what was held for the queue: its notified records join TAIL, ERR
and QERR telling of those that find no room, and its join blocks the chain. A queue that leaves MAPPED tells the cores at
which a task.spawn waits for room in it (R375). That WAIT restarts at a drain is the model's
choice (log 34). -/
def Claims.queueCommands : Prop :=
  ∀ (s : State),
    let ctx := s.ev.ctx
    let q := s.ev.q
    let x := s.queueRaw ctx q
    let desc : Word := ((s.ev.desc ++ 0#6).signExtend 64)
    let tells (op : Nat) (cause : Nat) (u : State) : Prop :=
      (u.ctxAt ctx).qres = BitVec.ofNat 64 (2 ^ 63 + op * 4096 + q.toNat * 256 + cause)
    let told (c : Core) : Core :=
      if c.fw = false ∧ s.inPart c.id ctx = true ∧ ∃ r ∈ recordsOf c.spawned, Claims.queueOf r = q then { c with spawnLost := true } else c
    let refuses (i : Instr) (op : Nat) : Prop :=
      ∃ u, exec i s = .next u ∧ tells op 0x89 u ∧ u = s.onCtx ctx (fun c => { c with qres := (u.ctxAt ctx).qres })
    let only (i : Instr) (op : Nat) : Prop :=
      ∃ u, exec i s = .next u ∧ tells op 0 u ∧ u = s.onCtx ctx (fun c => { c with qres := (u.ctxAt ctx).qres })
    (x.state = .unmapped → refuses .qctlDrain 2 ∧ refuses .qctlAbort 3)
    ∧ (x.state ≠ .unmapped → s.unitScrub ctx desc 64 = s → refuses .qctlMap 1)
    ∧ (x.state = .draining ∨ x.state = .aborting → only .qctlDrain 2) ∧ (x.state = .aborting → only .qctlAbort 3)
    ∧ (x.state = .mapped → ∃ u, exec .qctlDrain s = .next u ∧ tells 2 0 u ∧ u.queueRaw ctx q = { x with state := .draining, wait := 0 }
        ∧ u.core = told s.core ∧ u.rest = s.rest.map told ∧ u.mem = s.mem ∧ u.gangs = s.gangs)
    ∧ (x.state = .mapped ∨ x.state = .draining → ∃ u, exec .qctlAbort s = .next u ∧ tells 3 0 u
        ∧ (u.queueRaw ctx q).state = .aborting ∧ (u.queueRaw ctx q).head = (u.queueRaw ctx q).tail
        ∧ (∀ y ∈ (u.ctxAt ctx).saved, y.gang.queue ≠ q)
        ∧ (∀ g ∈ u.gangs, g.ctx = ctx → g.queue = q → g.due = some .discard ∨ ∃ c, g.due = some (.double c)))
    ∧ (x.state = .unmapped → s.unitScrub ctx desc 64 = s → s.unitPlace ctx .atomic desc 64 = none → refuses .qctlMap 1)
    ∧ (∀ pa, x.state = .unmapped → s.unitScrub ctx desc 64 = s → s.dev.badBytes = [] → s.unitPlace ctx .atomic desc 64 = some pa →
        let w (i : Nat) : Word := s.peek64 (pa + i)
        let cap := ((w 8).extractLsb' 0 16).toNat
        let good := (∃ k, 1 ≤ k ∧ k ≤ 15 ∧ cap = 2 ^ k) ∧ (w 0).toNat % 32 = 0
        let tail := (w 16).extractLsb' 32 32
        let head := (w 16).extractLsb' 0 32
        (¬ good → refuses .qctlMap 1)
        ∧ (good →
            let all := tail + BitVec.ofNat 32 x.heldCount
            let excess := cap < (all - head).toNat
            ∃ u, exec .qctlMap s = .next u ∧ tells 1 0 u ∧ (¬ excess → u.core = s.core ∧ u.rest = s.rest)
              ∧ (excess → s.core.fw = false → s.inPart s.core.id ctx = true → u.core.sys.evt = s.core.sys.evt ||| 8)
              ∧ u.queueRaw ctx q = { x with state := .mapped, desc := some desc, ring := w 0, cap := (w 8).extractLsb' 0 16, head := head, tail := if excess then head + BitVec.ofNat 32 cap else all, chainH := if x.heldH ≠ 0 ∧ w 24 = 0 then x.heldH else w 24, chainT := if x.heldH ≠ 0 then x.heldT else w 32, cpl := w 40, err := (w 48).getLsbD 3 || decide excess, pnotify := false, heldH := 0, heldT := 0, heldCount := 0, heldCpl := [], wait := 0 }
              ∧ (∀ pn, x.heldH ≠ 0 → w 24 ≠ 0 → x.heldCpl = [] → s.memOk → s.unitPlace ctx .xwrite (w 32 + 16) 8 = some pn → (pn + 8 ≤ pa ∨ pa + 64 ≤ pn) →
                  u.peek64 pn = x.heldH)
              ∧ (x.heldCpl = [] → u.dev.out = s.dev.out)))

/-- R379, R381, R382: the end of a drain and of an abort: the queue is UNMAPPED, and its descriptor is written back. A
record that was notified while the queue was ABORTING signals its JOIN as aborted first. -/
def Claims.queueEnds : Prop :=
  ∀ (s : State),
    let ctx := s.ev.ctx
    let q := s.ev.q
    let x := s.queueRaw ctx q
    (∀ g ∈ s.gangs, ¬ (g.ctx = ctx ∧ g.queue = q)) → (∀ y ∈ (s.ctxAt ctx).saved, y.gang.queue ≠ q) →
    (∀ pr, x.state = .aborting → x.tail = x.head + 1 → x.cap ≠ 0 →
      let va := x.ring + BitVec.ofNat 64 (32 * (x.head.toNat % x.cap.toNat))
      s.unitScrub ctx va 32 = s → s.unitPlace ctx .xread va 32 = some pr → s.peek64 (pr + 16) ≠ 0 → (s.peek64 (pr + 16)).toNat % 64 = 0 →
      let u := s.signal ctx true (s.peek64 (pr + 16)) q
      let y := u.queueRaw ctx q
      let v := u.onCtx ctx (fun c => { c with queues := rset c.queues q { y with head := y.tail } })
      exec .queueAbortComplete s = .next (v.unmapQueue ctx q { y with head := y.tail, chainH := 0, chainT := 0 }))
    ∧ ∀ f ∈ [(Instr.queueDrainComplete, QState.draining, x), (.queueAbortComplete, .aborting, { x with chainH := 0, chainT := 0 })],
      x.state = f.2.1 → (f.2.1 = .aborting → x.head = x.tail) → s.dev.badBytes = [] → ∃ u, exec f.1 s = .next u ∧ u.queueRaw ctx q = { f.2.2 with state := .unmapped, wait := 0 } ∧ u.core = s.core ∧ u.rest = s.rest
        ∧ (x.desc = none → u.mem = s.mem)
        ∧ (∀ d pa, x.desc = some d → s.memOk → s.unitPlace ctx .xwrite d 64 = some pa →
            u.peek64 pa = x.ring ∧ u.peek64 (pa + 8) = x.cap.setWidth 64 ∧ u.peek64 (pa + 16) = x.tail ++ f.2.2.head
            ∧ u.peek64 (pa + 24) = f.2.2.chainH ∧ u.peek64 (pa + 32) = f.2.2.chainT ∧ u.peek64 (pa + 40) = x.cpl
            ∧ u.peek64 (pa + 48) = (if x.err then 8 else 0) ||| (if x.pnotify then 4 else 0) ∧ sameBut s u pa 64)

/-- R365, R371, R373: dispatch. With no saved gang and every head well formed, the reserved head, or else the first in the
order of levels and of round robin for which a position is free, is placed at the lowest free position; every member
starts at CODE with FRAME, rank, size and JOIN in g2 to g5. Heads passed by age, and one that has waited 32 placements may
be reserved. Other cores stay as they are, but that a cluster which the placement wakes sets their ALC and may post EVT.THROT
(R429, R434). That a core's scratchpad reads as memory that nothing has written, bytes of 0, is the model's choice (logs 1,
36); so are the values that R373 does not name (log 36). -/
def Claims.dispatches : Prop :=
  ∀ (s : State) (h : QHead) (b : Nat),
    let ctx := s.ev.ctx
    let x := s.ctxAt ctx
    let l := s.heads ctx
    let g := h.item.size
    let rank (q : BitVec 4) : Nat := 4 * (q.toNat / 4) + (q.toNat % 4 + 4 - (rget x.rr (q.extractLsb' 2 2)).toNat) % 4
    let free (i : Nat) : Prop := s.inPart (BitVec.ofNat 8 i) ctx = true ∧ ∃ c, s.coreAt (numbered (BitVec.ofNat 8 i)) = some c ∧ c.gang = none
    let room (i : Nat) : Prop := (∀ j < g, free (i + j)) ∧ (h.item.rsv = true → (s.clAt (BitVec.ofNat 4 (i / 16))).quinceRoom 0 = true)
    s.dev.dierst.extractLsb' 0 2 = 0#2 → (x.eqcfg.extractLsb' 0 24 = 0#24 ∨ x.equota.extractLsb' 0 32 ≠ 0#32) → x.heldBack = false →
    s.dev.ckRun = none → x.savea.extractLsb' 0 9 = 0#9 → s.dev.softBytes = [] → s.dev.badBytes = [] →
    (∀ y, y = h ∨ y ∈ l → ¬ Claims.malformed y.item ∧ y.item.ctl.getLsbD 16 = false) →
    ((x.res = some (h.q, h.chain.isNone) ∧ s.resHead ctx = some h)
      ∨ (x.res = none ∧ h ∈ l ∧ ∀ y ∈ l, rank y.q < rank h.q → s.headPosition ctx y = none)) →
    b % g = 0 → b + g ≤ 256 → room b → (∀ i, i % g = 0 → i < b → ¬ room i) →
    ∃ u gang, exec .dispatch s = .next u ∧ u.gangs = s.gangs ++ [gang] ∧ gang.ctx = ctx ∧ gang.queue = h.q ∧ gang.join = h.item.join ∧ gang.exited = [] ∧ gang.due = none
      ∧ gang.cores = (List.range g).map (fun i => BitVec.ofNat 8 (b + i))
      ∧ (∀ n : BitVec 4, rget gang.share.gb n = BitVec.ofNat 64 (g * 2 ^ 16))
      ∧ (∀ i < g, ∀ c, u.coreAt (numbered (BitVec.ofNat 8 (b + i))) = some c →
          c.pc = h.item.code ∧ rget c.g (2 : BitVec 5) = h.item.frame ∧ rget c.g (3 : BitVec 5) = BitVec.ofNat 64 i ∧ rget c.g (4 : BitVec 5) = BitVec.ofNat 64 g
          ∧ rget c.g (5 : BitVec 5) = h.item.join ∧ (∀ r : BitVec 5, ¬ (2 ≤ r.toNat ∧ r.toNat ≤ 5) → rget c.g r = 0)
          ∧ c.run = .running ∧ c.wait = none ∧ c.gang = some gang.id ∧ c.rank = i ∧ c.sys.pl = plUser
          ∧ c.vec.vl = 0x30000 ∧ c.vec.vprof = 0 ∧ c.vec.mfc = 0 ∧ c.vec.vstat = 0 ∧ c.mat.mmctl = 0 ∧ c.mat.mmflg = 0 ∧ c.rsvstat = 0
          ∧ c.port.xstat = Vector.replicate 16 0 ∧ c.port.cbcfg = Vector.replicate 8 0 ∧ c.blk.blk = 0
          ∧ c.detid = BitVec.ofNat 64 ((h.item.lcb.toNat + i) % 2 ^ 16))
      ∧ (∀ r, (∀ i < g, r ≠ numbered (BitVec.ofNat 8 (b + i))) →
          ((s.clAt (BitVec.ofNat 4 (b / 16))).wakeable = false → u.coreAt r = s.coreAt r)
          ∧ ∀ c c', s.coreAt r = some c → u.coreAt r = some c' →
              c' = { c with sys := { c.sys with evt := c'.sys.evt }, vec := { c.vec with alc := c'.vec.alc } })
      ∧ (h.chain = none → (u.queueRaw ctx h.q).head = (s.queueRaw ctx h.q).head + 1)
      ∧ (∀ i < g, ∀ a, scratchBase (b + i) ≤ a → a < scratchBase (b + i) + 0x200000 → u.byteAt a = 0)
      ∧ (x.res ≠ none → (u.ctxAt ctx).res = none)
      ∧ (x.res = none → rget (u.ctxAt ctx).rr (h.q.extractLsb' 2 2) = h.q.extractLsb' 0 2 + 1#2
          ∧ (∀ y ∈ l, y.q ≠ h.q → (u.queueRaw ctx y.q).wait = (s.queueRaw ctx y.q).wait + 1)
          ∧ (∀ q ring, (u.ctxAt ctx).res = some (q, ring) → ∃ y ∈ l, y.q = q ∧ y.chain.isNone = ring ∧ q ≠ h.q ∧ 31 ≤ (s.queueRaw ctx q).wait
              ∧ ∀ z ∈ l, z.q ≠ h.q → (s.queueRaw ctx z.q).wait ≤ (s.queueRaw ctx q).wait
                ∧ ((s.queueRaw ctx z.q).wait = (s.queueRaw ctx q).wait → q.toNat ≤ z.q.toNat))
          ∧ ((u.ctxAt ctx).res = none → ∀ y ∈ l, y.q ≠ h.q → (s.queueRaw ctx y.q).wait < 31))

/-- R382, R401, R403, R405: a gang whose members all admit a pre-emption, with no stream inside a group of 16, leaves: into
the lowest free slot of the save area, or, discarded, for good; its cores fall free. With no error in memory, one whose
slot cannot be read or reached, or of which a register holds an error, stays, and QERR is posted (R118, R119). -/
def Claims.preemption : Prop :=
  ∀ (s : State) (c : Core) (g : Gang),
    let e := Instr.gangPreempt
    let idle (u : State) : Prop := ∀ y ∈ u.cores, y.gang ≠ some g.id
    s.coreAt s.ev.c = some c → c.gang.bind s.gangAt = some g →
    (∀ y ∈ s.members g, y.run = .running → y.sys.pl = plUser ∨ (y.sys.pl = plSup ∧ y.sys.aie = true)) →
    (∀ y ∈ s.members g, ∀ x, .stream x ∈ y.cmds → x.active = false
      ∨ (x.sends = [] ∧ x.next % 16 = 0 ∧ x.ahead = [])) →
    (g.due = some .discard → ∃ u, exec e s = .next u ∧ u.gangs = s.gangs.filter (fun x => x.id != g.id) ∧ idle u)
    ∧ (∀ i, g.due = none ∨ g.due = some .save → i < (min ((s.ctxAt g.ctx).savea.extractLsb' 0 9).toNat 256) →
        (∀ k < i, s.slotFull g.ctx k = true) → s.slotFull g.ctx i = false → s.dev.softBytes = [] → s.dev.badBytes = [] → s.dev.quarantine = [] →
        let va := (s.ctxAt g.ctx).slotVa i
        let sound := (s.slotWord g.ctx va).isSome = true ∧ s.slotReachable g.ctx .xwrite va g.cores.length = true ∧ ∀ y ∈ s.members g, y.regErr = []
        (sound → ∃ u, exec e s = .next u ∧ u.gangs = s.gangs.filter (fun x => x.id != g.id) ∧ idle u
          ∧ (u.ctxAt g.ctx).saved.length = (s.ctxAt g.ctx).saved.length + 1
          ∧ ∃ x ∈ (u.ctxAt g.ctx).saved, x.id = s.nextGang ∧ x.slot = i ∧ x.stepped = false ∧ x.gang = { g with due := none } ∧ x.cores.map (fun y => (y.id, y.pc, y.g)) = (s.members g).map (fun y => (y.id, y.pc, y.g)))
        ∧ (¬ sound → ∃ u, exec e s = .next u ∧ u.mem = s.mem ∧ u.ctxs = s.ctxs
          ∧ u.gangs = s.gangs.map (fun x => if x.id = g.id then { x with due := none } else x)
          ∧ (∀ y ∈ u.cores, y.fw = false → s.inPart y.id g.ctx = true → y.sys.evt.getLsbD 3 = true)))

/-- R405, R407, R408: the restore of a saved gang whose slot is as the device wrote it, with nothing to place: at the lowest
free position whose Quince can take its session, every member goes on as it was saved, rank 0 with the pc, g registers,
vectors, masks and barriers that stand in its image, and with DSTAT of a step that has ended meanwhile (R343); the save
falls out of those that wait. The place of the number that
names a save in the slot is the model's choice (log 17), and so is what belongs to a core rather than to a member
(log 45). -/
def Claims.restores : Prop :=
  ∀ (s : State) (x : SavedGang) (b : Nat),
    let ctx := s.ev.ctx
    let y := s.ctxAt ctx
    let va := y.slotVa 0
    let rd (k : Nat) : Word := s.slotRead ctx va k
    let g := x.gang.cores.length
    let free (i : Nat) : Prop := s.inPart (BitVec.ofNat 8 i) ctx = true ∧ ∃ c, s.coreAt (numbered (BitVec.ofNat 8 i)) = some c ∧ c.gang = none
    let room (i : Nat) : Prop := (∀ j < g, free (i + j)) ∧ (∀ q, x.session = some q → (s.clAt (BitVec.ofNat 4 (i / 16))).quinceRoom q.ni = true)
    let cl := BitVec.ofNat 4 (b / 16)
    s.dev.dierst.extractLsb' 0 2 = 0#2 → (y.eqcfg.extractLsb' 0 24 = 0#24 ∨ y.equota.extractLsb' 0 32 ≠ 0#32) → y.heldBack = false →
    s.dev.ckRun = none → s.dev.softBytes = [] → s.dev.badBytes = [] → s.dev.quarantine = [] →
    y.savea.extractLsb' 0 9 = 1#9 → (∀ q, (s.queueRaw ctx q).chainH = 0 ∧ (s.queueRaw ctx q).head = (s.queueRaw ctx q).tail) → y.res = none →
    y.saved.find? (fun z => z.id + 1 == (rd 0x10000).toNat) = some x → (s.queueRaw ctx x.gang.queue).state ≠ .aborting →
    (rd 0).extractLsb' 0 32 = 0x5A364358#32 → ((rd 0).extractLsb' 48 8).toNat = g → g ∈ [1, 2, 4, 8, 16] → (rd 24).getLsbD 16 = false →
    s.recordBad ctx va (some x) = false → (∀ i < g, s.memberOk ctx (va + BitVec.ofNat 64 (memberOff i)) (some x.id) i = true) →
    s.slotReachable ctx .xread va g = true → b % g = 0 → b + g ≤ 256 → room b → (∀ i, i % g = 0 → i < b → ¬ room i) →
    ∃ u gang, exec .dispatch s = .next u ∧ u.gangs = s.gangs ++ [gang]
      ∧ gang.id = x.gang.id ∧ gang.ctx = ctx ∧ gang.queue = x.gang.queue ∧ gang.join = x.gang.join ∧ gang.exited = x.gang.exited ∧ gang.due = none
      ∧ gang.cores = (List.range g).map (fun i => BitVec.ofNat 8 (b + i))
      ∧ (∀ n : BitVec 4, rget gang.share.gb n = (rd (gangOff + 8 * n.toNat) &&& 0xFFFFFFFF001F001F))
      ∧ (∀ q, x.session = some q → { q with owner := .gang gang.id } ∈ (u.clAt cl).quince)
      ∧ (u.ctxAt ctx).saved.map (fun z => z.id) = (y.saved.filter (fun z => z.id != x.id)).map (fun z => z.id)
      ∧ (∀ i < g, ∀ c, u.coreAt (numbered (BitVec.ofNat 8 (b + i))) = some c → c.gang = some gang.id ∧ c.rank = i
          ∧ (∀ m, x.cores[i]? = some m → c.run = (if m.run = .exited then .exited else .running)
              ∧ (x.stepped = true → c.dstat = m.dstat)))
      ∧ (∀ c, u.coreAt (numbered (BitVec.ofNat 8 b)) = some c → c.pc = rd 8 ∧ (∀ r : BitVec 5, r ≠ 0 → rget c.g r = rd (0x40 + 8 * r.toNat))
          ∧ (∀ r : BitVec 5, ∀ e < 512, (rget c.vec.v r).data.extractLsb' (64 * e) 64 = rd (0xA0000 + 4096 * r.toNat + 8 * e))
          ∧ (∀ k : BitVec 3, k ≠ 0 → ∀ e < 128, (rget c.vec.k k).extractLsb' (64 * e) 64 = rd (0x5000 + 1024 * k.toNat + 8 * e))
          ∧ c.sys.pl = (if (rd 0x400).extractLsb' 0 2 = 0#2 then plUser else plSup))
      ∧ (∀ r, (∀ i < g, r ≠ numbered (BitVec.ofNat 8 (b + i))) → ∀ c c', s.coreAt r = some c → u.coreAt r = some c' → c'.g = c.g ∧ c'.pc = c.pc ∧ c'.vec = { c.vec with alc := c'.vec.alc })

/-- R406: the words of a member's image. Where an entry of the XU queue stands within its 64 bytes is the model's choice
(log 17). -/
def Claims.imageWords : Prop :=
  ∀ (c : Core) (h : ImageHead) (sreg : BitVec 7 → BitVec 5 → Word) (id : Nat),
    let w := c.imageWord h sreg id
    (h.size < 256 → h.rank < 256 → w 0 = BitVec.ofNat 64 (0x5A364358 + 2 ^ 32 + h.size * 2 ^ 48 + h.rank * 2 ^ 56)) ∧ w 8 = h.pc ∧ w 16 = h.ctx.setWidth 64
    ∧ (h.second = none → w 24 = BitVec.ofNat 64 (h.core.toNat + h.xu.toNat * 2 ^ 17))
    ∧ (∀ x, h.second = some x → w 24 = BitVec.ofNat 64 (h.core.toNat + 2 ^ 16 + h.xu.toNat * 2 ^ 17 + x.toNat * 2 ^ 24 + 0x9F * 2 ^ 32))
    ∧ (∀ i x, i < 32 → c.vec.xuq[i]? = some x → (w (0x4400 + 64 * i)).extractLsb' 0 32 = x.word
        ∧ w (0x4400 + 64 * i + 8) = x.vl ∧ w (0x4400 + 64 * i + 16) = x.mfc ∧ w (0x4400 + 64 * i + 24) = x.vprof)
    ∧ w 0x40 = 0 ∧ (∀ r : BitVec 5, r ≠ 0 → w (0x40 + 8 * r.toNat) = rget c.g r)
    ∧ (∀ (n : BitVec 7) (i : Nat), i < 16 → w (0x200 + 8 * (n.toNat + 128 * i)) = if sregAssigned n (BitVec.ofNat 5 i) then sreg n (BitVec.ofNat 5 i) else 0)
    ∧ (∀ r : BitVec 5, let v := rget c.vec.v r
        w (0x4200 + 8 * r.toNat) = BitVec.ofNat 64 (v.tag.code.toNat + v.frac.toNat * 2 ^ 5 + v.grp.toNat * 2 ^ 10)
        ∧ ∀ e < 512, w (0xA0000 + 4096 * r.toNat + 8 * e) = v.data.extractLsb' (64 * e) 64)
    ∧ (∀ e < 128, w (0x5000 + 8 * e) = BitVec.allOnes 64)
    ∧ (∀ k : BitVec 3, k ≠ 0 → ∀ e < 128, w (0x5000 + 1024 * k.toNat + 8 * e) = (rget c.vec.k k).extractLsb' (64 * e) 64)
    ∧ (∀ x ∈ c.vp.pcs, (∀ y ∈ c.vp.pcs, y.1 = x.1 → y = x) → w (0xC0000 + 8 * x.1.toNat) = x.2)
    ∧ (∀ n : BitVec 1, ∀ e < 15360, w (0xE4000 + 122880 * n.toNat + 8 * e) = (rget c.tile.acc n).extractLsb' (64 * e) 64)

/-- R365 to R373, R381, R382, R403 to R408, R448: queues, dispatch, pre-emption and restore. A descriptor that cannot be
reached is refused (log 77); WAIT and a reservation begin anew with another head (log 34); a core that begins a task is as
logs 1 and 36 say; a gang for which no pre-emption is due is granted one at once (log 79), and a save that meets a fault
ends the pre-emption (log 81); what names a save within a slot (log 17), and what a restored member takes from its core
(log 45), are the model's choices too. -/
def Obligations.QueuesAndGangs : Prop :=
  Claims.queueCommands ∧ Claims.queueEnds ∧ Claims.dispatches ∧ Claims.preemption ∧ Claims.restores ∧ Claims.imageWords

/-! ## VP blocks -/

/-- R387 to R391: the forms of VP blocks. vp.run starts the VPs below VL of its mask at g[a], or goes on with a suspended
block; in a block the group with the least PC is next, vp.br moves its branching VPs, vp.stop ends its stopping ones, and
every VP of the group that does neither moves to the next word. -/
def Obligations.VpBlocks : Prop :=
  ∀ (s : State) (d a : BitVec 5) (k : BitVec 3),
    let t := s.g a
    let v := s.core.vp
    let vpOnly (u : State) : Prop := u = { s with core := { s.core with wait := none, vp := u.core.vp } }
    let started (e : Nat) : Prop := e < s.core.vec.n ∧ (s.kreg k).getLsbD e = true
    let moved (x : BitVec 13 × Word) : BitVec 13 × Word := if v.grp.getLsbD x.1.toNat then (x.1, x.2 + 4) else x
    let stopping (x : BitVec 13 × Word) : Bool := v.grp.getLsbD x.1.toNat && (s.kreg k).getLsbD x.1.toNat
    let left := (v.pcs.filter (fun x => !stopping x)).map moved
    (v.live = false →
      traps (.vpBr a k) s { cause := 0x8C } ∧ traps .vpJoin s { cause := 0x8C } ∧ traps (.vpStop k) s { cause := 0x8C }
      ∧ (v.vpstat.getLsbD 63 = true → exec (.vpRun a k) s = .next { s with core := { s.core with vp := { v with live := true } } })
      ∧ (v.vpstat.getLsbD 63 = false → t.toNat % 4 ≠ 0 → traps (.vpRun a k) s { cause := 0x0B, tval := (Instr.vpRun a k).wordOf })
      ∧ (v.vpstat.getLsbD 63 = false → t.toNat % 4 = 0 →
          ((∀ e, ¬ started e) → ends (.vpRun a k) s s)
          ∧ (∀ e, started e → ∃ u, exec (.vpRun a k) s = .next u ∧ u = { s with core := { s.core with vp := u.core.vp } }
              ∧ u.core.vp.live = true ∧ u.core.vp.vpstat = BitVec.ofNat 64 (2 ^ 63 + u.core.vp.pcs.length)
              ∧ (∀ x, x ∈ u.core.vp.pcs ↔ started x.1.toNat ∧ x.2 = t) ∧ u.core.vp.pcs.Pairwise (fun x y => x.1.toNat < y.1.toNat))))
    ∧ (v.live = true →
      (t.toNat % 4 ≠ 0 → traps (.vpBr a k) s { cause := 0x0B, tval := (Instr.vpBr a k).wordOf })
      ∧ (t.toNat % 4 = 0 → ∃ u, exec (.vpBr a k) s = .next u ∧ vpOnly u
          ∧ u.core.vp = { v with pcs := v.pcs.map (fun x => if stopping x then (x.1, t) else moved x) })
      ∧ ends .vpJoin s s
      ∧ (∀ u : State, u.core.vp = v → u.next.core.vp = { v with pcs := v.pcs.map moved } ∧ u.next.core.pc = u.core.pc)
      ∧ (left ≠ [] → ∃ u, exec (.vpStop k) s = .next u ∧ vpOnly u
          ∧ u.core.vp = { v with pcs := left, vpstat := BitVec.ofNat 64 (2 ^ 63 + left.length % 2 ^ 14) })
      ∧ (left = [] → s.core.blk.live = false → ∃ u, exec (.vpStop k) s = .next u ∧ u.core.vp.vpstat = 0 ∧ u.core.vp.live = false
          ∧ u = { s with core := { s.core with wait := none, vp := u.core.vp, pc := s.core.pc + 4 } })
      ∧ (v.pcs ≠ [] → ∃ p, leastPc v.pcs = some p ∧ (∃ x ∈ v.pcs, x.2 = p) ∧ (∀ x ∈ v.pcs, p.toNat ≤ x.2.toNat)
          ∧ ∀ e < 8192, v.choose.grp.getLsbD e = true ↔ ∃ x ∈ v.pcs, x.1.toNat = e ∧ x.2 = p))
    ∧ (¬ ((s.vop d).tag = .i32 ∨ (s.vop d).tag = .n32) → traps (.vpId d k) s { cause := 0x42 })
    ∧ ((s.vop d).tag = .i32 ∨ (s.vop d).tag = .n32 → Claims.fits s d →
        ∃ u, ends (.vpId d k) s u ∧ Claims.elementResults s u d k false (s.startGroup clsV d) (fun e => (e, 0)))
    ∧ (∃ u b, ends (.vpAny d k) s (u.setG d (if b = true then 1 else 0)) ∧ onlyVec s u
        ∧ u.core.vec = { s.core.vec with pix := s.core.vec.pix &&& ~~~ 0x80000000 }
        ∧ (b = true ↔ ∃ e, started e ∧ (v.live = true → v.grp.getLsbD e = true)))

/-! ## State registers by number -/

/-- A row of R410: number, greatest instance, levels of sys.rd and of the writing forms, the bits that a permitted write
sets, the bits that a one clears, what the register's rule makes of a value, where the value stands, and whether the
firmware core has the register. -/
structure Claims.SReg where
  n : BitVec 7
  most : Nat
  rd : Lvl
  wr : Lvl
  mask : BitVec 5 → Word
  w1c : Word
  fix : State → Word → Word
  get : State → BitVec 5 → Word
  fw : Bool

/-- A row without a rule of its own for values. -/
def Claims.row (n : BitVec 7) (most : Nat) (rd wr : Lvl) (mask w1c : Word) (get : State → BitVec 5 → Word) (fw : Bool := false) : Claims.SReg :=
  ⟨n, most, rd, wr, fun _ => mask, w1c, fun _ v => v, get, fw⟩

/-- A byte of MSHAPE (R247): sizes 0 and 7 are taken as 1, a REP of 3 as 0. -/
def Claims.shapeByte (b : Byte) : Byte :=
  let c (x : BitVec 3) : BitVec 3 := if x = 0 ∨ x = 7 then 1 else x
  (if b.extractLsb' 6 2 = 3#2 then 0#2 else b.extractLsb' 6 2) ++ c (b.extractLsb' 3 3) ++ c (b.extractLsb' 0 3)

/-- The table of R410 without QCTL and QSTAT, with the fields of the rules that it names. -/
def Claims.sregs : List Claims.SReg :=
  let all : Word := BitVec.allOnes 64
  let x (f : State → Context) : State → Context := f
  let cx := x (fun s => s.ctxAt s.ctxIx)
  let p (i : BitVec 5) : BitVec 4 := i.setWidth 4
  let q (i : BitVec 5) : BitVec 3 := i.setWidth 3
  [ ⟨0x00, 0, .user, .supervisor, fun _ => 0x7FFFF, 0, fun s v =>
        let w : BitVec 3 := if (v.extractLsb' 16 3).toNat ≤ 4 then v.extractLsb' 16 3 else 3
        let mvl := (if s.core.vec.vprof.extractLsb' 0 2 = 0#2 then 1024 else if s.core.vec.vprof.extractLsb' 0 2 = 1#2 then 512 else 256) * 32 / 2 ^ (w.toNat + 2)
        (w ++ BitVec.ofNat 16 (min (v.extractLsb' 0 16).toNat mvl)).setWidth 64, fun s _ => s.core.vec.vl, false⟩,
    Claims.row 0x01 0 .user .supervisor 0x1F 0 (fun s _ => s.core.vec.vprof),
    Claims.row 0x02 0 .user .never 0 0 (fun s _ => s.core.vec.alc),
    Claims.row 0x03 0 .user .supervisor 0xFFFFFFFFFFFF8001 0 (fun s _ => s.core.vec.mfc),
    Claims.row 0x04 0 .user .user 0 0x1F (fun s _ => s.core.vec.vstat),
    Claims.row 0x05 0 .user .supervisor 0x8FE003FF 0 (fun s _ => s.core.vec.pix),
    Claims.row 0x06 0 .user .supervisor 0xF 0 (fun s _ => s.core.vec.lrot),
    Claims.row 0x07 0 .user .supervisor all 0 (fun s _ => s.core.vec.vqrd),
    ⟨0x08, 0, .user, .supervisor, fun _ => 0x3FFFF, 0, fun _ v => if 32 < (v.extractLsb' 12 6).toNat then v &&& ~~~ 0x3F000 else v, fun s _ => s.core.blk.blk, false⟩,
    Claims.row 0x09 0 .user .supervisor all 0 (fun s _ => s.core.blk.blkcnt),
    ⟨0x0A, 0, .user, .supervisor, fun _ => 0xFFFF8FFFFFFFFFFF, 0, fun _ v => if 5 ≤ (v.extractLsb' 57 3).toNat then v &&& ~~~ 0x0E00000000000000 else v, fun s _ => s.core.tile.tshape, false⟩,
    Claims.row 0x0B 0 .user .supervisor 0xFFF800000000FFFF 0 (fun s _ => s.core.tile.tprog),
    ⟨0x0C, 0, .user, .supervisor, fun _ => all, 0, fun _ v => BitVec.ofNat 64 ((List.range 8).foldr (fun i n => (Claims.shapeByte (v.extractLsb' (8 * i) 8)).toNat + 256 * n) 0), fun s _ => s.core.mat.mshape, false⟩,
    Claims.row 0x0D 0 .user .user 0x1FFFFFFFF 0 (fun s _ => s.core.mat.mmctl),
    Claims.row 0x0E 0 .user .user 0 all (fun s _ => s.core.mat.mmflg),
    Claims.row 0x0F 0 .user .supervisor 0x8FFFFFFFFFFFFFFF 0 (fun s _ => s.core.rsvstat),
    Claims.row 0x10 2 .user .supervisor all 0 (fun s i => (s.core.sloe.plprm.toList).getD i.toNat 0),
    ⟨0x11, 1, .user, .supervisor, fun i => if i = 0 then all else 0xFFFFFFFF, 0, fun _ v => v, fun s i => (s.core.sloe.pldoc.toList).getD i.toNat 0, false⟩,
    Claims.row 0x12 0 .user .supervisor 0xFBFFC000FFFFFFFF 0 (fun s _ => s.core.plstat),
    Claims.row 0x13 0 .user .supervisor 0x8000000000003FFF 0 (fun s _ => s.core.vp.vpstat),
    Claims.row 0x14 0 .user .supervisor 0xFFFFFFFF 0x8000000000000000 (fun s _ => (cx s).equota),
    Claims.row 0x15 0 .user .supervisor 0xFFFFFFFF00FFFFFF 0 (fun s _ => (cx s).eqcfg),
    Claims.row 0x16 0 .user .supervisor 0 0x1F0000 (fun s _ => (cx s).thcause),
    Claims.row 0x19 0 .user .supervisor 0xFFFFFFFF 0 (fun s _ => (cx s).detcfg),
    Claims.row 0x1A 0 .user .supervisor 0x00FFFFFFFFFFFFF0 0 (fun s _ => (cx s).dlog),
    Claims.row 0x1B 0 .user .supervisor 0xFFFF 0 (fun s _ => s.core.detid),
    Claims.row 0x1C 0 .user .supervisor 0xFFFFFFFFE000FFFF 0 (fun s _ => s.core.dstat),
    Claims.row 0x20 15 .user .supervisor 0xFFF8FFFFFFFFFFFF 0 (fun s i => rget s.core.port.xstat (p i)),
    Claims.row 0x21 15 .user .supervisor all 0 (fun s i => rget s.core.port.xcsum (p i)),
    Claims.row 0x22 15 .user .supervisor all 0 (fun s i => rget s.core.port.xfault (p i)),
    Claims.row 0x23 7 .user .supervisor 0xFFFFFFFFFFF 0 (fun s i => rget s.core.port.chwin (q i)),
    Claims.row 0x24 7 .user .supervisor 0 0 (fun s i => rget s.core.port.cbcfg (q i)),
    Claims.row 0x25 7 .user .supervisor 0 0 (fun s i => rget s.core.port.cbstat (q i)),
    Claims.row 0x26 15 .user .supervisor 0xFFFFFFFF001F001F 0 (fun s i => rget s.share.gb (p i)),
    Claims.row 0x27 15 .supervisor .supervisor 0x1FFFFFFFFFFFFF 0 (fun s i => rget s.core.tile.tda (p i)),
    Claims.row 0x28 15 .supervisor .supervisor 0xFFFFFFFF0000FFFF 0 (fun s i => rget s.core.tile.tdb (p i)),
    Claims.row 0x40 0 .user .supervisor 0x7C 0 (fun s _ => s.core.sys.status) true,
    Claims.row 0x41 0 .supervisor .supervisor 0xFF 0 (fun s _ => s.core.sys.cause),
    Claims.row 0x42 0 .supervisor .supervisor all 0 (fun s _ => s.core.sys.epc),
    Claims.row 0x43 0 .supervisor .supervisor all 0 (fun s _ => s.core.sys.tval),
    Claims.row 0x44 0 .supervisor .supervisor 0xFFFFFFFFFFFFFFFC 0 (fun s _ => s.core.sys.tvec),
    Claims.row 0x45 0 .supervisor .supervisor all 0 (fun s _ => s.core.sys.sscr),
    Claims.row 0x46 0 .supervisor .never 0 0 (fun s _ => s.core.sys.xlinfo) true,
    Claims.row 0x47 0 .supervisor .supervisor 0xFFFFFFFFFFFFF001 0 (fun s _ => (cx s).atroot),
    Claims.row 0x48 0 .supervisor .supervisor 0 0x1F (fun s _ => s.core.sys.evt),
    Claims.row 0x49 0 .supervisor .supervisor 0x1F 0 (fun s _ => s.core.sys.evten),
    ⟨0x4A, 0, .supervisor, .supervisor, fun _ => 0x00FFFFFFFFFFF1FF, 0, fun _ v => if 256 < (v.extractLsb' 0 9).toNat then (v &&& ~~~ 0x1FF) ||| 256 else v, fun s _ => (cx s).savea, false⟩,
    Claims.row 0x4B 0 .supervisor .supervisor 0xFFFFFFFF 0 (fun s _ => s.core.sys.dsig),
    Claims.row 0x4C 0 .supervisor .supervisor all 0 (fun s _ => s.dev.ecccnt) true,
    Claims.row 0x60 0 .machine .machine 0xFF 0 (fun s _ => s.core.sys.mcause) true,
    Claims.row 0x61 0 .machine .machine all 0 (fun s _ => s.core.sys.mepc) true,
    Claims.row 0x62 0 .machine .machine all 0 (fun s _ => s.core.sys.mtval) true,
    Claims.row 0x63 0 .machine .machine 0xFFFFFFFFFFFFFFFC 0 (fun s _ => s.core.sys.mtvec) true,
    Claims.row 0x64 0 .machine .machine all 0 (fun s _ => s.core.sys.mscr) true ]

/-- R410 to R413: sys.rd gives the register to g[d]; sys.wr, sys.set and sys.clr write it, and no other register of the
table (EQCFG refills EQUOTA.REM) — at a permitted level, with earlier commands completed; below the level they take cause
0x09 or 0x0A, and for an unassigned number or instance cause 0x07. A reserved value for VPROF or MFC takes cause 0x48. On
the firmware core a register that it lacks reads zero and takes no write. That sys.set and sys.clr of VPROF and MFC ask
the same of the operand bits is the model's reading (log 43), as is which fields a write restores (log 40). -/
def Claims.sregForms : Prop :=
  ∀ (s : State) (d a i : BitVec 5) (n : BitVec 7),
    let v := s.g a
    let forms : List (Instr × (Word → Word → Word → Word)) :=
      [(.sysWr i a n, fun old m w => ((old &&& ~~~ m) ||| (v &&& m)) &&& ~~~ (v &&& w)), (.sysSet i a n, fun old m _ => old ||| (v &&& m)),
        (.sysClr i a n, fun old m w => old &&& ~~~ (v &&& (m ||| w)))]
    let under (l : Lvl) : Nat := if l = .supervisor ∧ s.pl = plUser then 9 else if (l = .machine ∨ l = .never) ∧ s.pl ≠ plMach then 10 else 0
    let refuses (f : Instr) (c : Nat) : Prop := traps f s { cause := BitVec.ofNat 8 c, tval := f.wordOf }
    ((∀ x ∈ Claims.sregs, x.n = n → x.most < i.toNat) → (n = 0x17 ∨ n = 0x18 → 0 < i.toNat) →
      refuses (.sysRd d i n) 7 ∧ ∀ f ∈ forms, refuses f.1 7)
    ∧ (∀ x ∈ Claims.sregs, x.n = n → i.toNat ≤ x.most →
        let absent := s.core.fw = true ∧ x.fw = false
        let old := if absent then 0 else x.get s i
        (under x.rd ≠ 0 → refuses (.sysRd d i n) (under x.rd))
        ∧ (under x.rd = 0 → s.core.tile.queue = [] → ends (.sysRd d i n) s (s.setG d old))
        ∧ (∀ f ∈ forms,
            (under x.wr ≠ 0 → refuses f.1 (under x.wr))
            ∧ (under x.wr = 0 → s.core.cmds = [] → s.core.tile.queue = [] →
              let w := f.2 old (x.mask i) x.w1c
              let reserved := (n = 1 ∧ (v.extractLsb' 5 59 ≠ 0#59 ∨ w.extractLsb' 5 59 ≠ 0#59 ∨ w.extractLsb' 0 2 = 3#2 ∨ w.extractLsb' 2 2 = 3#2))
                ∨ (n = 3 ∧ (v.extractLsb' 1 14 ≠ 0#14 ∨ w.extractLsb' 1 14 ≠ 0#14 ∨ Tag.ofCode (w.extractLsb' 15 5) = none ∨ 4 ≤ (w.extractLsb' 20 3).toNat))
              (absent ∨ x.wr = .never → ends f.1 s s)
              ∧ (¬ absent → x.wr ≠ .never → reserved → traps f.1 s { cause := 0x48 })
              ∧ (¬ absent → x.wr ≠ .never → ¬ reserved → ∃ u, ends f.1 s u ∧ x.get u i = x.fix s w
                ∧ (∀ y ∈ Claims.sregs, ∀ j : BitVec 5, j.toNat ≤ y.most → ¬ (y.n = n ∧ j = i) → ¬ (n = 0x15 ∧ y.n = 0x14) → y.get u j = y.get s j)
                ∧ (n = 0x15 → (u.ctxAt s.ctxIx).equota = (w.extractLsb' 32 32 : BitVec 32).setWidth 64 ||| ((s.ctxAt s.ctxIx).equota &&& ~~~ 0xFFFFFFFF))
                ∧ u.mem = s.mem ∧ u.core.g = s.core.g ∧ u.core.pc = s.core.pc ∧ u.core.run = s.core.run ∧ u.rest = s.rest)))
        ∧ (∀ f ∈ forms, under x.wr = 0 → s.core.tile.queue ≠ [] ∨ s.core.cmds ≠ [] → stands f.1 s .dauStall))

/-- R370, R410, R413: QCTL and QSTAT. sys.rd of QSTAT gives the state of every queue; a write of QCTL is a queue command,
and one that is refused takes cause 0x89, from each writing form; sys.clr, which leaves a write-only register 0, commands
nothing. -/
def Claims.queueRegs : Prop :=
  ∀ (s : State) (d a : BitVec 5),
    let v := s.g a
    let x := s.queueRaw s.ctxIx (v.extractLsb' 56 4)
    let op := (v.extractLsb' 60 4).toNat
    let bad := 4 ≤ op ∨ (op = 1 ∧ x.state ≠ .unmapped) ∨ ((op = 2 ∨ op = 3) ∧ x.state = .unmapped)
    let read := op = 1 → s.unitScrub s.ctxIx ((v.extractLsb' 6 50 ++ 0#6).signExtend 64) 64 = s
    s.core.fw = false → s.core.tile.queue = [] →
      ends (.sysRd d 0 0x18) s (s.setG d (s.qstat s.ctxIx))
      ∧ (∀ q : BitVec 4, (s.qstat s.ctxIx).extractLsb' (4 * q.toNat) 2 = (s.queue s.ctxIx q).state.code
          ∧ (s.qstat s.ctxIx).getLsbD (4 * q.toNat + 2) = (s.queue s.ctxIx q).err ∧ (s.qstat s.ctxIx).getLsbD (4 * q.toNat + 3) = s.queueRuns s.ctxIx q)
      ∧ (s.pl = plUser → traps (.sysWr 0 a 0x17) s { cause := 0x09, tval := (Instr.sysWr 0 a 0x17).wordOf })
      ∧ (s.pl = plSup → ends (.sysRd d 0 0x17) s (s.setG d 0)
        ∧ (s.core.cmds = [] →
          (op = 0 → ends (.sysWr 0 a 0x17) s s)
          ∧ (bad → read → ∀ i ∈ [Instr.sysWr 0 a 0x17, .sysSet 0 a 0x17, .sysClr 0 a 0x17], traps i s { cause := 0x89 })
          ∧ (¬ bad → op ≠ 1 → ends (.sysClr 0 a 0x17) s s)
          ∧ ((op = 2 ∧ (x.state = .draining ∨ x.state = .aborting)) ∨ (op = 3 ∧ x.state = .aborting) → ends (.sysWr 0 a 0x17) s s)
          ∧ (op = 2 → x.state = .mapped → ∃ u, ends (.sysWr 0 a 0x17) s u ∧ u.queueRaw s.ctxIx (v.extractLsb' 56 4) = { x with state := .draining, wait := 0 }
              ∧ u.core = { s.core with spawnLost := u.core.spawnLost } ∧ (s.core.spawned = [] → u.core = s.core) ∧ u.mem = s.mem)))

/-- R370, R410 to R413: state registers. The registers that the firmware core has (log 39), the fields that a write
restores (log 40) and the operands that are refused (log 43) are the model's readings. -/
def Obligations.StateRegisters : Prop := Claims.sregForms ∧ Claims.queueRegs

/-! ## Traps and the system forms -/

/-- R396, R414: trap entry, which sys.call and sys.brk take with causes 0xE0 + n and 0xF0 + n; at machine level it
writes the machine registers, with NEST = 1 a synchronous trap is a double trap, else CAUSE, EPC, TVAL and STATUS are
written and the handler begins. EPC of a word of a VP block that fails a check of R62 is that word (R63, R67; log 83). No
other register changes.
R415: sys.ret returns, to a level of R393. That a double trap
of a core outside a task stops that core alone (log 25), and that a trap which names no PIX leaves it (log 60), are the
model's readings. -/
def Obligations.TrapEntryAndReturn : Prop :=
  ∀ (s : State) (t : Trap) (a : BitVec 5) (n : BitVec 4),
    let r := s.core.sys
    let epc := if t.epcNext then s.core.pc + 4
      else if 0x01 ≤ t.cause.toNat ∧ t.cause.toNat ≤ 0x0F ∧ s.core.vp.live = true then (leastPc s.core.vp.pcs).getD s.core.pc else s.core.pc
    let u := s.enterTrap t
    let handler (v : Word) : Word := v &&& ~~~ 3
    let keeps : Prop := u.core.g = s.core.g ∧ u.core.mat = s.core.mat ∧ u.core.port = s.core.port ∧ u.core.sloe = s.core.sloe
      ∧ u.core.cmds = s.core.cmds ∧ u.core.rsvstat = s.core.rsvstat ∧ u.core.detid = s.core.detid ∧ u.core.dstat = s.core.dstat
      ∧ u.core.blk = { s.core.blk with live := false } ∧ u.core.vp = { s.core.vp with live := false }
      ∧ u.core.tile = { s.core.tile with queue := u.core.tile.queue, running := u.core.tile.running }
      ∧ (s.core.wait ≠ some .tileLine → u.core.tile = s.core.tile)
      ∧ u.core.vec = { s.core.vec with pix := u.core.vec.pix } ∧ u.core.run = s.core.run
      ∧ u.rest = s.rest ∧ u.mem = s.mem ∧ u.gangs = s.gangs ∧ u.ctxs = s.ctxs ∧ u.clusters = s.clusters ∧ u.dev = s.dev
    let back := if s.pl = plMach then r.mepc else r.epc
    (t.bad = none → (s.dev.softBytes = [] ∨ t.walked = none) →
      (s.pl = plMach → u.core.sys = { r with mcause := t.cause.setWidth 64, mepc := epc, mtval := t.tval, xlinfo := t.xlinfo.getD r.xlinfo }
        ∧ u.core.pc = handler r.mtvec ∧ u.core.vec = s.core.vec ∧ keeps)
      ∧ (s.pl ≠ plMach → (r.nest = false ∨ t.sync = false) →
        u.core.sys = { r with status := u.core.sys.status, cause := t.cause.setWidth 64, epc := epc, tval := t.tval, xlinfo := t.xlinfo.getD r.xlinfo }
        ∧ u.core.sys.ppl = r.pl ∧ u.core.sys.paie = r.aie ∧ u.core.sys.aie = false ∧ u.core.sys.nest = true ∧ u.core.sys.pl = plSup
        ∧ u.core.sys.status.extractLsb' 7 57 = 0#57 ∧ u.core.vec.pix = t.pix.getD s.core.vec.pix ∧ u.core.pc = handler r.tvec ∧ keeps)
      ∧ (s.pl ≠ plMach → r.nest = true → t.sync = true → u.core.sys = { r with xlinfo := t.xlinfo.getD r.xlinfo } ∧ u.core.pc = s.core.pc ∧ u.core.run = .stopped ∧ u.core.g = s.core.g
        ∧ u.core.vec = { s.core.vec with pix := t.pix.getD s.core.vec.pix } ∧ u.mem = s.mem ∧ u.ctxs = s.ctxs
        ∧ (∀ id, s.core.gang = some id → (∀ c ∈ u.cores, c.gang = some id → c.run = .stopped)
            ∧ u.gangs = s.gangs.map (fun x => if x.id = id then { x with due := some (.double t.cause) } else x))))
    ∧ exec (.sysCall a n) s = .next (s.enterTrap { cause := 0xE0 + n.setWidth 8, tval := s.g a, epcNext := true })
    ∧ exec (.sysBrk a n) s = .next (s.enterTrap { cause := 0xF0 + n.setWidth 8, tval := s.g a })
    ∧ (s.pl = plUser → traps .sysRet s { cause := 0x09, tval := Instr.sysRet.wordOf })
    ∧ (s.pl ≠ plUser → back.toNat % 4 ≠ 0 → traps .sysRet s { cause := 0x0B, tval := Instr.sysRet.wordOf })
    ∧ (s.pl = plMach → back.toNat % 4 = 0 → exec .sysRet s = .next { s with core := { s.core with pc := back, wait := none } })
    ∧ (s.pl = plSup → back.toNat % 4 = 0 → r.ppl = plUser ∨ r.ppl = plSup → ∃ v : State, exec .sysRet s = .next v
        ∧ v = { s with core := { s.core with pc := back, wait := none, sys := { r with status := v.core.sys.status } } }
        ∧ v.core.sys.pl = r.ppl ∧ v.core.sys.aie = r.paie ∧ v.core.sys.nest = false ∧ v.core.sys.paie = r.paie ∧ v.core.sys.ppl = r.ppl)

/-- R416 to R418: the other system forms. sys.ifence, once no command may still write memory, empties what has been fetched
ahead, and traps as xs.wait would where one is held behind a failed port (logs 7, 88); sys.tinval has no effect on the firmware core (log 39). -/
def Claims.systemForms : Prop :=
  ∀ (s : State) (d a b : BitVec 5),
    let mode := (s.g b).extractLsb' 0 2
    let asid : BitVec 12 := (s.ctxAt s.ctxIx).atroot.extractLsb' 52 12
    let goes (e : TlbEntry) : Prop := if mode = 0 then e.serves s.ctxIx asid (va56 (s.g a)) = true
      else if mode = 1 then e.part = s.ctxIx ∧ e.asid = asid ∧ pteG e.leaf = false else e.part = s.ctxIx
    let writers := s.core.cmds.filter (Cmd.writesAt 1)
    let held := writers.find? (fun c => !c.active && (xState (s.xstat c.port) == stOverfill || xState (s.xstat c.port) == stError))
    let pending := (∃ i < 5, s.core.sys.evt.getLsbD i = true ∧ s.core.sys.evten.getLsbD i = true) ∨ ∃ g, s.myGang = some g ∧ g.due ≠ none
    (s.pl = plMach → (s.core.mgmtReq = true → ends .sysWfi s { s with core := { s.core with mgmtReq := false } }) ∧ (s.core.mgmtReq = false → stands .sysWfi s .wfi))
    ∧ (s.pl ≠ plMach → (pending → ends .sysWfi s s) ∧ (¬ pending → stands .sysWfi s .wfi))
    ∧ (writers = [] → ends .sysIfence s { s with core := { s.core with ibuf := [] } })
    ∧ (writers ≠ [] → held = none → stands .sysIfence s .fence)
    ∧ (∀ c, held = some c → traps .sysIfence s { cause := (s.xfault c.port).extractLsb' 56 8, tval := ((s.xfault c.port).extractLsb' 0 56).setWidth 64, xlinfo := some (s.portInfo c.port) })
    ∧ (s.pl = plUser → traps (.sysTinval a b) s { cause := 0x09, tval := (Instr.sysTinval a b).wordOf })
    ∧ (s.pl ≠ plUser → s.core.fw = false → ∃ u, ends (.sysTinval a b) s u ∧ onlyReached s u ∧ u.dev = s.dev
        ∧ (∀ e, e ∈ u.core.tlb ↔ e ∈ s.core.tlb ∧ ¬ goes e)
        ∧ (∀ cl, u.clAt cl = { s.clAt cl with tlb := (u.clAt cl).tlb } ∧ (cl ≠ clusterOf s.core.id → u.clAt cl = s.clAt cl))
        ∧ (∀ e, e ∈ (u.clAt (clusterOf s.core.id)).tlb ↔ e ∈ (s.clAt (clusterOf s.core.id)).tlb ∧ ¬ goes e))
    ∧ (s.pl ≠ plUser → s.core.fw = true → ends (.sysTinval a b) s s)
    ∧ (s.pl ≠ plMach → traps .sysHalt s { cause := 0x0A, tval := Instr.sysHalt.wordOf })
    ∧ (s.pl = plMach → exec .sysHalt s = .next { s.next with core := { s.next.core with run := .halted } })
    ∧ (let w (x : Nat) : Word := BitVec.ofNat 64 (x + (if s.core.fw then 256 else s.ctxIx.toNat * 2 ^ 16) + s.core.id.toNat)
       (s.myGang = none → ends (.sysId d) s (s.setG d (w 0)))
       ∧ (∀ g k, s.myGang = some g → k ≤ 4 → g.cores.length = 2 ^ k → s.core.rank < 16 → ends (.sysId d) s (s.setG d (w (k * 2 ^ 28 + s.core.rank * 2 ^ 24)))))

/-- R61 to R63: a word that fails a check takes the cause of the first; TVAL is the word. -/
def Claims.illegalWords : Prop :=
  ∀ (s : State) (w : BitVec 32) (f : Form),
    (∀ c, s.wordCause w = some c → exec (.illegalInstruction w) s = .next (s.enterTrap { cause := c, tval := w.setWidth 64 }))
    ∧ (w = 0 → s.wordCause w = some 0x01) ∧ (w ≠ 0 → (w.extractLsb' 0 6).toNat ∈ [0x00, 0x17, 0x22, 0x23, 0x33, 0x3E] → s.wordCause w = some 0x02)
    ∧ ((w.extractLsb' 0 6).toNat = 0x3F → s.wordCause w = some 0x03)
    ∧ (formOf (fieldsOf w) = .ok f →
      (s.core.fw = true → f.fw = false → s.wordCause w = some 0x0F)
      ∧ (s.core.fw = false ∨ f.fw = true →
        (f.need = .supervisor → s.pl = plUser → s.wordCause w = some 0x09)
        ∧ (f.need = .machine → s.pl ≠ plMach → s.wordCause w = some 0x0A)
        ∧ (f.need = .user → ∀ c, f.staticCause = some c → s.wordCause w = some c)
        ∧ (f.need = .user → f.staticCause = none → s.core.vp.live = false → s.wordCause w = none)
        ∧ (f.need = .user → f.staticCause = none → s.core.vp.live = true →
            let m := (w.extractLsb' 0 6).toNat
            (s.wordCause w = none ↔ (0x10 ≤ m ∧ m ≤ 0x2B ∨ m = 0x37 ∨ m = 0x3B) ∧ ¬ ∃ a k, f.instr = .vpRun a k)
            ∧ (s.wordCause w = none ∨ s.wordCause w = some 0x0E))))

/-- R404, R405, R416: an enabled event traps with cause 0x80, unless a pre-emption is due that has a slot to go into; that a
pre-emption without one does not hold it back is the model's choice (log 81). What was issued behind the oldest entry of the
XU queue is undone, and that form is the next word, as PIX reports (R63, R188). A multiply form goes on to its end first,
but for one at which the matrix engine stands, which is the next word again (R398; log 8). A waiting sys.wfi completes once its condition
holds. -/
def Claims.coreEvents : Prop :=
  ∀ (s : State),
    let u := s.focus s.ev.c
    let r := u.core.sys
    let enabled := ∃ i < 5, r.evt.getLsbD i = true ∧ r.evten.getLsbD i = true
    let due := ∃ g, u.myGang = some g ∧ g.due ≠ none
    let leaves := ∃ g, u.myGang = some g ∧ g.due ≠ none ∧ (g.due = some .discard ∨ u.freeSlotOf g.ctx ≠ none)
    let idle := ∀ i ∈ [Instr.tileFormExecute, .tileKStepComplete], ∀ v, exec i { u with ev := { EventArg.none with c := u.core.ref } } ≠ .next v
    let t : Trap := { cause := 0x80, tval := BitVec.ofNat 64 ((r.evt.extractLsb' 0 5).toNat + (r.evten.extractLsb' 0 5).toNat * 2 ^ 32), sync := false }
    (u.core.fw = false → u.core.run = .running → enabled → r.pl = plUser ∨ (r.pl = plSup ∧ r.aie = true) → ¬ leaves → u.core.wait ≠ some .wfi →
      ((∀ c ∈ u.core.tile.queue, c.multiplies = false) →
        (u.core.vec.xuq = [] → exec .eventTake s = .next (u.enterTrap t))
        ∧ (∀ x l, u.core.vec.xuq = x :: l → ∃ w : State, exec .eventTake s = .next (w.enterTrap t) ∧ w.core.pc = x.pc ∧ w.core.g = x.g
            ∧ w.core.vec.xuq = [] ∧ w.core.vec.v = u.core.vec.v ∧ w.core.vec.k = u.core.vec.k ∧ w.core.tile = u.core.tile ∧ w.mem = u.mem
            ∧ w.core.vec.pix.getLsbD 31 = true ∧ (w.core.vec.pix = u.core.vec.pix ∨ w.core.vec.pix.extractLsb' 0 10 = 0#10)))
      ∧ (∀ c, u.core.tile.queue.find? TileCmd.multiplies = some c →
        (¬ idle → ∀ w, exec .eventTake s ≠ .next w)
        ∧ (idle → ∃ w : State, exec .eventTake s = .next (w.enterTrap t)
          ∧ w.core.pc = c.journal.pc ∧ w.core.g = c.journal.g ∧ w.core.tile = { u.core.tile with queue := [], running := false } ∧ w.mem = u.mem)))
    ∧ (u.core.fw = false → u.core.wait = some .wfi → enabled ∨ due → exec .wfiWake s = .next u.next)
    ∧ (u.core.fw = true → u.core.wait = some .wfi → exec .wfiWake s = .next u.next)
    ∧ (u.core.fw = true → u.core.wait ≠ some .wfi → exec .wfiWake s = .next { u with core := { u.core with mgmtReq := true } })

/-- R137, R401: the events that end the waits attempt the form that stands there again, unless it is held behind a multiply
form that may still trap (R398); it is the form itself. -/
def Claims.waitEnds : Prop :=
  (∀ (i : Instr) (s : State) (o : Out), reissue i s = some o → o = exec i s)
  ∧ ∀ (s t v : State) (x : BitVec 32) (f : Form),
    let u := s.focus s.ev.c
    u.core.run = .running → (u.core.fw = true ∨ (u.clAt (clusterOf u.core.id)).clpstat.extractLsb' 0 3 = 0#3) →
    u.core.vp.live = false → u.core.blk.live = false → u.interrupted = false → u.core.vec.xuq = [] → u.core.regErr = [] →
    fetchWord u u.core.pc = .ok (x, t) → t.mulPending = false → formOf (fieldsOf x) = .ok f → exec f.instr t = .next v → v.core.wait ≠ u.core.wait → v.core.regErr = [] → reissue f.instr t ≠ none →
    ∀ e ∈ [(Instr.xuGroupComplete, Wait.xuGroup), (.watermarkRelease, .watermark), (.dauStallRelease, .dauStall), (.xsWaitComplete, .xsWait),
      (.cbAcqGrant, .cbAcq), (.plWaitComplete, .plWait), (.gbWaitRelease, .gbWait), (.fenceComplete, .fence), (.taskSpawnPush, .spawn)],
      u.core.wait = some e.2 → exec e.1 s = .next v

/-- R137, R153, R157, R165, R184, R209, R297, R327, R335, R375: where each of these events completes the form that stands:
the group's elements have come, no window is ahead, the queue has room, the port, the ring, Sloe, the barrier or the
earlier commands are as the form asks. -/
def Claims.waitsComplete : Prop :=
  ∀ (s t : State) (x : BitVec 32) (f : Form) (d a b : BitVec 5) (imm : BitVec 16) (n p : BitVec 4) (r : BitVec 3) (c : BitVec 1) (k : BitVec 3) (z : Bool),
    let u := s.focus s.ev.c
    let at' (e : Wait) (i : Instr) : Prop := u.core.wait = some e ∧ f.instr = i
    let v := t.core.vec
    u.core.run = .running → (u.core.fw = true ∨ (u.clAt (clusterOf u.core.id)).clpstat.extractLsb' 0 3 = 0#3) →
    u.core.vp.live = false → u.core.blk.live = false → u.core.regErr = [] → u.interrupted = false → u.core.vec.xuq = [] →
    fetchWord u u.core.pc = .ok (x, t) → t.mulPending = false → formOf (fieldsOf x) = .ok f →
      (at' .gbWait (.gbWait n b) →
        let q := (((rget t.share.gb n).extractLsb' 32 32).toNat - ((t.g b).toNat % 2 ^ 32 : Nat) : Int) % 2 ^ 32
        1 ≤ q → q ≤ 2 ^ 31 → t.core.cmds = [] → exec .gbWaitRelease s = .next t.next)
      ∧ (at' .fence (.fenceAcq r) → t.core.cmds = [] → exec .fenceComplete s = .next t.next)
      ∧ (at' .fence (.fenceRel r) → t.core.cmds.filter (Cmd.writesAt r.toNat) = [] → exec .fenceComplete s = .next t.next)
      ∧ (at' .xsWait (.xsWait p b) → (∀ y ∈ t.core.cmds, y.port ≠ p) → xState (t.xstat p) = stDone → exec .xsWaitComplete s = .next t.next)
      ∧ (at' .cbAcq (.cbAcq d r b) →
        let cfg := t.cbCfg r
        let ring := t.ringCnt r
        let m := ((t.g b).extractLsb' 0 16).toNat
        (t.g b).extractLsb' 16 48 = 0#48 → 1 ≤ m → m ≤ cbCount cfg → m ≤ ring.filled →
          exec .cbAcqGrant s = .next ((t.onCore (fun y => { y with port := { y.port with cbcfg := rset y.port.cbcfg r cfg, cbstat := rset y.port.cbstat r ({ ring with filled := ring.filled - m, heldC := ring.heldC + m, tail := (ring.tail + m) % cbCount cfg } : RingCnt).word } })).setG d
            (BitVec.ofNat 64 (cbBase cfg + cbSlot cfg * ring.tail))).next)
      ∧ (at' .plWait .plWait → (∀ y, Cmd.sloe y ∉ t.core.cmds) → t.core.sloe.failed = [] → exec .plWaitComplete s = .next t.next)
      ∧ (at' .dauStall (.tlZero c) → t.core.tile.queue = [] →
        exec .dauStallRelease s = .next (t.onCore (fun y => { y with tile := { y.tile with acc := rset y.tile.acc c 0 } })).next)
      ∧ (at' .watermark (.ldD d a imm) → ∀ y, reach t t.core.cmds t.pl .sread (t.g a + BitVec.ofInt 64 imm.toInt) 8 = .ok y →
        ∃ o w, exec .watermarkRelease s = .next (o.setG d w).next ∧ onlyReached t o)
      ∧ (at' .spawn (.taskSpawn a b) → ∀ l o, 1 ≤ (t.g b).toNat → (t.g b).toNat ≤ 64 → (t.g a).toNat % 32 = 0 →
        ((t.core.spawned = [] ∧ readRecords (t.g a) (t.g b).toNat (t.g b).toNat t = .ok (l, o))
          ∨ (l ≠ [] ∧ t.core.spawned = l.flatMap Record.words ∧ t.core.spawnLost = false ∧ o = t)) → o.core.cmds = [] →
        (∀ y ∈ l, ¬ Claims.malformed y ∧ y.ctl.getLsbD 16 = false
          ∧ (∃ base, base % (y.ctl.extractLsb' 0 5).toNat = 0 ∧ base + (y.ctl.extractLsb' 0 5).toNat ≤ 256
              ∧ ∀ j < (y.ctl.extractLsb' 0 5).toNat, o.inPart (BitVec.ofNat 8 (base + j)) t.ctxIx = true)
          ∧ (let q := o.queueRaw t.ctxIx (Claims.queueOf y)
             q.state = .mapped ∧ l.countP (fun m => Claims.queueOf m == Claims.queueOf y) + (q.tail - q.head).toNat ≤ q.cap.toNat)) →
          o.dev.badBytes = [] → ∃ w : State, exec .taskSpawnPush s = .next w.next ∧ w.core = { o.core with spawned := [], spawnLost := false })
      ∧ (at' .xuGroup (.vLdq d a k z) →
        let m := memFmt v (t.vop d).tag
        let q : BitVec 4 := a.setWidth 4
        Claims.fits t d → (t.vop d).tag ≠ .e2m1x → m.tag ≠ .e2m1x → 8 ≤ a.toNat → a.toNat ≤ 11 → t.core.hasStream q true = true →
        streamFmt m.tag.code = true → m.tag.width / 8 = 2 ^ (xNsz (t.xstat q)).toNat → (v.vqrd.extractLsb' (16 * (q.toNat - 8)) 16).toNat + v.n ≤ xCnt (t.xstat q) →
          ∃ o : State, exec .xuGroupComplete s = .next o.next ∧ (o.core.vec.vqrd.extractLsb' (16 * (q.toNat - 8)) 16).toNat =
            ((v.vqrd.extractLsb' (16 * (q.toNat - 8)) 16).toNat + v.n) % 2 ^ 16 ∧ o.core.g = t.core.g ∧ o.mem = t.mem)

/-- R184, R185, R187, R402: one element group alone. Where a form that works by elements has more than one group to go and goes
through, XU_GROUP_COMPLETE may complete the next group of it: what it writes stands as after the form with VL at that
boundary, PIX names it there, and the control thread is at the form still. That a group may end so is how the model shows
the boundary of R401 (log 8); N of the block buffer, which short sets aside, keeps its value. -/
def Claims.oneGroup : Prop :=
  ∀ (s t p w : State) (x : BitVec 32) (f : Form),
    let u := s.focus s.ev.c
    let i := f.instr
    let d := pixDest i
    let q := t.groupStep i
    let g := (t.startGroup d.1 d.2 / q + 1) * q
    let short : State := { t with core := { t.core with
      vec := { t.core.vec with vl := t.core.vec.w ++ BitVec.ofNat 16 (16 * g) |>.setWidth 64 }
      blk := { t.core.blk with blk := putFld t.core.blk.blk 12 (0x3F#6) } } }
    u.core.run = .running → (u.core.fw = true ∨ (u.clAt (clusterOf u.core.id)).clpstat.extractLsb' 0 3 = 0#3) →
    u.core.vp.live = false → u.core.blk.live = false → u.interrupted = false → u.core.vec.xuq = [] → u.core.wait = none →
    fetchWord u u.core.pc = .ok (x, t) → t.mulPending = false → t.core.regErr = [] → t.wordCause x = none → formOf (fieldsOf x) = .ok f →
    groupwise i = true → 16 * g < t.core.vec.n →
    exec i t = .next w → w.core.wait = none → w.core.sys = t.core.sys → w.core.regErr = [] →
    exec i short = .next p → p.core.wait = none → p.core.sys = t.core.sys → p.core.regErr = [] →
      ∃ v, exec .xuGroupComplete s = .next v ∧ v.core.vec.v = p.core.vec.v ∧ v.core.vec.k = p.core.vec.k ∧ v.core.mat.m = p.core.mat.m
        ∧ v.mem = p.mem ∧ v.core.vec.vstat = p.core.vec.vstat ∧ v.core.pc = t.core.pc ∧ v.core.g = p.core.g ∧ v.core.vec.vl = t.core.vec.vl
        ∧ v.core.vec.pix.getLsbD 31 = true ∧ (v.core.vec.pix.extractLsb' 0 10).toNat = g % 1024

/-- R61 to R63, R137, R401, R404, R416 to R418: the system forms, words that trap, and the ends of waits. Where a request of
the management controller stands (log 44), what the caches hold (log 10), and that an event is admitted by the level and
AIE alone (log 80) and while a due pre-emption has no slot (log 81), what sys.ifence waits for and empties (log 7), and what
sys.tinval does on the firmware core (log 39), are the model's choices. -/
def Obligations.SystemForms : Prop :=
  Claims.systemForms ∧ Claims.illegalWords ∧ Claims.coreEvents ∧ Claims.waitEnds ∧ Claims.waitsComplete ∧ Claims.oneGroup

/-! ## Service, checkpoints, resets and errors -/

/-- R433, R434: gating. A command in the state that its step names moves STATE and clears REF; in any other it sets REF
and changes nothing. The steps that hardware takes follow. Waking puts the cluster at 32 steps and its cores at 16 lanes;
THCAUSE of the partitions that it serves shows that (R429), and EVT.THROT may be posted; what is held for it stays held
until it runs. A request is held while the stream that made it is there. -/
def Claims.gating : Prop :=
  ∀ (s : State),
    let n := s.ev.cl
    let c := s.clAt n
    let st := (c.clpstat.extractLsb' 0 3).toNat
    let gangs := ∃ g ∈ s.gangs, g.cluster = n
    let becomes (i : Instr) (x : Word) : Prop := ∃ u, exec i s = .next u ∧ u = { s with clusters := u.clusters }
      ∧ (∀ m, m ≠ n → u.clAt m = s.clAt m) ∧ u.clAt n = { c with clpstat := x }
    let at' (k : Nat) : Word := (c.clpstat &&& ~~~ 7) ||| BitVec.ofNat 64 k
    let lanes (y : Core) : Core := if y.fw = false ∧ clusterOf y.id = n then { y with vec := { y.vec with alc := 16 } } else y
    let wakes (i : Instr) (x : Word) : Prop := ∃ u, exec i s = .next u
      ∧ u = { s with core := u.core, rest := u.rest, clusters := u.clusters, ctxs := u.ctxs } ∧ (∀ m, m ≠ n → u.clAt m = s.clAt m)
      ∧ u.clAt n = { c with target := 32, clpstat := (x &&& ~~~ 0xFF000000) ||| 0x20000000 }
      ∧ (∀ r y, s.coreAt r = some y → ∃ e, u.coreAt r = some { lanes y with sys := { y.sys with evt := e } })
      ∧ (∀ p, u.ctxAt p = { s.ctxAt p with thcause := (u.ctxAt p).thcause } ∧ (p ∉ s.partsOf n → u.ctxAt p = s.ctxAt p)
        ∧ (p ∈ s.partsOf n → (∀ m, 32 ≤ (s.clAt m).target) → (u.ctxAt p).thcause.extractLsb' 32 8 = 32#8))
    (∀ f ∈ [(Instr.clpQuiesce, st = 0 ∧ ¬ gangs, 1), (.clpGate, st = 2, 3), (.clpOpen, st = 2, 0)],
      (f.2.1 → becomes f.1 (at' f.2.2 &&& ~~~ 8)) ∧ (¬ f.2.1 → becomes f.1 (c.clpstat ||| 8)))
    ∧ (st = 2 ∨ st = 3 ∨ st = 4 → wakes .clpWake (at' 5 &&& ~~~ 8)) ∧ (¬ (st = 2 ∨ st = 3 ∨ st = 4) → becomes .clpWake (c.clpstat ||| 8))
    ∧ (st = 1 → s.inflight n = 0 → ¬ gangs → c.held.filter s.heldLives = [] → becomes .clpQuiesced (at' 2))
    ∧ (st = 1 → s.inflight n = 0 → gangs ∨ c.held.filter s.heldLives ≠ [] → wakes .clpQuiesced (at' 5))
    ∧ (st = 3 → becomes .clpGated (at' 4)) ∧ (st = 5 → becomes .clpAwake (at' 0))

/-- R427, R446: service of a cluster, and the release of a quarantined frame, which then reads as zero. A cluster that is
isolated is eligible for no boost: it loses the one it has, and THCAUSE shows that. -/
def Claims.service : Prop :=
  ∀ (s : State),
    let n := s.ev.cl
    let c := s.clAt n
    let ready := c.clpstat.extractLsb' 0 3 = 2#3 ∧ c.svcBusy = 0
    let becomes (i : Instr) (x : Cluster) : Prop := ∃ u, exec i s = .next u ∧ u = { s with clusters := u.clusters }
      ∧ (∀ m, m ≠ n → u.clAt m = s.clAt m) ∧ u.clAt n = x
    let d := s.dev
    let addr := s.ev.val.toNat
    (ready → ∃ u, exec .svcIsolate s = .next u ∧ u = { s with core := u.core, rest := u.rest, clusters := u.clusters, ctxs := u.ctxs }
      ∧ u.clAt n = { c with svc := 1, isolated := true, boost := false }
      ∧ (∀ m, m ≠ n → u.clAt m = { s.clAt m with boost := (u.clAt m).boost } ∧ ((s.clAt m).boost = false → (u.clAt m).boost = false))
      ∧ (∀ r y, s.coreAt r = some y → ∃ e, u.coreAt r = some { y with sys := { y.sys with evt := e } })
      ∧ (∀ p, u.ctxAt p = { s.ctxAt p with thcause := (u.ctxAt p).thcause })
      ∧ ((∀ m, (s.clAt m).boost = false) → u = { s with clusters := u.clusters }))
    ∧ (¬ ready → becomes .svcIsolate { c with svc := c.svc ||| 16 })
    ∧ (∀ f ∈ [(Instr.svcRecalibrate, ready ∧ c.isolated = true, { c with svc := 2, svcBusy := 2 }),
        (.svcLoadMicrocode, ready ∧ c.isolated = true, { c with svc := 3, svcBusy := 3 }), (.svcReturn, ready ∧ c.isolated = true, { c with svc := 4, isolated := false })],
      (f.2.1 → becomes f.1 f.2.2) ∧ (¬ f.2.1 → becomes f.1 { c with svc := c.svc ||| 16 }))
    ∧ (c.svcBusy ≠ 0 → becomes .svcDone { c with svc := c.svc ||| 8, svcBusy := 0, microcode := if c.svcBusy = 3 then c.svcAddr else c.microcode })
    ∧ (d.qrel ≠ 1 → exec .qrelRelease s = .next { s with dev := { d with qrelAddr := s.ev.val, qrel := if addr % 65536 = 0 ∧ addr / 65536 ∈ d.quarantine then 1 else 3 } })
    ∧ (d.qrel = 1 → exec .qrelRelease s = .next s)
    ∧ (d.qrel = 1 → s.ev.ok = false → exec .qrelComplete s = .next { s with dev := { d with qrel := 3 } })
    ∧ (d.qrel = 1 → s.ev.ok = true → s.memOk → ∃ u, exec .qrelComplete s = .next u ∧ u.dev.qrel = 2
        ∧ (let f := d.qrelAddr.toNat / 65536
           f ∉ u.dev.quarantine ∧ (∀ x, x ≠ f → (x ∈ u.dev.quarantine ↔ x ∈ d.quarantine)) ∧ (∀ a, a / 65536 = f → u.byteAt a = 0 ∧ u.ownByte a = none ∧ a ∉ u.dev.badBytes)
            ∧ sameBut s u (f * 65536) 65536 ∧ u.core = s.core ∧ u.rest = s.rest ∧ u.ctxs = s.ctxs))

/-- R118, R119, R443, R444: checkpoints. A take marks its slot WRITING and makes every gang due; its end copies the dies,
quarantined frames as zeros, and marks the slot VALID with the next SEQ, or BAD. A restore, while the dies are held, copies
back, with the register storage of the cores and the structures of the clusters, and releases the dies; the limits that the
power controller holds stay, and THCAUSE goes on showing them (R429). Which registers
those are, that their copy stands beside the image's bytes, and that a quarantined directory refuses what it must read or
write, is the model's choice (log 28). -/
def Claims.checkpoints : Prop :=
  ∀ (s : State),
    let slot := s.ev.slot
    let n := slot.toNat
    let entry := 0x103E80000000 + 64 * n
    let image (k : Nat) := 0x103EC0000000 + k * 0xC040000000
    let d := s.dev
    let inImage (k f : Nat) : Prop := image k ≤ f * 65536 ∧ f * 65536 < image k + 0xC040000000
    let ctl (cmd busy : Nat) : Word := BitVec.ofNat 64 (n * 16 + busy * 8 + cmd)
    let refused : Device := { d with ckctl := d.ckctl ||| 128 }
    let refuses (i : Instr) : Prop := exec i s = .next { s with dev := refused }
    let started : Device := { d with ckctl := ctl 2 1, ckRun := some (2, slot) }
    let dir := 0x103E8000
    let sound := d.badBytes = [] ∧ dir ∉ d.quarantine
    let seq (k : Nat) : Nat := (s.peek64 (0x103E80000000 + 64 * k + 8)).toNat
    let top := max (seq 0) (max (seq 1) (max (seq 2) (max (seq 3) (seq 4))))
    let free := d.ckRun = none ∧ n < 5
    (¬ free → refuses .ckptTake ∧ refuses .ckptInvalidate)
    ∧ (¬ free → refuses .ckptRestore)
    ∧ (¬ (s.byteAt (entry + 4) = 2 ∧ d.dierst.getLsbD 0 = true ∧ dir ∉ d.quarantine) → ∃ u, exec .ckptRestore s = .next u ∧ u = { s with dev := refused.withErrors u.dev })
    ∧ (free → dir ∈ d.quarantine → refuses .ckptInvalidate)
    ∧ (free → sound → s.memOk → ∃ u, exec .ckptTake s = .next u ∧ u.dev.ckctl = ctl 1 1 ∧ u.dev.ckRun = some (1, slot) ∧ u.byteAt (entry + 4) = 1
        ∧ Memory.read u.mem entry 4 = toBytes 4 0x5A36434B ∧ sameBut s u entry 5 ∧ u.core = s.core
        ∧ (∀ g ∈ u.gangs, g.due ≠ none) ∧ u.gangs.map Gang.id = s.gangs.map Gang.id)
    ∧ (free → sound → s.byteAt (entry + 4) = 2 → d.dierst.getLsbD 0 = true → ∃ u, exec .ckptRestore s = .next u ∧ u = { s with dev := started.withErrors u.dev })
    ∧ (free → sound → s.memOk → ∃ u, exec .ckptInvalidate s = .next u ∧ u.dev = ({ d with ckctl := ctl 3 0 } : Device).withErrors u.dev ∧ u.byteAt (entry + 4) = 0 ∧ sameBut s u (entry + 4) 1 ∧ u.core = s.core)
    ∧ (∀ k : BitVec 3, k.toNat < 5 → d.ckRun = some (1, k) → s.gangs = [] → s.memOk → d.badBytes = [] → d.heldWrites = [] →
        let e := 0x103E80000000 + 64 * k.toNat
        ∃ u, exec .ckptTakeComplete s = .next u ∧ u.dev.ckRun = none ∧ u.dev.ckctl = d.ckctl &&& ~~~ 8 ∧ u.core = s.core ∧ u.ctxs = s.ctxs
          ∧ (∀ a < 0xC000000000, u.byteAt (image k.toNat + a) = if a / 65536 ∈ d.quarantine then 0 else s.byteAt a)
          ∧ (∀ a < 0x20000000, u.byteAt (image k.toNat + 0xC000000000 + a) = if (0x210000000000 + a) / 65536 ∈ d.quarantine then 0 else s.byteAt (0x210000000000 + a))
          ∧ (∀ a, a < 0x100000000000 ∨ 0x140000000000 ≤ a → u.byteAt a = s.byteAt a)
          ∧ (s.ev.ok = false ∨ (∃ f ∈ d.quarantine, inImage k.toNat f) → dir ∉ d.quarantine → u.byteAt (e + 4) = 3)
          ∧ (s.ev.ok = true → (∀ f ∈ d.quarantine, ¬ inImage k.toNat f) → dir ∉ d.quarantine → u.byteAt (e + 4) = 2 ∧ u.peek64 (e + 8) = BitVec.ofNat 64 (top + 1) ∧ u.peek64 (e + 16) = s.ev.time ∧ Memory.read u.mem (e + 28) 36 = List.replicate 36 0))
    ∧ (∀ k : BitVec 3, k.toNat < 5 → d.ckRun = some (2, k) → s.memOk → d.badBytes = [] → (∀ f ∈ d.quarantine, ¬ inImage k.toNat f) →
        ∃ u, exec .ckptRestoreComplete s = .next u ∧ u.dev.ckRun = none ∧ u.dev.dierst.getLsbD 0 = false
          ∧ (∀ a < 0xC000000000, u.byteAt a = s.byteAt (image k.toNat + a))
          ∧ (∀ a < 0x20000000, u.byteAt (0x210000000000 + a) = s.byteAt (image k.toNat + 0xC000000000 + a))
          ∧ (∀ a, 0x100000000000 ≤ a → a < 0x140000000000 → u.byteAt a = s.byteAt a) ∧ (∀ f ∈ d.quarantine, f ∈ u.dev.quarantine)
          ∧ (∀ r c c', s.coreAt r = some c → u.coreAt r = some c' → c'.g = c.g ∧ c'.pc = c.pc ∧ c'.sys = { c.sys with evt := c'.sys.evt })
          ∧ (∀ x, d.ckpts.find? (fun x => x.slot == k) = some x → u.dev.quadmap = x.quadmap
            ∧ (∀ p, let y := rget x.ctxs p
              let z := s.ctxAt p
              u.ctxAt p = { y with fpc := z.fpc, frk := z.frk, fq := z.fq, heldBack := z.heldBack, thcause := (u.ctxAt p).thcause }
              ∧ ∀ i < 64, ¬ (28 ≤ i ∧ i < 40) → (u.ctxAt p).thcause.getLsbD i = if 16 ≤ i ∧ i < 21 then y.thcause.getLsbD i else z.thcause.getLsbD i) ∧ (∀ f ∈ x.quarantine, f ∈ u.dev.quarantine)
            ∧ (∀ m : BitVec 4, (u.clAt m).quince = (rget x.clusters m).quince ∧ (u.clAt m).tlb = (rget x.clusters m).tlb)
            ∧ (∀ r c y, u.coreAt r = some c → x.cores.find? (fun z => z.ref == r) = some y → c.ref = r →
                c.vec.v = y.vec.v ∧ c.mat.m = y.mat.m ∧ c.tile.acc = y.tile.acc ∧ c.blk.words = y.blk.words)))

/-- R98, R417, R430, R450: resets and power. A reset of the dies puts every core, cluster and context at its reset value and
holds the dies; the second tier and the quarantines stay, and the cap set that the management controller has sent is applied
again (log 29). That the dies' storage then reads as zero is the model's choice
(log 1). -/
def Claims.resets : Prop :=
  ∀ (s : State),
    let d := s.dev
    let fresh (u : State) : Prop := u.core = State.reset.core ∧ u.rest = State.reset.rest ∧ u.clusters = State.reset.clusters ∧ u.ctxs = State.reset.ctxs ∧ u.gangs = []
      ∧ u.dev.dierst = 3 ∧ u.dev.quadmap = Device.reset.quadmap ∧ u.dev.ecccnt = 0 ∧ (d.heldWrites = [] → u.dev.quarantine = d.quarantine)
      ∧ (d.heldWrites = [] → s.memOk → (∀ a < 0xC000000000, u.byteAt a = 0))
    let tier (u : State) : Prop := d.heldWrites = [] → s.memOk → ∀ a, 0x100000000000 ≤ a → a < 0x140000000000 → u.byteAt a = s.byteAt a
    let fw : CoreRef := 1#1 ++ (0#6 ++ s.ev.die)
    (∃ u, exec .dieReset s = .next u ∧ fresh u ∧ tier u ∧ u.dev.pendingCap = d.pendingCap.orElse (fun _ => d.caps) ∧ u.dev.mainPower = d.mainPower ∧ u.dev.auxPower = d.auxPower)
    ∧ (d.mainPower = true → exec .dieRelease s = .next { s with dev := { d with dierst := d.dierst &&& ~~~ 1 } })
    ∧ (d.mainPower = false → exec .dieRelease s = .next s)
    ∧ (d.dierst.extractLsb' 0 2 = 2#2 → exec .firmwareInitComplete s = .next { s with dev := { d with dierst := d.dierst &&& ~~~ 2 } })
    ∧ (d.mainPower = true → ∃ u, exec .mainPowerLoss s = .next u ∧ fresh u ∧ tier u ∧ u.dev.mainPower = false ∧ u.dev.auxPower = d.auxPower)
    ∧ (d.mainPower = false → d.auxPower = true → ∃ u, exec .mainPowerReturn s = .next u ∧ fresh u ∧ tier u ∧ u.dev.mainPower = true ∧ u.dev.auxPower = true)
    ∧ (d.auxPower = true → ∃ u, exec .auxPowerLoss s = .next u ∧ u.dev.auxPower = false ∧ u.dev.ckRun = none
        ∧ (s.memOk → (∀ a, 0x100000000000 ≤ a → a < 0x140000000000 → u.byteAt a = 0) ∧ (∀ a, a < 0x100000000000 ∨ 0x140000000000 ≤ a → u.byteAt a = s.byteAt a)))
    ∧ (d.auxPower = false → ∃ u, exec .coldStart s = .next u ∧ fresh u ∧ u.dev.auxPower = true ∧ u.dev.mainPower = true
        ∧ (s.memOk → d.heldWrites = [] → 0x103E8000 ∉ d.quarantine → ∀ k < 5, u.byteAt (0x103E80000000 + 64 * k + 4) = 0))
    ∧ (∀ c, s.coreAt fw = some c → c.run = .halted → ∃ u, exec .firmwareCoreRestart s = .next u
        ∧ u.coreAt fw = some { c with run := .running, pc := c.sys.mtvec &&& ~~~ 3, wait := none } ∧ (∀ r, r ≠ fw → u.coreAt r = s.coreAt r) ∧ u.mem = s.mem ∧ u.dev = d)

/-- R116 to R119: soft errors, and the patrol scrub: a correctable error is repaired and counted once, saturating; an
uncorrectable one quarantines the 64 KiB frame of a byte in memory, or stays with a register. Data never changes. -/
def Claims.softErrors : Prop :=
  ∀ (s : State),
    let d := s.dev
    let pa := s.ev.pa.toNat
    let count (lo : Nat) : Word := BitVec.ofNat 64 (min 0xFFFF ((d.ecccnt.extractLsb' lo 16).toNat + 1) * 2 ^ lo) ||| (d.ecccnt &&& ~~~ BitVec.ofNat 64 (0xFFFF * 2 ^ lo))
    let devOnly (u : State) : Prop := u = { s with dev := u.dev }
    (pa < 0xC000000000 ∨ (0x100000000000 ≤ pa ∧ pa < 0x140000000000) → ∃ u, exec .patrolScrub s = .next u ∧ devOnly u
        ∧ (pa ∈ d.softBytes → pa ∉ u.dev.softBytes ∧ u.dev.ecccnt = count (if pa < 0xC000000000 then 48 else 32) ∧ u.dev.quarantine = d.quarantine)
        ∧ (pa ∉ d.softBytes → pa ∈ d.badBytes → pa / 65536 ∉ d.quarantine → u.dev.quarantine = pa / 65536 :: d.quarantine ∧ u.dev.ecccnt = count 0)
        ∧ (pa ∉ d.softBytes → pa ∉ d.badBytes → u = s))
    ∧ (∀ x, s.ev.site = .mem x true → ∃ u, exec .softError s = .next u ∧ devOnly u ∧ ∀ b, b ∈ u.dev.softBytes ↔ b = x.toNat ∨ b ∈ d.softBytes)
    ∧ (∀ x, s.ev.site = .mem x false → ∃ u, exec .softError s = .next u ∧ devOnly u ∧ ∀ b, b ∈ u.dev.badBytes ↔ b = x.toNat ∨ b ∈ d.badBytes)
    ∧ (∀ c r, s.ev.site = .reg c r true → exec .softError s = .next { s with dev := { d with ecccnt := count 16 } })
    ∧ (∀ c r y, s.ev.site = .reg c r false → s.coreAt c = some y → ∃ u l, exec .softError s = .next u ∧ u.coreAt c = some { y with regErr := l }
        ∧ (∀ x, x ∈ l ↔ x = r ∨ x ∈ y.regErr) ∧ (∀ z, z ≠ c → u.coreAt z = s.coreAt z) ∧ u.mem = s.mem ∧ u.dev = d)

/-- R98, R116 to R119, R417, R433, R434, R443, R444, R446, R450: service. What SVC and QREL refuse (log 20), what an image
holds beside memory (log 28), what a reset keeps (log 29), what the dies' memory then reads as (log 1), and that a
correctable register error is counted at once (log 55), are the model's choices. -/
def Obligations.ServiceAndCheckpoints : Prop :=
  Claims.gating ∧ Claims.service ∧ Claims.checkpoints ∧ Claims.resets ∧ Claims.softErrors

/-! ## Host, peers and management -/

/-- R379, R404, R429, R438, R440, R441, R444, R450: the host's command window and the control registers. A write of QUADMAP
may change THCAUSE of the partitions that it names, and post EVT.THROT; a cluster that is eligible no longer loses its boost
(R427). -/
def Claims.hostWindow : Prop :=
  ∀ (s : State),
    let ctx := s.ev.ctx
    let v := s.ev.val
    let q := v.extractLsb' 0 4
    let n := (v.extractLsb' 16 16).toNat
    let x := s.queue ctx q
    let most := if x.state = .unmapped ∧ x.desc = none then 32768 else x.cap.toNat
    let good := v.extractLsb' 4 12 = 0#12 ∧ v.extractLsb' 32 32 = 0#32 ∧ 1 ≤ n ∧ n ≤ most
    let at' := s.ev.pa.toNat
    (good → exec .hostDoorbell s = .next (s.notify ctx q n))
    ∧ (¬ good → ∃ u, exec .hostDoorbell s = .next u ∧ u = { s with core := u.core, rest := u.rest }
        ∧ (∀ c ∈ u.cores, c.fw = false → s.inPart c.id ctx = true → c.sys.evt.getLsbD 3 = true))
    ∧ (v.getLsbD 0 = false → exec .hostEvtpost s = .next s)
    ∧ (∀ k, v.getLsbD 0 = true → k < 256 → s.inPart (BitVec.ofNat 8 k) ctx = true → (∀ j < k, s.inPart (BitVec.ofNat 8 j) ctx = false) →
        ∀ c, s.coreAt (numbered (BitVec.ofNat 8 k)) = some c → ∃ u, exec .hostEvtpost s = .next u
          ∧ u.coreAt (numbered (BitVec.ofNat 8 k)) = some { c with sys := { c.sys with evt := c.sys.evt ||| 1 } }
          ∧ (∀ r, r ≠ numbered (BitVec.ofNat 8 k) → u.coreAt r = s.coreAt r) ∧ u.mem = s.mem ∧ u.dev = s.dev)
    ∧ (∀ k < 256, at' = 0x1000 * k + 0x10 → ∃ u w, exec .controlRegisterWrite s = .next u ∧ exec .hostDoorbell { s with ev := { s.ev with ctx := BitVec.ofNat 8 k } } = .next w ∧ u = { w with ev := u.ev })
    ∧ (at' = 0x102000 → v.getLsbD 0 = false → s.dev.mainPower = true → exec .controlRegisterWrite s = .next { s with dev := { s.dev with dierst := s.dev.dierst &&& ~~~ 1 } })
    ∧ (∀ k < 64, at' = 0x300000001000 + 8 * k → ∃ u, exec .controlRegisterWrite s = .next u
        ∧ u = { s with dev := { s.dev with quadmap := u.dev.quadmap }, core := u.core, rest := u.rest, ctxs := u.ctxs, clusters := u.clusters }
        ∧ (∀ m, u.clAt m = { s.clAt m with boost := (u.clAt m).boost } ∧ ((u.clAt m).boost = true ↔ (s.clAt m).boost = true ∧ u.eligible m = true))
        ∧ u.dev.quadmap.toList = s.dev.quadmap.toList.set k (v &&& 0xC0000000000000FF)
        ∧ (∀ r y, s.coreAt r = some y → ∃ e, u.coreAt r = some { y with sys := { y.sys with evt := e } })
        ∧ (∀ p, u.ctxAt p = { s.ctxAt p with thcause := (u.ctxAt p).thcause }
          ∧ (p ≠ v.extractLsb' 0 8 → p ≠ (s.dev.quadmap.toList.getD k 0).extractLsb' 0 8 → (∀ m, (u.clAt m).boost = (s.clAt m).boost) → u.ctxAt p = s.ctxAt p)))
    ∧ (∀ k < 256, ∀ p : BitVec 4, at' = 0x1000 * k + 0x100 + 16 * p.toNat →
        let y := rget s.dev.spaes p
        (y.spown.getLsbD 63 = true ∧ y.spown.extractLsb' 0 8 = BitVec.ofNat 8 k → exec .controlRegisterWrite s = .next { s with dev := { s.dev with
          spaes := rset s.dev.spaes p { y with spring := v &&& 0xF0FFFFFFFFFFFFFF, head := 0, past := y.busy.isSome } } })
        ∧ (¬ (y.spown.getLsbD 63 = true ∧ y.spown.extractLsb' 0 8 = BitVec.ofNat 8 k) → exec .controlRegisterWrite s = .next s))

/-- R333, R437: CXL.mem. A read of memory that a decoder serves answers its bytes, and a write stores them; a write to the
checkpoint region, and any access to device memory while the dies are in reset, gets an error completion; so does a write
that needs uncorrectable bytes. A write during a take is held. That the granule of ECC is 8 bytes in every memory (log 82),
and that what a take writes of registers reads as free values (log 28), is the model's choice. -/
def Claims.hostMemory : Prop :=
  ∀ (s : State),
    let pa := s.ev.pa.toNat
    let n := s.ev.len.toNat
    let l := s.ev.bytes
    let d := s.dev
    let inside (a n lo hi : Nat) : Prop := 1 ≤ n ∧ lo ≤ a ∧ a + n ≤ hi
    let up := d.dierst.extractLsb' 0 2 = 0#2 ∧ d.mainPower = true
    let served (n : Nat) : Prop := (inside pa n 0 0xC000000000 ∧ up) ∨ (inside pa n 0x100000000000 0x103E80000000 ∧ d.auxPower = true)
    let saying (m : OutMsg) : Device := { d with out := d.out ++ [m] }
    let own (a : Nat) : Prop := ∃ x ∈ d.ckOwn,
      let o := 0x103EC0000000 + x.1.toNat * 0xC040000000
      (o + 0xC020000000 ≤ a ∧ a < o + 0xC028000000) ∨ (o + 0xC03C000000 ≤ a ∧ a < o + 0xC040000000)
    (served n → d.quarantine = [] → d.badBytes = [] → d.softBytes = [] →
      exec .hostMemRead s = .next { s with dev := saying (.readData s.ev.pa (Memory.read s.mem pa n)) })
    ∧ (inside pa n 0x103E80000000 0x140000000000 → d.auxPower = true → d.quarantine = [] → d.badBytes = [] → d.softBytes = [] →
      ∃ b : List Byte, exec .hostMemRead s = .next { s with dev := saying (.readData s.ev.pa b) } ∧ b.length = n ∧ ∀ i < n, ¬ own (pa + i) → b[i]? = some (s.byteAt (pa + i)))
    ∧ (inside pa n 0 0xC000000000 → ¬ up → exec .hostMemRead s = .next { s with dev := saying (.readError s.ev.pa) })
    ∧ (served l.length → d.quarantine = [] → d.badBytes = [] → d.ckRun = none → s.memOk → ∃ u, exec .hostMemWrite s = .next u ∧ u.dev.out = d.out ++ [.writeDone s.ev.pa]
        ∧ Memory.read u.mem pa l.length = l ∧ sameBut s u pa l.length ∧ u.core = s.core ∧ u.rest = s.rest ∧ u.ctxs = s.ctxs)
    ∧ (inside pa l.length 0x103E80000000 0x140000000000 ∨ (inside pa l.length 0 0xC000000000 ∧ ¬ up) →
      exec .hostMemWrite s = .next { s with dev := saying (.writeError s.ev.pa) })
    ∧ (∀ a, served l.length → d.quarantine = [] → d.ckRun = none → d.badBytes.find? (fun b => pa / 8 ≤ b / 8 ∧ b / 8 ≤ (pa + l.length - 1) / 8 ∧ ¬ (pa ≤ b / 8 * 8 ∧ b / 8 * 8 + 8 ≤ pa + l.length)) = some a →
      ∃ u, exec .hostMemWrite s = .next u ∧ u.mem = s.mem ∧ u.dev.out = d.out ++ [.writeError s.ev.pa] ∧ u.dev.quarantine = [a / 65536])
    ∧ (∀ k, served l.length → d.ckRun = some (1, k) →
      exec .hostMemWrite s = .next { s with dev := { d with heldWrites := d.heldWrites ++ [⟨none, pa, l⟩] } })

/-- R440 to R442: Spaes ports. A peer's write within the receive window of a port that serves a context is stored, any
other is refused; the engine sends the entries of the ring in order, and counts each in its completion word; SPOWN
changes owner while the port is idle. -/
def Claims.spaesPorts : Prop :=
  ∀ (s : State),
    let p := s.ev.p
    let x := rget s.dev.spaes p
    let V := x.spown.getLsbD 63
    let base := (x.sprx.extractLsb' 16 36).toNat * 65536
    let len := (x.sprx.extractLsb' 52 12).toNat * 65536
    let o := s.ev.off.toNat
    let l := s.ev.bytes
    let put (y : SpaesPort) (out : List OutMsg) : State := { s with dev := { s.dev with spaes := rset s.dev.spaes p y, out := out } }
    let ctx := x.spown.extractLsb' 0 8
    let k := (x.spring.extractLsb' 60 4).toNat
    let ring : Word := (x.spring.extractLsb' 0 56).signExtend 64
    let entry := s.unitRecord ctx (ring + BitVec.ofNat 64 (32 * (x.head.toNat % 2 ^ k)))
    let fine := entry.code.toNat % 64 = 0 ∧ entry.join.toNat % 64 = 0 ∧ 64 ≤ entry.join.toNat ∧ entry.join.toNat ≤ 2 ^ 30
    let new := s.ev.val
    let changes := new.getLsbD 63 ≠ V ∨ new.extractLsb' 0 8 ≠ ctx
    let kept : Word := new &&& 0x80000000000000FF
    (V = true → l ≠ [] → o + l.length ≤ len → base + o + l.length ≤ 0xC000000000 → s.dev.dierst.extractLsb' 0 2 = 0#2 → s.dev.mainPower = true →
        s.dev.quarantine = [] → s.dev.badBytes = [] → s.dev.ckRun = none → s.memOk → ∃ u, exec .peerWriteIn s = .next u ∧ Memory.read u.mem (base + o) l.length = l
          ∧ sameBut s u (base + o) l.length ∧ u.core = s.core ∧ u.rest = s.rest)
    ∧ (V = false ∨ len < o + l.length → exec .peerWriteIn s = .next { s with dev := { s.dev with out := s.dev.out ++ [.peerRefused p] } })
    ∧ (∀ t, V = true → 1 ≤ k → k ≤ 12 → x.busy = none → s.dev.badBytes = [] → s.dev.softBytes = [] → s.springTail p = some t → t ≠ x.head →
        (∀ data, fine → spaesBytes s ctx entry.code (entry.join.toNat / 64) = some data →
          exec .spaesSendEntry s = .next (put { x with busy := some entry.ctl, bad := false } (s.dev.out ++ [.peerData p entry.frame data])))
        ∧ (¬ fine ∨ spaesBytes s ctx entry.code (entry.join.toNat / 64) = none → exec .spaesSendEntry s = .next (put { x with busy := some entry.ctl, bad := true } s.dev.out)))
    ∧ (∀ c, x.busy = some c → s.dev.badBytes = [] → s.dev.softBytes = [] → ∃ u, exec .spaesEntryComplete s = .next u ∧ u = { put { x with busy := none, past := false, bad := false, head := if x.past = true then x.head else x.head + 1 } s.dev.out with mem := u.mem }
        ∧ (∀ pa, s.memOk → c.toNat % 8 = 0 → s.unitPlace ctx .atomic c 8 = some pa → sameBut s u pa 8
            ∧ u.peek64 pa = s.peek64 pa + (if s.ev.ok = true ∧ x.bad = false then 1 else 0x100000000)))
    ∧ (¬ changes → exec .spownWrite s = .next (put { x with spown := kept } s.dev.out))
    ∧ (changes → s.dev.badBytes = [] → s.dev.softBytes = [] → s.spaesBusy p = true → exec .spownWrite s = .next (put { x with spown := x.spown ||| 0x4000000000000000 } s.dev.out))
    ∧ (changes → s.dev.badBytes = [] → s.dev.softBytes = [] → s.spaesBusy p = false → exec .spownWrite s = .next (put { SpaesPort.reset with spown := kept } s.dev.out))

/-- R430, R445: Tygen messages. A cap set newer than the last is kept for the next interval and acknowledged, a stale one
is ignored; a readback answers every request in order, under its SEQ. A message that stands as a datagram is the one that
it holds. COUNT of an acknowledgement is the model's choice (log 22). -/
def Claims.tygen : Prop :=
  ∀ (s : State),
    let m := s.ev.msg
    let d := s.dev
    let last := match d.pendingCap with
      | some x => max x.seq.toNat d.capSeq.toNat
      | none => d.capSeq.toNat
    let exists' (p : BitVec 8) : Prop := ∃ q ∈ d.quadmap.toList, q.getLsbD 62 = true ∧ q.getLsbD 63 = false ∧ q.extractLsb' 0 8 = p
    let core (n i : BitVec 8) (c : BitVec 8) : ReadReq := ⟨1, c, n, i, 0⟩
    let gram (type count : Nat) (seq : Word) : List Byte := toBytes 4 0x5459474E ++ toBytes 2 type ++ toBytes 2 count ++ toBytes 8 seq.toNat
    let plain (m : CapSet) (l : List ReadReq) (seq : Word) : State := { s with ev := { s.ev with bytes := [], msg := m, reqs := l, val := seq } }
    (∀ m' : CapSet, m'.entries.length < 65536 →
      s.ev.bytes = gram 1 m'.entries.length m'.seq ++ toBytes 4 m'.moduleCap.toNat ++ toBytes 4 0
        ++ m'.entries.flatMap (fun e => [e.part, e.rank, 0, 0] ++ toBytes 2 e.cap.toNat ++ toBytes 2 0) →
      ∃ u w, exec .tygenCapSet s = .next u ∧ exec .tygenCapSet (plain m' s.ev.reqs s.ev.val) = .next w ∧ u = { w with ev := s.ev })
    ∧ (∀ (l : List ReadReq) (seq : Word), l.length < 65536 →
      s.ev.bytes = gram 2 l.length seq ++ l.flatMap (fun r => [r.kind, r.core, r.n, r.i, 0, 0, 0, 0] ++ toBytes 8 r.addr.toNat) →
      ∃ u w, exec .tygenReadback s = .next u ∧ exec .tygenReadback (plain m l seq) = .next w ∧ u = { w with ev := s.ev })
    ∧ (∀ seq r, (OutMsg.capAck seq r).datagram = gram 0x81 0 seq ++ toBytes 4 r.toNat)
    ∧ (∀ seq (l : List (Word × Word)), (OutMsg.readback seq l).datagram = gram 0x82 l.length seq ++ l.flatMap (fun x => toBytes 8 x.1.toNat ++ toBytes 8 x.2.toNat))
    ∧ (s.ev.bytes = [] → m.seq.toNat ≤ last → exec .tygenCapSet s = .next { s with dev := { d with out := d.out ++ [.capAck m.seq 1] } })
    ∧ (s.ev.bytes = [] → last < m.seq.toNat → (∀ e ∈ m.entries, exists' e.part) → exec .tygenCapSet s = .next { s with dev := { d with pendingCap := some m, out := d.out ++ [.capAck m.seq 0] } })
    ∧ (s.ev.bytes = [] → last < m.seq.toNat → (∃ e ∈ m.entries, ¬ exists' e.part) → exec .tygenCapSet s = .next { s with dev := { d with pendingCap := some m, out := d.out ++ [.capAck m.seq 2] } })
    ∧ (s.ev.bytes = [] → d.softBytes = [] → d.badBytes = [] → exec .tygenReadback s = .next { s with dev := { d with out := d.out ++ [.readback s.ev.val (s.ev.reqs.map s.readback)] } })
    ∧ (∀ k < 64, s.readback ⟨0, 0, 0, 0, BitVec.ofNat 64 (0x300000001000 + 8 * k)⟩ = (0, d.quadmap.toList.getD k 0))
    ∧ s.readback ⟨0, 0, 0, 0, 0x300000005000⟩ = (0, d.dierst) ∧ s.readback ⟨0, 0, 0, 0, 0x300000000000⟩ = (1, 0)
    ∧ (∀ c y, s.coreAt (numbered c) = some y → y.gang ≠ none → s.readback (core 0x00 0 c) = (0, y.vec.vl) ∧ s.readback (core 0x42 0 c) = (0, y.sys.epc)
        ∧ s.readback (core 0x40 0 c) = (0, y.sys.status) ∧ s.readback (core 0x05 1 c) = (1, 0) ∧ s.readback (core 0x7F 0 c) = (1, 0))

/-- R333, R379, R404, R430, R437, R438, R440 to R442, R445: the host, peers and the management controller. What a write of
SPRING restarts (log 19), which registers BAR0 has (log 21), what Tygen leaves open (log 22), what an access of a unit
that cannot be made leaves (log 32), and what an address of the control space that holds no register does (log 30), are the
model's choices. -/
def Obligations.HostAndPeers : Prop := Claims.hostWindow ∧ Claims.hostMemory ∧ Claims.spaesPorts ∧ Claims.tygen

/-! ## Power and quotas -/

/-- ALC one value down (R426). -/
def Claims.fewer (a : Nat) : Nat := if a = 64 then 48 else if a = 48 then 32 else 16

/-- ALC one value up (R426). -/
def Claims.more (a : Nat) : Nat := if a = 16 then 32 else if a = 32 then 48 else 64

/-- R426: current above ICMAX, 220 A in units of 0.25 A, and each further 50 ns of it: ALC of every core of the cluster
steps down, Fcur of the next interval is the target less 4 steps; at TJEM or above ALC is 16 and Fth 32, and the cluster has no boost. Every core of a cluster has one of the
four values of ALC. -/
def Claims.currentLimit : Prop :=
  ∀ (s : State),
    let n := s.ev.cl
    let c := s.clAt n
    let hot := 110 ≤ (c.clpstat.extractLsb' 32 8).toNat
    let lanes (y : Core) : Core := if y.fw = false ∧ clusterOf y.id = n then
      { y with vec := { y.vec with alc := BitVec.ofNat 64 (if hot then 16 else Claims.fewer y.vec.alc.toNat) } } else y
    880 < s.ev.val.toNat → (∀ y ∈ s.cores, y.vec.alc.toNat ∈ [16, 32, 48, 64]) →
    ∀ i ∈ [Instr.currentLimitTrip, .currentLimitRepeat], ∃ u, exec i s = .next u
      ∧ u = { s with core := u.core, rest := u.rest, clusters := u.clusters, ctxs := u.ctxs }
      ∧ (∀ r y, s.coreAt r = some y → ∃ e, u.coreAt r = some { lanes y with sys := { y.sys with evt := e } })
      ∧ (¬ hot ∨ (∀ m, (s.clAt m).boost = false) → u = { s with core := lanes s.core, rest := s.rest.map lanes, clusters := u.clusters })
      ∧ (∀ p, u.ctxAt p = { s.ctxAt p with thcause := (u.ctxAt p).thcause })
      ∧ (∀ m, m ≠ n → u.clAt m = { s.clAt m with boost := (u.clAt m).boost } ∧ (¬ hot ∨ (s.clAt m).boost = false → u.clAt m = s.clAt m))
      ∧ u.clAt n = { c with fcurNext := some (max 32 (c.target - 4)), fth := if hot then 32 else c.fth, boost := c.boost && !hot }

/-- R384, R424 to R432: a control interval. Limits and lanes follow the samples, caps that have arrived are applied,
energy is taken from REM, every cluster that is not waking moves to its target, by at most 8 steps but for the emergency,
THCAUSE reports what limited the interval that ends, and the pool of currants is what the allowance leaves. How Fq follows
the energy, what a sample is, how shares of energy round, and that a cluster of several partitions takes the least of
their limits, are the model's choices (log 18). -/
def Claims.interval : Prop :=
  ∀ (s : State),
    let smp := s.ev.smp
    let quiet (x : ClusterSample) : Prop := 10 * x.peak.toNat < 9 * 880
    let share (p : BitVec 8) (n : Nat) : Nat :=
      let x := clusterSample smp (BitVec.ofNat 4 n)
      let mine := (List.range 16).filter (fun i => s.inPart (BitVec.ofNat 8 (16 * n + i)) p)
      let cycles (l : List Nat) : Nat := (l.map (fun i => (x.active[i]?).getD 0)).sum
      x.energy * cycles mine / max 1 (cycles (List.range 16)) + x.shared * mine.length / 16
    ∃ u, exec .controlInterval s = .next u ∧ u.mem = s.mem ∧ u.core.g = s.core.g ∧ u.core.pc = s.core.pc ∧ u.core.run = s.core.run ∧ u.gangs.map Gang.id = s.gangs.map Gang.id
      ∧ u.dev.interval = s.dev.interval + 1 ∧ u.dev.visits = 0 ∧ u.dev.pendingCap = none
      ∧ (s.dev.pendingCap = none → u.dev.caps = s.dev.caps)
      ∧ (∀ m, s.dev.pendingCap = some m → u.dev.caps = some { m with entries := m.entries.filter (fun e => s.partitionExists e.part) })
      ∧ (u.dev.pool : Int) = max 0 ((if u.dev.moduleCap = 0 then 6400 else 2 * (u.dev.moduleCap.toNat : Int)) - smp.overhead
          - ((List.range 16).map (fun i => (clusterSample smp (BitVec.ofNat 4 i)).need)).sum)
      ∧ (∀ n : BitVec 4,
        let c := s.clAt n
        let v := u.clAt n
        let x := clusterSample smp n
        let t := x.temp.toNat
        v.clpstat.extractLsb' 32 8 = x.temp ∧ v.clpstat.extractLsb' 40 12 = x.curr ∧ v.power = x.power ∧ v.clpstat.extractLsb' 0 8 = c.clpstat.extractLsb' 0 8
        ∧ v.fth = (if 110 ≤ t then 32 else if 100 ≤ t then max 32 (c.fth - 1) else if t < 95 then min 148 (c.fth + 1) else c.fth)
        ∧ v.fcurNext = none ∧ v.fcur = c.fcurNext.getD (if quiet x ∧ (∀ y ∈ s.cores, y.fw = false → clusterOf y.id = n → y.vec.alc = 64) then min 148 (c.fcur + 4) else c.fcur)
        ∧ (c.clpstat.extractLsb' 0 3 = 5#3 → v.target = c.target)
        ∧ (c.clpstat.extractLsb' 0 3 ≠ 5#3 →
          v.clpstat.extractLsb' 24 8 = BitVec.ofNat 8 v.target ∧ (t < 110 → c.target ≤ v.target + 8 ∧ v.target ≤ c.target + 8)
          ∧ (∀ p, (∀ y ∈ u.partsOf n, y = p) → u.partsOf n ≠ [] →
            let z := u.ctxAt p
            let f := min v.fth (min v.fcur (min z.fpc (min z.frk (min z.fq (if v.boost then 148 else 132)))))
            v.target = if 110 ≤ t then f else max (c.target - 8) (min (c.target + 8) f))))
      ∧ (s.core.fw = false → s.core.vec.alc.toNat ∈ [16, 32, 48, 64] →
          let x := clusterSample smp (clusterOf s.core.id)
          u.core.vec = { s.core.vec with alc := if 110 ≤ x.temp.toNat then 16 else if quiet x ∧ (s.clAt (clusterOf s.core.id)).clpstat.extractLsb' 0 3 ≠ 5#3 then BitVec.ofNat 64 (Claims.more s.core.vec.alc.toNat) else s.core.vec.alc })
      ∧ (∀ p : BitVec 8,
        let c := s.ctxAt p
        let v := u.ctxAt p
        let y := partSample smp p
        let rem := (c.equota.extractLsb' 0 32).toNat
        let spent := c.energy + ((List.range 16).map (share p)).sum + 20 * y.devBytes + 125 * y.tierBytes
        let quota := c.eqcfg.extractLsb' 0 24 ≠ 0#24
        let cap := (v.thcause.extractLsb' 48 16).toNat
        (v.equota.extractLsb' 0 32).toNat = rem - spent / 2000000000 ∧ v.energy = spent % 2000000000 ∧ v.elapsed = (if quota then c.elapsed + 1 else c.elapsed)
        ∧ (quota → 0 < rem → rem ≤ spent / 2000000000 → v.equota.getLsbD 63 = true) ∧ (¬ quota → v.equota.getLsbD 63 = c.equota.getLsbD 63 ∧ v.fq = 148)
        ∧ 32 ≤ v.fq ∧ v.fq ≤ 148
        ∧ v.fpc = (if cap = 0 then min 148 (c.fpc + 1) else
            let lim := min y.demand cap
            if lim < y.power then max 32 (c.fpc - 1) else if 100 * y.power < 97 * lim then min 148 (c.fpc + 1) else c.fpc)
        ∧ (s.dev.pendingCap = none → v.thcause.extractLsb' 40 24 = c.thcause.extractLsb' 40 24)
        ∧ (∀ m, s.dev.pendingCap = some m → (∀ e ∈ m.entries, e.part ≠ p) → v.thcause.extractLsb' 40 24 = 0#24)
        ∧ (∀ m e, s.dev.pendingCap = some m → m.entries.filter (fun e => e.part == p) = [e] → s.partitionExists p = true → v.thcause.extractLsb' 40 24 = e.cap ++ e.rank)
        ∧ v.thcause.extractLsb' 16 5 = c.thcause.extractLsb' 16 5 ||| v.thcause.extractLsb' 8 5
        ∧ (v.thcause.getLsbD 8 = true ↔ ∃ n, p ∈ s.partsOf n ∧ (s.clAt n).fth < 132) ∧ (v.thcause.getLsbD 9 = true ↔ ∃ n, p ∈ s.partsOf n ∧ (s.clAt n).fcur < 132)
        ∧ v.thcause.getLsbD 10 = decide (c.fpc < 132) ∧ v.thcause.getLsbD 11 = decide (c.frk < 132) ∧ v.thcause.getLsbD 12 = decide (c.fq < 132)
        ∧ (v.thcause.getLsbD 0 = true ↔ ∃ n, p ∈ s.partsOf n ∧ (s.clAt n).boost = true))

/-- R427, R446: a visit of the currant token at the die whose turn it is. Clusters of the die that are not isolated give back what exceeds their
need and take what they lack, in ascending order, as far as the pool allows; none is lost. -/
def Claims.tokenVisit : Prop :=
  ∀ (s : State),
    let mine (n : BitVec 4) : Prop := n.extractLsb' 2 2 = s.ev.die ∧ (s.clAt n).isolated = false
    let held (u : State) : Nat := ((List.range 16).map (fun i => (u.clAt (BitVec.ofNat 4 i)).currants)).sum
    s.dev.visits < 4 → s.ev.die.toNat = (s.dev.interval + s.dev.visits) % 4 →
    ∃ u, exec .currantTokenVisit s = .next u ∧ u = { s with clusters := u.clusters, dev := { s.dev with pool := u.dev.pool, visits := s.dev.visits + 1 } }
      ∧ u.dev.pool + held u = s.dev.pool + held s
      ∧ (∀ n, ¬ mine n → u.clAt n = s.clAt n)
      ∧ (∀ n, mine n → u.clAt n = { s.clAt n with currants := (u.clAt n).currants } ∧ (u.clAt n).currants ≤ s.needOf n ∧ (0 < u.dev.pool → (u.clAt n).currants = s.needOf n))
      ∧ (∀ n m, mine n → mine m → n.toNat < m.toNat → (s.clAt m).currants ≤ s.needOf m → (s.clAt m).currants < (u.clAt m).currants → (u.clAt n).currants = s.needOf n)

/-- R384, R385: an exhausted quota sets EXH and makes every gang of the context due; at the end of a period REM is LIMIT
again. -/
def Claims.quotas : Prop :=
  ∀ (s : State),
    let p := s.ev.ctx
    let x := s.ctxAt p
    let period := (x.eqcfg.extractLsb' 0 24).toNat
    (period ≠ 0 → x.equota.extractLsb' 0 32 = 0#32 → (x.equota.getLsbD 63 = false ∨ ∃ g ∈ s.gangs, g.ctx = p ∧ g.due = none) →
      ∃ u, exec .equotaExhaust s = .next u ∧ (u.ctxAt p).equota = x.equota ||| 0x8000000000000000
        ∧ (∀ g ∈ u.gangs, g.ctx = p → g.due ≠ none) ∧ u.gangs.map Gang.id = s.gangs.map Gang.id ∧ u.mem = s.mem ∧ u.core.g = s.core.g
        ∧ (x.equota.getLsbD 63 = false → ∀ c ∈ u.cores, c.fw = false → s.inPart c.id p = true → c.sys.evt.getLsbD 1 = true))
    ∧ (period ≠ 0 → period ≤ x.elapsed → ∃ u, exec .quotaRefill s = .next u ∧ u = { s with ctxs := u.ctxs }
        ∧ (∀ c, c ≠ p → u.ctxAt c = s.ctxAt c) ∧ u.ctxAt p = { x with equota := (u.ctxAt p).equota, elapsed := x.elapsed - period }
        ∧ (u.ctxAt p).equota.extractLsb' 0 32 = x.eqcfg.extractLsb' 32 32 ∧ (u.ctxAt p).equota.extractLsb' 32 32 = x.equota.extractLsb' 32 32)

/-- R384, R385, R424 to R432: power, current and energy. -/
def Obligations.PowerAndQuotas : Prop := Claims.currentLimit ∧ Claims.interval ∧ Claims.tokenVisit ∧ Claims.quotas

/-! ## A step -/

/-- R63 to R65, R131 to R135, R388: what a step runs. With the core in focus next on the schedule, running, its cluster
in RUN, no pre-emption or event due, no command that may start and nothing in the XU queue, the word at the pc, of the block buffer in a run, or of the group with the least
PC in a VP block, is executed if it passes the checks of R62 (and no register holds an error), and otherwise traps; a
fetch that faults traps. In plain memory the word is the four bytes at the address, least significant first, where the
core has fetched none of them ahead. That the XU queue is empty but for turns of the schedule that fill it is the model's
choice (log 8), and so is when a core fetches ahead (log 7). -/
def Obligations.StepRunsDecoded : Prop :=
  ∀ (s t : State) (w : BitVec 32) (f : Form) (r : List Turn),
    let s' : State := { s with sched := r }
    let c := s.core
    let quiet := (c.blk.live = true → c.blk.unread = false) ∧ (∀ g, s.myGang = some g → g.due = none) ∧ s.eventDue = false ∧ s.startDue = none ∧ c.vec.xuq = [] ∧ s.mulPending = false
      ∧ (c.seqHeld = [] ∨ (c.vec.pix.getLsbD 31 = false ∧ c.tile.tprog.getLsbD 63 = false))
    s.sched = .core c.ref :: r → s.dev.dierst.extractLsb' 0 2 = 0#2 → c.run = .running →
    (c.fw = true ∨ (s.clAt (clusterOf c.id)).clpstat.extractLsb' 0 3 = 0#3) → quiet →
      let runs : Prop :=
        (formOf (fieldsOf w) = .ok f → t.wordCause w = none → t.core.regErr = [] → (∀ u, exec f.instr t = .next u → u.core.regErr = []) →
          step s = exec f.instr t)
        ∧ (t.wordCause w ≠ none → step s = exec (.illegalInstruction w) t)
      (c.vp.live = false → c.blk.live = false → fetchWord s' c.pc = .ok (w, t) → runs)
      ∧ (c.vp.live = false → c.blk.live = false → ∀ m, fetchWord s' c.pc = .error m → step s = .next (s'.enterTrap (m.trap 0)))
      ∧ (c.vp.live = false → c.blk.live = true → w = rget c.blk.words (c.blk.blk.extractLsb' 7 5) → t = s' → runs)
      ∧ (∀ p, c.vp.live = true → leastPc c.vp.pcs = some p →
          fetchWord { s' with core := { c with vp := c.vp.choose } } p = .ok (w, t) → runs)
      ∧ (∀ x, translate s' s.pl .fetch c.pc = .ok x → x.plain = true → s.foreignScratch x.pa = false → canonical c.pc = true → c.pc.toNat % 4 = 0 →
          s.dev.quarantine = [] → s.dev.badBytes = [] → s.dev.hostLinkDown = false → c.ibuf = [] →
          ∃ v, fetchWord s' c.pc = .ok (v, ((s'.correct x.pa 4).fill x)) ∧ ∀ i < 4, v.extractLsb' (8 * i) 8 = s.byteAt (x.pa + i))

/-! ## Encodings -/

/-- Words written out from the encodings of R48 to R60 decode to the forms they stand for. -/
def Obligations.DecodeWords : Prop :=
  decode 0x00073177 = .ok (.amoAdd 5 6 7) ∧ decode 0x1C073177 = .ok (.amoCas 5 6 7) ∧ decode 0x000020F8 = .ok (.gbInit 3 4)
  ∧ decode 0x04001978 = .ok (.gbArr 5 3) ∧ decode 0x0C040038 = .ok (.fenceRel 4) ∧ decode 0x00000179 = .ok (.detStep 5)
  ∧ decode 0x0007303A = .ok (.taskSpawn 6 7) ∧ decode 0x0400003A = .ok .taskExit ∧ decode 0x0040203B = .ok (.vpRun 4 2)
  ∧ decode 0x0420303B = .ok (.vpBr 6 1) ∧ decode 0x0100197C = .ok (.sysRd 5 3 0x20) ∧ decode 0x0602383C = .ok (.sysWr 0 7 0x42)
  ∧ decode 0x1003003C = .ok (.sysCall 0 3) ∧ decode 0x1400003C = .ok .sysRet ∧ decode 0x0405203D = .ok (.sysTinval 4 5)
  ∧ decode 0x004EA518 = .ok (.vAdd 20 20 14 2 false 0) ∧ decode 0x04481D14 = .ok (.vLdx 20 3 8 2 false 0)
  ∧ decode 0x0803105A = .ok (.vClt 1 2 3 0 false 0) ∧ decode 0x000110EA = .ok (.mmMul 3 2 1 0) ∧ decode 0x0C00092A = .ok (.mmTrn 4 1 0)
  ∧ decode 0x00074036 = .ok (.rsvOpen 8 7 0) ∧ decode 0x000C52D1 = .ok (.vsetvl 11 10 12)
  ∧ decode 0 = .error 0x01 ∧ decode 0xFFFFFFFF = .error 0x03 ∧ decode 0x00000040 = .error 0x02

/-- R46 to R60: the encoding is exact. Every well-formed form decodes from its word, and a word that decodes is the word
of a well-formed form: no bit of a word is dropped, and no two words name one form. -/
def Obligations.EncodeDecode : Prop :=
  (∀ i : Instr, i.wellFormed = true → i.isEvent = false → decode i.word32 = .ok i)
  ∧ (∀ (w : BitVec 32) (i : Instr), decode w = .ok i → i.wellFormed = true ∧ i.isEvent = false ∧ i.word32 = w)

/-! ## Invariants -/

/-- Every step keeps memory in its one form: addresses strictly rising, no byte listed that an unlisted one reads as. -/
def Obligations.MemoryKeepsItsForm : Prop := ∀ s t : State, s.memOk → step s = .next t → t.memOk

/-- The levels of R393: a firmware core at machine level, a numbered core at user or supervisor level. -/
def Claims.levelsOk (s : State) : Prop := ∀ c ∈ s.cores, if c.fw then c.sys.pl = plMach else c.sys.pl = plUser ∨ c.sys.pl = plSup

/-- R393: a numbered core never runs at machine level, a firmware core runs only at machine level, and the code 0b10 is
never held: every step keeps this, and reset has it. A trap that a running core takes, and that does not stop it, takes a
numbered core to supervisor level and a firmware core to machine level. -/
def Obligations.LevelsStayLegal : Prop :=
  Claims.levelsOk State.reset ∧ (∀ s t : State, Claims.levelsOk s → step s = .next t → Claims.levelsOk t)
  ∧ ∀ (s : State) (x : Trap), Claims.levelsOk s → s.core.run = .running → (s.enterTrap x).core.run = .running →
      (s.enterTrap x).core.sys.pl = if s.core.fw then plMach else plSup

/-- R15, R100, R172, R179 to R181, R247, R369, R394, R429, R433, R446, R448, R450: what reset leaves, where the spec
gives a value. Memory lists nothing, so that it has its form. The values that firmware loads stand from reset on (log 3),
and QUADMAP and SVC are 0 (log 20): these are the model's choices. -/
def Obligations.ResetState : Prop :=
  let s := State.reset
  s.memOk ∧ s.cores.length = 260 ∧ (s.cores.filter Core.fw).length = 4
  ∧ (∀ c ∈ s.cores, c.sys.pl = (if c.fw then plMach else plSup) ∧ c.sys.nest = false ∧ c.sys.aie = false ∧ c.sys.paie = false ∧ c.sys.ppl = plUser
      ∧ c.sys.cause = 0 ∧ c.sys.sscr = 0 ∧ c.sys.evt = 0 ∧ c.sys.evten = 0 ∧ c.sys.dsig = 0
      ∧ c.vec.n = 0 ∧ c.vec.w = 3 ∧ c.vec.vprof = 0 ∧ c.vec.alc = 64 ∧ c.vec.mfc = 0 ∧ c.vec.vstat = 0 ∧ c.vec.pix = 0
      ∧ c.mat.mshape = 0x0909090909090909 ∧ c.mat.mmctl = 0 ∧ c.mat.mmflg = 0 ∧ c.blk.blk = 0 ∧ c.blk.blkcnt = 0 ∧ c.rsvstat = 0
      ∧ c.tile.tshape = 0 ∧ c.tile.tprog = 0 ∧ c.vp.vpstat = 0 ∧ c.detid = 0 ∧ c.dstat = 0 ∧ c.cmds = [] ∧ c.tlb = [])
  ∧ (∀ i : BitVec 5, (rget s.core.vec.v i).tag = .f32 ∧ (rget s.core.vec.v i).grp = 0)
  ∧ (∀ p : BitVec 4, s.xstat p = 0 ∧ s.xfault p = 0) ∧ s.kreg 0 = BitVec.allOnes 8192
  ∧ (∀ n : BitVec 4, (s.clAt n).clpstat = 0x84000000 ∧ (s.clAt n).svc = 0)
  ∧ (∀ x : BitVec 8, (s.ctxAt x).atroot = 0 ∧ (s.ctxAt x).thcause = 0x8400000000 ∧ (s.ctxAt x).equota = 0 ∧ (s.ctxAt x).eqcfg = 0 ∧ (s.ctxAt x).savea = 0
      ∧ (s.ctxAt x).detcfg = 0 ∧ (s.ctxAt x).dlog = 0 ∧ ∀ q, (s.queueRaw x q).state = .unmapped ∧ (s.queueRaw x q).desc = none)
  ∧ s.dev.dierst = 3 ∧ s.dev.ckctl = 0 ∧ s.dev.qrel = 0 ∧ s.dev.ecccnt = 0 ∧ (∀ q : BitVec 6, rget s.dev.quadmap q = 0) ∧ s.gangs = []
end

