-- ==== Sys2Proof/Laws/Bits.lean ====
section
/-! SUPPORT. Bit fields: a slot that was written is read back, and the other slots keep their bits. -/

namespace Sys2Proof

/-- Bit j of a string after a slot has been replaced. -/
theorem getLsbD_setF {n w : Nat} (x : BitVec n) (i j : Nat) (v : BitVec w) (hj : j < n) :
    (setF x i v).getLsbD j = if w * i ≤ j ∧ j < w * i + w then v.getLsbD (j - w * i) else x.getLsbD j := by
  unfold setF
  simp only [BitVec.getLsbD_or, BitVec.getLsbD_and, BitVec.getLsbD_not, BitVec.getLsbD_shiftLeft, BitVec.getLsbD_setWidth,
    BitVec.getLsbD_allOnes, hj, decide_true, Bool.true_and]
  by_cases h1 : j < w * i
  · have h2 : ¬ (w * i ≤ j ∧ j < w * i + w) := by omega
    simp [h1, h2]
  · have h3 : j - w * i < n := by omega
    by_cases h4 : j < w * i + w
    · have h5 : j - w * i < w := by omega
      have h6 : w * i ≤ j := by omega
      simp [h1, h3, h4, h5, h6]
    · have h5 : ¬ (j - w * i < w) := by omega
      have h6 : v.getLsbD (j - w * i) = false := BitVec.getLsbD_of_ge v _ (by omega)
      simp [h1, h3, h4, h5, h6]

/-- A slot that was written is read back. -/
theorem getF_setF_same {n w : Nat} (x : BitVec n) (i : Nat) (v : BitVec w) (h : w * i + w ≤ n) : getF w (setF x i v) i = v := by
  apply BitVec.eq_of_getLsbD_eq
  intro k hk
  unfold getF
  rw [BitVec.getLsbD_extractLsb', decide_eq_true hk, Bool.true_and, getLsbD_setF _ _ _ _ (by omega), if_pos (by omega)]
  congr 1
  omega

/-- The other slots keep their bits. -/
theorem getF_setF_other {n w : Nat} (x : BitVec n) (i j : Nat) (v : BitVec w) (hij : i ≠ j) :
    getF w (setF x i v) j = getF w x j := by
  apply BitVec.eq_of_getLsbD_eq
  intro k hk
  unfold getF
  rw [BitVec.getLsbD_extractLsb', BitVec.getLsbD_extractLsb', decide_eq_true hk, Bool.true_and, Bool.true_and]
  by_cases hn : w * j + k < n
  · rw [getLsbD_setF _ _ _ _ hn, if_neg]
    rintro ⟨h1, h2⟩
    rcases Nat.lt_or_gt_of_ne hij with h | h
    · have : w * (i + 1) ≤ w * j := Nat.mul_le_mul_left w h
      rw [Nat.mul_add, Nat.mul_one] at this
      omega
    · have : w * (j + 1) ≤ w * i := Nat.mul_le_mul_left w h
      rw [Nat.mul_add, Nat.mul_one] at this
      omega
  · rw [BitVec.getLsbD_of_ge _ _ (by omega), BitVec.getLsbD_of_ge _ _ (by omega)]

/-- A slot as a number. -/
theorem getF_toNat {n : Nat} (w : Nat) (x : BitVec n) (i : Nat) : (getF w x i).toNat = x.toNat / 2 ^ (w * i) % 2 ^ w := by
  simp [getF, BitVec.extractLsb'_toNat, Nat.shiftRight_eq_div_pow]

/-- Bit j of a word after a field has been replaced. -/
theorem getLsbD_putFld {n w : Nat} (x : BitVec n) (lo j : Nat) (v : BitVec w) (hj : j < n) :
    (putFld x lo v).getLsbD j = if lo ≤ j ∧ j < lo + w then v.getLsbD (j - lo) else x.getLsbD j := by
  unfold putFld
  simp only [BitVec.getLsbD_or, BitVec.getLsbD_and, BitVec.getLsbD_not, BitVec.getLsbD_shiftLeft, BitVec.getLsbD_setWidth,
    BitVec.getLsbD_allOnes, hj, decide_true, Bool.true_and]
  by_cases h1 : j < lo
  · have h2 : ¬ (lo ≤ j ∧ j < lo + w) := by omega
    simp [h1, h2]
  · have h3 : j - lo < n := by omega
    by_cases h4 : j < lo + w
    · have h5 : j - lo < w := by omega
      have h6 : lo ≤ j := by omega
      simp [h1, h3, h4, h5, h6]
    · have h5 : ¬ (j - lo < w) := by omega
      have h6 : v.getLsbD (j - lo) = false := BitVec.getLsbD_of_ge v _ (by omega)
      simp [h1, h3, h4, h5, h6]

/-- A field that was written is read back. -/
theorem fld_putFld_same {n w : Nat} (x : BitVec n) (lo : Nat) (v : BitVec w) (h : lo + w ≤ n) : fld (putFld x lo v) lo w = v := by
  apply BitVec.eq_of_getLsbD_eq
  intro k hk
  unfold fld
  rw [BitVec.getLsbD_extractLsb', decide_eq_true hk, Bool.true_and, getLsbD_putFld _ _ _ _ (by omega), if_pos (by omega)]
  congr 1
  omega

/-- A field that lies apart keeps its bits. -/
theorem fld_putFld_other {n w : Nat} (x : BitVec n) (lo lo' w' : Nat) (v : BitVec w) (h : lo' + w' ≤ lo ∨ lo + w ≤ lo') :
    fld (putFld x lo v) lo' w' = fld x lo' w' := by
  apply BitVec.eq_of_getLsbD_eq
  intro k hk
  unfold fld
  rw [BitVec.getLsbD_extractLsb', BitVec.getLsbD_extractLsb', decide_eq_true hk, Bool.true_and, Bool.true_and]
  by_cases hn : lo' + k < n
  · rw [getLsbD_putFld _ _ _ _ hn, if_neg (by omega)]
  · rw [BitVec.getLsbD_of_ge _ _ (by omega), BitVec.getLsbD_of_ge _ _ (by omega)]

/-- The bytes of a value are as many as asked for. -/
@[simp] theorem toBytes_length (n x : Nat) : (toBytes n x).length = n := by
  induction n generalizing x with
  | zero => rfl
  | succ n ih => simp [toBytes, ih]

/-- A value of n bytes is read back from its bytes. -/
theorem ofBytes_toBytes (n x : Nat) : ofBytes (toBytes n x) = x % 256 ^ n := by
  induction n generalizing x with
  | zero => simp [toBytes, ofBytes, Nat.mod_one]
  | succ n ih =>
    simp only [toBytes, ofBytes, ih, BitVec.toNat_ofNat]
    rw [show 256 ^ (n + 1) = 256 * 256 ^ n by rw [Nat.pow_succ, Nat.mul_comm], Nat.mod_mul]

end Sys2Proof
end

