-- ==== Sys2Proof/Laws/Mem.lean ====
section
/-! SUPPORT. Memory: every operation keeps the canonical form, a write is read back, and it leaves the rest alone. -/

namespace Sys2Proof.Machine

/-- A list that lies above a bound lies above any lower one. -/
theorem Memory.wfAbove_mono {m : List Host.Cell} {lo lo' : Nat} (h : lo' ≤ lo) (hm : Memory.wfAbove lo m = true) :
    Memory.wfAbove lo' m = true := by
  cases m with
  | nil => rfl
  | cons c r =>
    simp only [Memory.wfAbove, Bool.and_eq_true, decide_eq_true_eq] at hm ⊢
    exact ⟨⟨by omega, hm.1.2⟩, hm.2⟩

/-- Below the bound of a list every byte reads as unlisted. -/
theorem Memory.get_below {m : List Host.Cell} {lo a : Nat} (hm : Memory.wfAbove lo m = true) (ha : a < lo) :
    Memory.get m a = unlisted := by
  cases m with
  | nil => rfl
  | cons c r =>
    simp only [Memory.wfAbove, Bool.and_eq_true, decide_eq_true_eq] at hm
    have h1 : c.1 ≠ a := by omega
    have h2 : a < c.1 := by omega
    simp [Memory.get, h1, h2]

/-- A write keeps the form above a bound that its address meets. -/
theorem Memory.wfAbove_set {m : List Host.Cell} {lo a : Nat} (b : Byte) (ha : lo ≤ a) (hm : Memory.wfAbove lo m = true) :
    Memory.wfAbove lo (Memory.set m a b) = true := by
  induction m generalizing lo with
  | nil =>
    unfold Memory.set
    split
    · rfl
    · simp_all [Memory.wfAbove]
  | cons c r ih =>
    obtain ⟨x, d⟩ := c
    simp only [Memory.wfAbove, Bool.and_eq_true, decide_eq_true_eq] at hm
    obtain ⟨⟨h1, h2⟩, h3⟩ := hm
    unfold Memory.set
    split
    · split
      · simp only [Memory.wfAbove, Bool.and_eq_true, decide_eq_true_eq]
        exact ⟨⟨h1, h2⟩, h3⟩
      · rename_i hb
        simp only [Memory.wfAbove, Bool.and_eq_true, decide_eq_true_eq, bne_iff_ne, ne_eq]
        exact ⟨⟨ha, hb⟩, ⟨by omega, by simpa using h2⟩, h3⟩
    · split
      · rename_i hx
        subst hx
        split
        · exact Memory.wfAbove_mono (by omega) h3
        · rename_i hb
          simp only [Memory.wfAbove, Bool.and_eq_true, decide_eq_true_eq, bne_iff_ne, ne_eq]
          exact ⟨⟨ha, hb⟩, h3⟩
      · simp only [Memory.wfAbove, Bool.and_eq_true, decide_eq_true_eq]
        exact ⟨⟨h1, h2⟩, ih (by omega) h3⟩

/-- A write of one byte keeps the canonical form. -/
theorem Memory.wf_set {m : List Host.Cell} (a : Nat) (b : Byte) (hm : Memory.wf m = true) :
    Memory.wf (Memory.set m a b) = true := Memory.wfAbove_set b (Nat.zero_le a) hm

/-- A write of bytes keeps the canonical form. -/
theorem Memory.wf_write {m : List Host.Cell} (a : Nat) (l : List Byte) (hm : Memory.wf m = true) :
    Memory.wf (Memory.write m a l) = true := by
  induction l generalizing m a with
  | nil => exact hm
  | cons b r ih => exact ih (a + 1) (Memory.wf_set a b hm)

/-- Keeping some of the cells keeps the form. -/
theorem Memory.wfAbove_filter {m : List Host.Cell} {lo : Nat} (p : Host.Cell → Bool) (hm : Memory.wfAbove lo m = true) :
    Memory.wfAbove lo (m.filter p) = true := by
  induction m generalizing lo with
  | nil => rfl
  | cons c r ih =>
    obtain ⟨x, d⟩ := c
    simp only [Memory.wfAbove, Bool.and_eq_true, decide_eq_true_eq] at hm
    rw [List.filter_cons]
    split
    · simp only [Memory.wfAbove, Bool.and_eq_true, decide_eq_true_eq]
      exact ⟨hm.1, ih hm.2⟩
    · exact Memory.wfAbove_mono (by omega) (ih hm.2)

/-- Clearing a range keeps the canonical form. -/
theorem Memory.wf_clear {m : List Host.Cell} (lo hi : Nat) (hm : Memory.wf m = true) :
    Memory.wf (Memory.clear m lo hi) = true := Memory.wfAbove_filter _ hm

/-- The cells of a range are in canonical form. -/
theorem Memory.wf_slice {m : List Host.Cell} (lo hi : Nat) (hm : Memory.wf m = true) :
    Memory.wf (Memory.slice m lo hi) = true := Memory.wfAbove_filter _ hm

/-- Writing listed cells one after another keeps the canonical form. -/
theorem Memory.wf_foldl_set {m : List Host.Cell} (f : Host.Cell → Nat × Byte) (l : List Host.Cell)
    (hm : Memory.wf m = true) : Memory.wf (l.foldl (fun t c => Memory.set t (f c).1 (f c).2) m) = true := by
  induction l generalizing m with
  | nil => exact hm
  | cons c r ih => exact ih (Memory.wf_set _ _ hm)

/-- Copying a range keeps the canonical form. -/
theorem Memory.wf_copy {m : List Host.Cell} (src len dst : Nat) (hm : Memory.wf m = true) :
    Memory.wf (Memory.copy m src len dst) = true :=
  Memory.wf_foldl_set (fun c => (c.1 - src + dst, c.2)) _ (Memory.wf_clear _ _ hm)

/-- A written byte is read back. -/
theorem Memory.get_set_same {m : List Host.Cell} {lo : Nat} (a : Nat) (b : Byte) (hm : Memory.wfAbove lo m = true) :
    Memory.get (Memory.set m a b) a = b := by
  induction m generalizing lo with
  | nil =>
    unfold Memory.set
    split
    · rename_i h; rw [h]; rfl
    · simp [Memory.get]
  | cons c r ih =>
    obtain ⟨x, d⟩ := c
    simp only [Memory.wfAbove, Bool.and_eq_true, decide_eq_true_eq] at hm
    unfold Memory.set
    split
    · rename_i hlt
      split
      · rename_i hb
        have h1 : x ≠ a := by omega
        simp [Memory.get, h1, hlt, hb]
      · simp [Memory.get]
    · split
      · rename_i hx
        subst hx
        split
        · rename_i hb
          rw [hb]
          exact Memory.get_below hm.2 (by omega)
        · simp [Memory.get]
      · rename_i h1 h2
        have h3 : x ≠ a := fun h => h2 h.symm
        simp only [Memory.get, h3, if_false, h1]
        exact ih hm.2

/-- Every other byte keeps its value. -/
theorem Memory.get_set_other {m : List Host.Cell} {lo : Nat} (a q : Nat) (b : Byte) (hq : q ≠ a)
    (hm : Memory.wfAbove lo m = true) : Memory.get (Memory.set m a b) q = Memory.get m q := by
  induction m generalizing lo with
  | nil =>
    unfold Memory.set
    split
    · rfl
    · have h1 : a ≠ q := fun h => hq h.symm
      simp [Memory.get, h1]
  | cons c r ih =>
    obtain ⟨x, d⟩ := c
    simp only [Memory.wfAbove, Bool.and_eq_true, decide_eq_true_eq] at hm
    have haq : a ≠ q := fun h => hq h.symm
    unfold Memory.set
    split
    · rename_i hlt
      split
      · rfl
      · by_cases hqa : q < a
        · have hx : x ≠ q := by omega
          have hqx : q < x := by omega
          simp [Memory.get, haq, hqa, hx, hqx]
        · rw [show Memory.get ((a, b) :: (x, d) :: r) q = Memory.get ((x, d) :: r) q from by
            simp [Memory.get, haq, hqa]]
    · split
      · rename_i hx
        subst hx
        split
        · by_cases hqx : q < a
          · rw [Memory.get_below hm.2 (by omega)]
            simp [Memory.get, haq, hqx]
          · simp [Memory.get, haq, hqx]
        · simp [Memory.get, haq]
      · simp only [Memory.get]
        rw [ih hm.2]

/-- A write of bytes leaves every byte outside its range. -/
theorem Memory.get_write_outside {m : List Host.Cell} (a q : Nat) (l : List Byte) (hm : Memory.wf m = true)
    (hq : q < a ∨ a + l.length ≤ q) : Memory.get (Memory.write m a l) q = Memory.get m q := by
  induction l generalizing m a with
  | nil => rfl
  | cons b r ih =>
    simp only [List.length_cons] at hq
    have h1 := ih (m := Memory.set m a b) (a + 1) (Memory.wf_set a b hm) (by omega)
    rw [show Memory.write m a (b :: r) = Memory.write (Memory.set m a b) (a + 1) r from rfl, h1]
    exact Memory.get_set_other a q b (by omega) hm

/-- Bytes written are read back. -/
theorem Memory.read_write {m : List Host.Cell} (a : Nat) (l : List Byte) (hm : Memory.wf m = true) :
    Memory.read (Memory.write m a l) a l.length = l := by
  induction l generalizing m a with
  | nil => rfl
  | cons b r ih =>
    rw [show Memory.write m a (b :: r) = Memory.write (Memory.set m a b) (a + 1) r from rfl, List.length_cons]
    simp only [Memory.read]
    rw [Memory.get_write_outside (a + 1) a r (Memory.wf_set a b hm) (by omega), Memory.get_set_same a b hm,
      ih (a + 1) (Memory.wf_set a b hm)]

/-- A read of bytes outside a written range. -/
theorem Memory.read_write_outside {m : List Host.Cell} (a q n : Nat) (l : List Byte) (hm : Memory.wf m = true)
    (hq : q + n ≤ a ∨ a + l.length ≤ q) : Memory.read (Memory.write m a l) q n = Memory.read m q n := by
  induction n generalizing q with
  | zero => rfl
  | succ n ih =>
    simp only [Memory.read]
    rw [Memory.get_write_outside a q l hm (by omega), ih (q + 1) (by omega)]

/-- Memory after reset is in canonical form. -/
theorem State.reset_wf : Memory.wf State.reset.mem = true := rfl

end Sys2Proof.Machine
end

