-- ==== Sys2Proof/Laws/State.lean ====
section
/-! SUPPORT. What each update of State leaves of each field, so that no proof unfolds a record update. -/

namespace Sys2Proof.Machine

/-! ## The core in focus -/

@[simp] theorem State.onCore_core (s : State) (f : Core → Core) : (s.onCore f).core = f s.core := rfl
@[simp] theorem State.onCore_rest (s : State) (f : Core → Core) : (s.onCore f).rest = s.rest := rfl
@[simp] theorem State.onCore_mem (s : State) (f : Core → Core) : (s.onCore f).mem = s.mem := rfl
@[simp] theorem State.onCore_gangs (s : State) (f : Core → Core) : (s.onCore f).gangs = s.gangs := rfl
@[simp] theorem State.onCore_nextGang (s : State) (f : Core → Core) : (s.onCore f).nextGang = s.nextGang := rfl
@[simp] theorem State.onCore_clusters (s : State) (f : Core → Core) : (s.onCore f).clusters = s.clusters := rfl
@[simp] theorem State.onCore_ctxs (s : State) (f : Core → Core) : (s.onCore f).ctxs = s.ctxs := rfl
@[simp] theorem State.onCore_dev (s : State) (f : Core → Core) : (s.onCore f).dev = s.dev := rfl
@[simp] theorem State.onCore_ev (s : State) (f : Core → Core) : (s.onCore f).ev = s.ev := rfl
@[simp] theorem State.onCore_sched (s : State) (f : Core → Core) : (s.onCore f).sched = s.sched := rfl
@[simp] theorem State.onCore_fresh (s : State) (f : Core → Core) : (s.onCore f).fresh = s.fresh := rfl

@[simp] theorem State.onVec_core (s : State) (f : VecState → VecState) : (s.onVec f).core = { s.core with vec := f s.core.vec } := rfl
@[simp] theorem State.onVec_rest (s : State) (f : VecState → VecState) : (s.onVec f).rest = s.rest := rfl
@[simp] theorem State.onVec_mem (s : State) (f : VecState → VecState) : (s.onVec f).mem = s.mem := rfl
@[simp] theorem State.onVec_gangs (s : State) (f : VecState → VecState) : (s.onVec f).gangs = s.gangs := rfl
@[simp] theorem State.onVec_nextGang (s : State) (f : VecState → VecState) : (s.onVec f).nextGang = s.nextGang := rfl
@[simp] theorem State.onVec_clusters (s : State) (f : VecState → VecState) : (s.onVec f).clusters = s.clusters := rfl
@[simp] theorem State.onVec_ctxs (s : State) (f : VecState → VecState) : (s.onVec f).ctxs = s.ctxs := rfl
@[simp] theorem State.onVec_dev (s : State) (f : VecState → VecState) : (s.onVec f).dev = s.dev := rfl
@[simp] theorem State.onVec_ev (s : State) (f : VecState → VecState) : (s.onVec f).ev = s.ev := rfl
@[simp] theorem State.onVec_sched (s : State) (f : VecState → VecState) : (s.onVec f).sched = s.sched := rfl
@[simp] theorem State.onVec_fresh (s : State) (f : VecState → VecState) : (s.onVec f).fresh = s.fresh := rfl

@[simp] theorem State.onSys_core (s : State) (f : SysRegs → SysRegs) : (s.onSys f).core = { s.core with sys := f s.core.sys } := rfl
@[simp] theorem State.onSys_rest (s : State) (f : SysRegs → SysRegs) : (s.onSys f).rest = s.rest := rfl
@[simp] theorem State.onSys_mem (s : State) (f : SysRegs → SysRegs) : (s.onSys f).mem = s.mem := rfl
@[simp] theorem State.onSys_gangs (s : State) (f : SysRegs → SysRegs) : (s.onSys f).gangs = s.gangs := rfl
@[simp] theorem State.onSys_nextGang (s : State) (f : SysRegs → SysRegs) : (s.onSys f).nextGang = s.nextGang := rfl
@[simp] theorem State.onSys_clusters (s : State) (f : SysRegs → SysRegs) : (s.onSys f).clusters = s.clusters := rfl
@[simp] theorem State.onSys_ctxs (s : State) (f : SysRegs → SysRegs) : (s.onSys f).ctxs = s.ctxs := rfl
@[simp] theorem State.onSys_dev (s : State) (f : SysRegs → SysRegs) : (s.onSys f).dev = s.dev := rfl
@[simp] theorem State.onSys_ev (s : State) (f : SysRegs → SysRegs) : (s.onSys f).ev = s.ev := rfl
@[simp] theorem State.onSys_sched (s : State) (f : SysRegs → SysRegs) : (s.onSys f).sched = s.sched := rfl
@[simp] theorem State.onSys_fresh (s : State) (f : SysRegs → SysRegs) : (s.onSys f).fresh = s.fresh := rfl

@[simp] theorem State.onPort_core (s : State) (f : PortState → PortState) : (s.onPort f).core = { s.core with port := f s.core.port } := rfl
@[simp] theorem State.onPort_rest (s : State) (f : PortState → PortState) : (s.onPort f).rest = s.rest := rfl
@[simp] theorem State.onPort_mem (s : State) (f : PortState → PortState) : (s.onPort f).mem = s.mem := rfl
@[simp] theorem State.onPort_gangs (s : State) (f : PortState → PortState) : (s.onPort f).gangs = s.gangs := rfl
@[simp] theorem State.onPort_nextGang (s : State) (f : PortState → PortState) : (s.onPort f).nextGang = s.nextGang := rfl
@[simp] theorem State.onPort_clusters (s : State) (f : PortState → PortState) : (s.onPort f).clusters = s.clusters := rfl
@[simp] theorem State.onPort_ctxs (s : State) (f : PortState → PortState) : (s.onPort f).ctxs = s.ctxs := rfl
@[simp] theorem State.onPort_dev (s : State) (f : PortState → PortState) : (s.onPort f).dev = s.dev := rfl
@[simp] theorem State.onPort_ev (s : State) (f : PortState → PortState) : (s.onPort f).ev = s.ev := rfl
@[simp] theorem State.onPort_sched (s : State) (f : PortState → PortState) : (s.onPort f).sched = s.sched := rfl
@[simp] theorem State.onPort_fresh (s : State) (f : PortState → PortState) : (s.onPort f).fresh = s.fresh := rfl

@[simp] theorem State.onTile_core (s : State) (f : TileState → TileState) : (s.onTile f).core = { s.core with tile := f s.core.tile } := rfl
@[simp] theorem State.onTile_rest (s : State) (f : TileState → TileState) : (s.onTile f).rest = s.rest := rfl
@[simp] theorem State.onTile_mem (s : State) (f : TileState → TileState) : (s.onTile f).mem = s.mem := rfl
@[simp] theorem State.onTile_gangs (s : State) (f : TileState → TileState) : (s.onTile f).gangs = s.gangs := rfl
@[simp] theorem State.onTile_nextGang (s : State) (f : TileState → TileState) : (s.onTile f).nextGang = s.nextGang := rfl
@[simp] theorem State.onTile_clusters (s : State) (f : TileState → TileState) : (s.onTile f).clusters = s.clusters := rfl
@[simp] theorem State.onTile_ctxs (s : State) (f : TileState → TileState) : (s.onTile f).ctxs = s.ctxs := rfl
@[simp] theorem State.onTile_dev (s : State) (f : TileState → TileState) : (s.onTile f).dev = s.dev := rfl
@[simp] theorem State.onTile_ev (s : State) (f : TileState → TileState) : (s.onTile f).ev = s.ev := rfl
@[simp] theorem State.onTile_sched (s : State) (f : TileState → TileState) : (s.onTile f).sched = s.sched := rfl
@[simp] theorem State.onTile_fresh (s : State) (f : TileState → TileState) : (s.onTile f).fresh = s.fresh := rfl

@[simp] theorem State.onMat_core (s : State) (f : MatState → MatState) : (s.onMat f).core = { s.core with mat := f s.core.mat } := rfl
@[simp] theorem State.onMat_rest (s : State) (f : MatState → MatState) : (s.onMat f).rest = s.rest := rfl
@[simp] theorem State.onMat_mem (s : State) (f : MatState → MatState) : (s.onMat f).mem = s.mem := rfl
@[simp] theorem State.onMat_gangs (s : State) (f : MatState → MatState) : (s.onMat f).gangs = s.gangs := rfl
@[simp] theorem State.onMat_nextGang (s : State) (f : MatState → MatState) : (s.onMat f).nextGang = s.nextGang := rfl
@[simp] theorem State.onMat_clusters (s : State) (f : MatState → MatState) : (s.onMat f).clusters = s.clusters := rfl
@[simp] theorem State.onMat_ctxs (s : State) (f : MatState → MatState) : (s.onMat f).ctxs = s.ctxs := rfl
@[simp] theorem State.onMat_dev (s : State) (f : MatState → MatState) : (s.onMat f).dev = s.dev := rfl
@[simp] theorem State.onMat_ev (s : State) (f : MatState → MatState) : (s.onMat f).ev = s.ev := rfl
@[simp] theorem State.onMat_sched (s : State) (f : MatState → MatState) : (s.onMat f).sched = s.sched := rfl
@[simp] theorem State.onMat_fresh (s : State) (f : MatState → MatState) : (s.onMat f).fresh = s.fresh := rfl

@[simp] theorem State.onBlk_core (s : State) (f : BlkState → BlkState) : (s.onBlk f).core = { s.core with blk := f s.core.blk } := rfl
@[simp] theorem State.onBlk_rest (s : State) (f : BlkState → BlkState) : (s.onBlk f).rest = s.rest := rfl
@[simp] theorem State.onBlk_mem (s : State) (f : BlkState → BlkState) : (s.onBlk f).mem = s.mem := rfl
@[simp] theorem State.onBlk_gangs (s : State) (f : BlkState → BlkState) : (s.onBlk f).gangs = s.gangs := rfl
@[simp] theorem State.onBlk_nextGang (s : State) (f : BlkState → BlkState) : (s.onBlk f).nextGang = s.nextGang := rfl
@[simp] theorem State.onBlk_clusters (s : State) (f : BlkState → BlkState) : (s.onBlk f).clusters = s.clusters := rfl
@[simp] theorem State.onBlk_ctxs (s : State) (f : BlkState → BlkState) : (s.onBlk f).ctxs = s.ctxs := rfl
@[simp] theorem State.onBlk_dev (s : State) (f : BlkState → BlkState) : (s.onBlk f).dev = s.dev := rfl
@[simp] theorem State.onBlk_ev (s : State) (f : BlkState → BlkState) : (s.onBlk f).ev = s.ev := rfl
@[simp] theorem State.onBlk_sched (s : State) (f : BlkState → BlkState) : (s.onBlk f).sched = s.sched := rfl
@[simp] theorem State.onBlk_fresh (s : State) (f : BlkState → BlkState) : (s.onBlk f).fresh = s.fresh := rfl

@[simp] theorem State.onVp_core (s : State) (f : VpState → VpState) : (s.onVp f).core = { s.core with vp := f s.core.vp } := rfl
@[simp] theorem State.onVp_rest (s : State) (f : VpState → VpState) : (s.onVp f).rest = s.rest := rfl
@[simp] theorem State.onVp_mem (s : State) (f : VpState → VpState) : (s.onVp f).mem = s.mem := rfl
@[simp] theorem State.onVp_gangs (s : State) (f : VpState → VpState) : (s.onVp f).gangs = s.gangs := rfl
@[simp] theorem State.onVp_nextGang (s : State) (f : VpState → VpState) : (s.onVp f).nextGang = s.nextGang := rfl
@[simp] theorem State.onVp_clusters (s : State) (f : VpState → VpState) : (s.onVp f).clusters = s.clusters := rfl
@[simp] theorem State.onVp_ctxs (s : State) (f : VpState → VpState) : (s.onVp f).ctxs = s.ctxs := rfl
@[simp] theorem State.onVp_dev (s : State) (f : VpState → VpState) : (s.onVp f).dev = s.dev := rfl
@[simp] theorem State.onVp_ev (s : State) (f : VpState → VpState) : (s.onVp f).ev = s.ev := rfl
@[simp] theorem State.onVp_sched (s : State) (f : VpState → VpState) : (s.onVp f).sched = s.sched := rfl
@[simp] theorem State.onVp_fresh (s : State) (f : VpState → VpState) : (s.onVp f).fresh = s.fresh := rfl

/-! ## Device, contexts, clusters, gangs -/

@[simp] theorem State.onDev_dev (s : State) (f : Device → Device) : (s.onDev f).dev = f s.dev := rfl
@[simp] theorem State.onDev_core (s : State) (f : Device → Device) : (s.onDev f).core = s.core := rfl
@[simp] theorem State.onDev_rest (s : State) (f : Device → Device) : (s.onDev f).rest = s.rest := rfl
@[simp] theorem State.onDev_mem (s : State) (f : Device → Device) : (s.onDev f).mem = s.mem := rfl
@[simp] theorem State.onDev_gangs (s : State) (f : Device → Device) : (s.onDev f).gangs = s.gangs := rfl
@[simp] theorem State.onDev_nextGang (s : State) (f : Device → Device) : (s.onDev f).nextGang = s.nextGang := rfl
@[simp] theorem State.onDev_clusters (s : State) (f : Device → Device) : (s.onDev f).clusters = s.clusters := rfl
@[simp] theorem State.onDev_ctxs (s : State) (f : Device → Device) : (s.onDev f).ctxs = s.ctxs := rfl
@[simp] theorem State.onDev_ev (s : State) (f : Device → Device) : (s.onDev f).ev = s.ev := rfl
@[simp] theorem State.onDev_sched (s : State) (f : Device → Device) : (s.onDev f).sched = s.sched := rfl
@[simp] theorem State.onDev_fresh (s : State) (f : Device → Device) : (s.onDev f).fresh = s.fresh := rfl

@[simp] theorem State.onCtx_ctxs (s : State) (i : BitVec 8) (f : Context → Context) : (s.onCtx i f).ctxs = rset s.ctxs i (f (rget s.ctxs i)) := rfl
@[simp] theorem State.onCtx_core (s : State) (i : BitVec 8) (f : Context → Context) : (s.onCtx i f).core = s.core := rfl
@[simp] theorem State.onCtx_rest (s : State) (i : BitVec 8) (f : Context → Context) : (s.onCtx i f).rest = s.rest := rfl
@[simp] theorem State.onCtx_mem (s : State) (i : BitVec 8) (f : Context → Context) : (s.onCtx i f).mem = s.mem := rfl
@[simp] theorem State.onCtx_gangs (s : State) (i : BitVec 8) (f : Context → Context) : (s.onCtx i f).gangs = s.gangs := rfl
@[simp] theorem State.onCtx_nextGang (s : State) (i : BitVec 8) (f : Context → Context) : (s.onCtx i f).nextGang = s.nextGang := rfl
@[simp] theorem State.onCtx_clusters (s : State) (i : BitVec 8) (f : Context → Context) : (s.onCtx i f).clusters = s.clusters := rfl
@[simp] theorem State.onCtx_dev (s : State) (i : BitVec 8) (f : Context → Context) : (s.onCtx i f).dev = s.dev := rfl
@[simp] theorem State.onCtx_ev (s : State) (i : BitVec 8) (f : Context → Context) : (s.onCtx i f).ev = s.ev := rfl
@[simp] theorem State.onCtx_sched (s : State) (i : BitVec 8) (f : Context → Context) : (s.onCtx i f).sched = s.sched := rfl
@[simp] theorem State.onCtx_fresh (s : State) (i : BitVec 8) (f : Context → Context) : (s.onCtx i f).fresh = s.fresh := rfl

@[simp] theorem State.onCl_clusters (s : State) (i : BitVec 4) (f : Cluster → Cluster) : (s.onCl i f).clusters = rset s.clusters i (f (rget s.clusters i)) := rfl
@[simp] theorem State.onCl_core (s : State) (i : BitVec 4) (f : Cluster → Cluster) : (s.onCl i f).core = s.core := rfl
@[simp] theorem State.onCl_rest (s : State) (i : BitVec 4) (f : Cluster → Cluster) : (s.onCl i f).rest = s.rest := rfl
@[simp] theorem State.onCl_mem (s : State) (i : BitVec 4) (f : Cluster → Cluster) : (s.onCl i f).mem = s.mem := rfl
@[simp] theorem State.onCl_gangs (s : State) (i : BitVec 4) (f : Cluster → Cluster) : (s.onCl i f).gangs = s.gangs := rfl
@[simp] theorem State.onCl_nextGang (s : State) (i : BitVec 4) (f : Cluster → Cluster) : (s.onCl i f).nextGang = s.nextGang := rfl
@[simp] theorem State.onCl_ctxs (s : State) (i : BitVec 4) (f : Cluster → Cluster) : (s.onCl i f).ctxs = s.ctxs := rfl
@[simp] theorem State.onCl_dev (s : State) (i : BitVec 4) (f : Cluster → Cluster) : (s.onCl i f).dev = s.dev := rfl
@[simp] theorem State.onCl_ev (s : State) (i : BitVec 4) (f : Cluster → Cluster) : (s.onCl i f).ev = s.ev := rfl
@[simp] theorem State.onCl_sched (s : State) (i : BitVec 4) (f : Cluster → Cluster) : (s.onCl i f).sched = s.sched := rfl
@[simp] theorem State.onCl_fresh (s : State) (i : BitVec 4) (f : Cluster → Cluster) : (s.onCl i f).fresh = s.fresh := rfl

@[simp] theorem State.onGang_gangs (s : State) (i : Nat) (f : Gang → Gang) : (s.onGang i f).gangs = s.gangs.map (fun x => if x.id = i then f x else x) := rfl
@[simp] theorem State.onGang_core (s : State) (i : Nat) (f : Gang → Gang) : (s.onGang i f).core = s.core := rfl
@[simp] theorem State.onGang_rest (s : State) (i : Nat) (f : Gang → Gang) : (s.onGang i f).rest = s.rest := rfl
@[simp] theorem State.onGang_mem (s : State) (i : Nat) (f : Gang → Gang) : (s.onGang i f).mem = s.mem := rfl
@[simp] theorem State.onGang_nextGang (s : State) (i : Nat) (f : Gang → Gang) : (s.onGang i f).nextGang = s.nextGang := rfl
@[simp] theorem State.onGang_clusters (s : State) (i : Nat) (f : Gang → Gang) : (s.onGang i f).clusters = s.clusters := rfl
@[simp] theorem State.onGang_ctxs (s : State) (i : Nat) (f : Gang → Gang) : (s.onGang i f).ctxs = s.ctxs := rfl
@[simp] theorem State.onGang_dev (s : State) (i : Nat) (f : Gang → Gang) : (s.onGang i f).dev = s.dev := rfl
@[simp] theorem State.onGang_ev (s : State) (i : Nat) (f : Gang → Gang) : (s.onGang i f).ev = s.ev := rfl
@[simp] theorem State.onGang_sched (s : State) (i : Nat) (f : Gang → Gang) : (s.onGang i f).sched = s.sched := rfl
@[simp] theorem State.onGang_fresh (s : State) (i : Nat) (f : Gang → Gang) : (s.onGang i f).fresh = s.fresh := rfl

@[simp] theorem State.freshen_fresh (s : State) : s.freshen.fresh = s.fresh + 1 := rfl
@[simp] theorem State.freshen_core (s : State) : s.freshen.core = s.core := rfl
@[simp] theorem State.freshen_rest (s : State) : s.freshen.rest = s.rest := rfl
@[simp] theorem State.freshen_mem (s : State) : s.freshen.mem = s.mem := rfl
@[simp] theorem State.freshen_gangs (s : State) : s.freshen.gangs = s.gangs := rfl
@[simp] theorem State.freshen_nextGang (s : State) : s.freshen.nextGang = s.nextGang := rfl
@[simp] theorem State.freshen_clusters (s : State) : s.freshen.clusters = s.clusters := rfl
@[simp] theorem State.freshen_ctxs (s : State) : s.freshen.ctxs = s.ctxs := rfl
@[simp] theorem State.freshen_dev (s : State) : s.freshen.dev = s.dev := rfl
@[simp] theorem State.freshen_ev (s : State) : s.freshen.ev = s.ev := rfl
@[simp] theorem State.freshen_sched (s : State) : s.freshen.sched = s.sched := rfl

/-! ## Cores by condition -/

@[simp] theorem State.mapCores_mem (s : State) (p : Core → Bool) (f : Core → Core) : (s.mapCores p f).mem = s.mem := rfl
@[simp] theorem State.mapCores_gangs (s : State) (p : Core → Bool) (f : Core → Core) : (s.mapCores p f).gangs = s.gangs := rfl
@[simp] theorem State.mapCores_nextGang (s : State) (p : Core → Bool) (f : Core → Core) : (s.mapCores p f).nextGang = s.nextGang := rfl
@[simp] theorem State.mapCores_clusters (s : State) (p : Core → Bool) (f : Core → Core) : (s.mapCores p f).clusters = s.clusters := rfl
@[simp] theorem State.mapCores_ctxs (s : State) (p : Core → Bool) (f : Core → Core) : (s.mapCores p f).ctxs = s.ctxs := rfl
@[simp] theorem State.mapCores_dev (s : State) (p : Core → Bool) (f : Core → Core) : (s.mapCores p f).dev = s.dev := rfl
@[simp] theorem State.mapCores_ev (s : State) (p : Core → Bool) (f : Core → Core) : (s.mapCores p f).ev = s.ev := rfl
@[simp] theorem State.mapCores_sched (s : State) (p : Core → Bool) (f : Core → Core) : (s.mapCores p f).sched = s.sched := rfl
@[simp] theorem State.mapCores_fresh (s : State) (p : Core → Bool) (f : Core → Core) : (s.mapCores p f).fresh = s.fresh := rfl

@[simp] theorem State.mapCore_mem (s : State) (r : CoreRef) (f : Core → Core) : (s.mapCore r f).mem = s.mem := by
  unfold State.mapCore; split <;> rfl
@[simp] theorem State.mapCore_gangs (s : State) (r : CoreRef) (f : Core → Core) : (s.mapCore r f).gangs = s.gangs := by
  unfold State.mapCore; split <;> rfl
@[simp] theorem State.mapCore_nextGang (s : State) (r : CoreRef) (f : Core → Core) : (s.mapCore r f).nextGang = s.nextGang := by
  unfold State.mapCore; split <;> rfl
@[simp] theorem State.mapCore_clusters (s : State) (r : CoreRef) (f : Core → Core) : (s.mapCore r f).clusters = s.clusters := by
  unfold State.mapCore; split <;> rfl
@[simp] theorem State.mapCore_ctxs (s : State) (r : CoreRef) (f : Core → Core) : (s.mapCore r f).ctxs = s.ctxs := by
  unfold State.mapCore; split <;> rfl
@[simp] theorem State.mapCore_dev (s : State) (r : CoreRef) (f : Core → Core) : (s.mapCore r f).dev = s.dev := by
  unfold State.mapCore; split <;> rfl
@[simp] theorem State.mapCore_ev (s : State) (r : CoreRef) (f : Core → Core) : (s.mapCore r f).ev = s.ev := by
  unfold State.mapCore; split <;> rfl
@[simp] theorem State.mapCore_sched (s : State) (r : CoreRef) (f : Core → Core) : (s.mapCore r f).sched = s.sched := by
  unfold State.mapCore; split <;> rfl
@[simp] theorem State.mapCore_fresh (s : State) (r : CoreRef) (f : Core → Core) : (s.mapCore r f).fresh = s.fresh := by
  unfold State.mapCore; split <;> rfl

@[simp] theorem State.focus_mem (s : State) (r : CoreRef) : (s.focus r).mem = s.mem := by
  unfold State.focus; split <;> (try split) <;> rfl
@[simp] theorem State.focus_gangs (s : State) (r : CoreRef) : (s.focus r).gangs = s.gangs := by
  unfold State.focus; split <;> (try split) <;> rfl
@[simp] theorem State.focus_nextGang (s : State) (r : CoreRef) : (s.focus r).nextGang = s.nextGang := by
  unfold State.focus; split <;> (try split) <;> rfl
@[simp] theorem State.focus_clusters (s : State) (r : CoreRef) : (s.focus r).clusters = s.clusters := by
  unfold State.focus; split <;> (try split) <;> rfl
@[simp] theorem State.focus_ctxs (s : State) (r : CoreRef) : (s.focus r).ctxs = s.ctxs := by
  unfold State.focus; split <;> (try split) <;> rfl
@[simp] theorem State.focus_dev (s : State) (r : CoreRef) : (s.focus r).dev = s.dev := by
  unfold State.focus; split <;> (try split) <;> rfl
@[simp] theorem State.focus_ev (s : State) (r : CoreRef) : (s.focus r).ev = s.ev := by
  unfold State.focus; split <;> (try split) <;> rfl
@[simp] theorem State.focus_sched (s : State) (r : CoreRef) : (s.focus r).sched = s.sched := by
  unfold State.focus; split <;> (try split) <;> rfl
@[simp] theorem State.focus_fresh (s : State) (r : CoreRef) : (s.focus r).fresh = s.fresh := by
  unfold State.focus; split <;> (try split) <;> rfl

@[simp] theorem State.postEvt_mem (s : State) (c : BitVec 8) (b : Word) : (s.postEvt c b).mem = s.mem := rfl
@[simp] theorem State.postEvt_gangs (s : State) (c : BitVec 8) (b : Word) : (s.postEvt c b).gangs = s.gangs := rfl
@[simp] theorem State.postEvt_nextGang (s : State) (c : BitVec 8) (b : Word) : (s.postEvt c b).nextGang = s.nextGang := rfl
@[simp] theorem State.postEvt_clusters (s : State) (c : BitVec 8) (b : Word) : (s.postEvt c b).clusters = s.clusters := rfl
@[simp] theorem State.postEvt_ctxs (s : State) (c : BitVec 8) (b : Word) : (s.postEvt c b).ctxs = s.ctxs := rfl
@[simp] theorem State.postEvt_dev (s : State) (c : BitVec 8) (b : Word) : (s.postEvt c b).dev = s.dev := rfl
@[simp] theorem State.postEvt_ev (s : State) (c : BitVec 8) (b : Word) : (s.postEvt c b).ev = s.ev := rfl
@[simp] theorem State.postEvt_sched (s : State) (c : BitVec 8) (b : Word) : (s.postEvt c b).sched = s.sched := rfl
@[simp] theorem State.postEvt_fresh (s : State) (c : BitVec 8) (b : Word) : (s.postEvt c b).fresh = s.fresh := rfl

/-! ## g registers (R122, R172) -/

@[simp] theorem State.setG_rest (s : State) (r : BitVec 5) (v : Word) : (s.setG r v).rest = s.rest := by
  unfold State.setG; split <;> rfl
@[simp] theorem State.setG_mem (s : State) (r : BitVec 5) (v : Word) : (s.setG r v).mem = s.mem := by
  unfold State.setG; split <;> rfl
@[simp] theorem State.setG_gangs (s : State) (r : BitVec 5) (v : Word) : (s.setG r v).gangs = s.gangs := by
  unfold State.setG; split <;> rfl
@[simp] theorem State.setG_nextGang (s : State) (r : BitVec 5) (v : Word) : (s.setG r v).nextGang = s.nextGang := by
  unfold State.setG; split <;> rfl
@[simp] theorem State.setG_clusters (s : State) (r : BitVec 5) (v : Word) : (s.setG r v).clusters = s.clusters := by
  unfold State.setG; split <;> rfl
@[simp] theorem State.setG_ctxs (s : State) (r : BitVec 5) (v : Word) : (s.setG r v).ctxs = s.ctxs := by
  unfold State.setG; split <;> rfl
@[simp] theorem State.setG_dev (s : State) (r : BitVec 5) (v : Word) : (s.setG r v).dev = s.dev := by
  unfold State.setG; split <;> rfl
@[simp] theorem State.setG_ev (s : State) (r : BitVec 5) (v : Word) : (s.setG r v).ev = s.ev := by
  unfold State.setG; split <;> rfl
@[simp] theorem State.setG_sched (s : State) (r : BitVec 5) (v : Word) : (s.setG r v).sched = s.sched := by
  unfold State.setG; split <;> rfl
@[simp] theorem State.setG_fresh (s : State) (r : BitVec 5) (v : Word) : (s.setG r v).fresh = s.fresh := by
  unfold State.setG; split <;> rfl
@[simp] theorem State.setG_core_id (s : State) (r : BitVec 5) (v : Word) : (s.setG r v).core.id = s.core.id := by
  unfold State.setG; split <;> rfl
@[simp] theorem State.setG_core_fw (s : State) (r : BitVec 5) (v : Word) : (s.setG r v).core.fw = s.core.fw := by
  unfold State.setG; split <;> rfl
@[simp] theorem State.setG_core_run (s : State) (r : BitVec 5) (v : Word) : (s.setG r v).core.run = s.core.run := by
  unfold State.setG; split <;> rfl
@[simp] theorem State.setG_core_pc (s : State) (r : BitVec 5) (v : Word) : (s.setG r v).core.pc = s.core.pc := by
  unfold State.setG; split <;> rfl
@[simp] theorem State.setG_core_wait (s : State) (r : BitVec 5) (v : Word) : (s.setG r v).core.wait = s.core.wait := by
  unfold State.setG; split <;> rfl
@[simp] theorem State.setG_core_sys (s : State) (r : BitVec 5) (v : Word) : (s.setG r v).core.sys = s.core.sys := by
  unfold State.setG; split <;> rfl
@[simp] theorem State.setG_core_vec (s : State) (r : BitVec 5) (v : Word) : (s.setG r v).core.vec = s.core.vec := by
  unfold State.setG; split <;> rfl
@[simp] theorem State.setG_core_blk (s : State) (r : BitVec 5) (v : Word) : (s.setG r v).core.blk = s.core.blk := by
  unfold State.setG; split <;> rfl
@[simp] theorem State.setG_core_mat (s : State) (r : BitVec 5) (v : Word) : (s.setG r v).core.mat = s.core.mat := by
  unfold State.setG; split <;> rfl
@[simp] theorem State.setG_core_tile (s : State) (r : BitVec 5) (v : Word) : (s.setG r v).core.tile = s.core.tile := by
  unfold State.setG; split <;> rfl
@[simp] theorem State.setG_core_port (s : State) (r : BitVec 5) (v : Word) : (s.setG r v).core.port = s.core.port := by
  unfold State.setG; split <;> rfl
@[simp] theorem State.setG_core_sloe (s : State) (r : BitVec 5) (v : Word) : (s.setG r v).core.sloe = s.core.sloe := by
  unfold State.setG; split <;> rfl
@[simp] theorem State.setG_core_vp (s : State) (r : BitVec 5) (v : Word) : (s.setG r v).core.vp = s.core.vp := by
  unfold State.setG; split <;> rfl
@[simp] theorem State.setG_core_rsvstat (s : State) (r : BitVec 5) (v : Word) : (s.setG r v).core.rsvstat = s.core.rsvstat := by
  unfold State.setG; split <;> rfl
@[simp] theorem State.setG_core_detid (s : State) (r : BitVec 5) (v : Word) : (s.setG r v).core.detid = s.core.detid := by
  unfold State.setG; split <;> rfl
@[simp] theorem State.setG_core_dstat (s : State) (r : BitVec 5) (v : Word) : (s.setG r v).core.dstat = s.core.dstat := by
  unfold State.setG; split <;> rfl
@[simp] theorem State.setG_core_seq (s : State) (r : BitVec 5) (v : Word) : (s.setG r v).core.seq = s.core.seq := by
  unfold State.setG; split <;> rfl
@[simp] theorem State.setG_core_cmds (s : State) (r : BitVec 5) (v : Word) : (s.setG r v).core.cmds = s.core.cmds := by
  unfold State.setG; split <;> rfl
@[simp] theorem State.setG_core_tlb (s : State) (r : BitVec 5) (v : Word) : (s.setG r v).core.tlb = s.core.tlb := by
  unfold State.setG; split <;> rfl
@[simp] theorem State.setG_core_gang (s : State) (r : BitVec 5) (v : Word) : (s.setG r v).core.gang = s.core.gang := by
  unfold State.setG; split <;> rfl
@[simp] theorem State.setG_core_rank (s : State) (r : BitVec 5) (v : Word) : (s.setG r v).core.rank = s.core.rank := by
  unfold State.setG; split <;> rfl
@[simp] theorem State.setG_core_lastTask (s : State) (r : BitVec 5) (v : Word) : (s.setG r v).core.lastTask = s.core.lastTask := by
  unfold State.setG; split <;> rfl
@[simp] theorem State.setG_core_solo (s : State) (r : BitVec 5) (v : Word) : (s.setG r v).core.solo = s.core.solo := by
  unfold State.setG; split <;> rfl
@[simp] theorem State.setG_core_detDone (s : State) (r : BitVec 5) (v : Word) : (s.setG r v).core.detDone = s.core.detDone := by
  unfold State.setG; split <;> rfl
@[simp] theorem State.setG_core_mgmtReq (s : State) (r : BitVec 5) (v : Word) : (s.setG r v).core.mgmtReq = s.core.mgmtReq := by
  unfold State.setG; split <;> rfl
@[simp] theorem State.setG_core_seqNext (s : State) (r : BitVec 5) (v : Word) : (s.setG r v).core.seqNext = s.core.seqNext := by
  unfold State.setG; split <;> rfl
@[simp] theorem State.setG_core_seqHeld (s : State) (r : BitVec 5) (v : Word) : (s.setG r v).core.seqHeld = s.core.seqHeld := by
  unfold State.setG; split <;> rfl
@[simp] theorem State.setG_core_spawned (s : State) (r : BitVec 5) (v : Word) : (s.setG r v).core.spawned = s.core.spawned := by
  unfold State.setG; split <;> rfl
@[simp] theorem State.setG_core_regErr (s : State) (r : BitVec 5) (v : Word) : (s.setG r v).core.regErr = s.core.regErr := by
  unfold State.setG; split <;> rfl

/-- Reading a register file after a write to the same place. -/
@[simp] theorem rget_rset_same {α : Type} {k n : Nat} (v : Vector α n) (i : BitVec k) (x : α) (h : 2 ^ k ≤ n) :
    rget (rset v i x h) i h = x := by
  simp [rget, rset]

/-- Reading a register file after a write elsewhere. -/
theorem rget_rset_other {α : Type} {k n : Nat} (v : Vector α n) (i j : BitVec k) (x : α) (h : 2 ^ k ≤ n) (hij : i ≠ j) :
    rget (rset v i x h) j h = rget v j h := by
  have : i.toNat ≠ j.toNat := fun e => hij (BitVec.eq_of_toNat_eq e)
  simp [rget, rset, Vector.getElem_set_ne, this]

/-- g0 reads 0 (R172). -/
@[simp] theorem State.g_zero (s : State) : s.g 0 = 0 := by simp [State.g]

/-- The destination holds the value, but for g0, which discards it (R122). -/
theorem State.setG_same (s : State) (r : BitVec 5) (v : Word) : (s.setG r v).g r = if r = 0 then 0 else v := by
  by_cases h : r = 0
  · subst h; rfl
  · unfold State.g State.setG
    rw [if_neg h, if_neg h, if_neg h]
    exact rget_rset_same _ _ _ _

/-- Every other register keeps its value. -/
theorem State.setG_other (s : State) (r q : BitVec 5) (v : Word) (h : r ≠ q) : (s.setG r v).g q = s.g q := by
  by_cases h0 : r = 0
  · unfold State.setG; rw [if_pos h0]
  · unfold State.g State.setG
    rw [if_neg h0]
    split
    · rfl
    · exact rget_rset_other _ _ _ _ _ h

/-! ## Where a form ends -/

/-- A completed form moves to the next word. -/
@[simp] theorem Res.finish_done (s : State) : (Res.done s).finish = .next s.next := rfl

/-- A trapped form enters its trap (R396). -/
@[simp] theorem Res.finish_trap (s : State) (t : Trap) : (Res.trap s t).finish = .next (s.enterTrap t) := rfl

/-- A form at a wait point leaves its core standing there (R401). -/
@[simp] theorem Res.finish_wait (s : State) (w : Wait) : (Res.wait s w).finish = .next (s.stand w) := rfl

@[simp] theorem Res.check_none (s : State) (k : Res) : Res.check s none k = k := rfl
@[simp] theorem Res.check_some (s : State) (t : Trap) (k : Res) : Res.check s (some t) k = .trap s t := rfl
@[simp] theorem Res.andThen_done (s : State) (f : State → Res) : (Res.done s).andThen f = f s := rfl
@[simp] theorem Res.andThen_trap (s : State) (t : Trap) (f : State → Res) : (Res.trap s t).andThen f = .trap s t := rfl
@[simp] theorem Res.andThen_wait (s : State) (w : Wait) (f : State → Res) : (Res.wait s w).andThen f = .wait s w := rfl

@[simp] theorem firstTrap_nil : firstTrap [] = none := rfl
@[simp] theorem firstTrap_cons_false (t : Trap) (l : List (Bool × Trap)) : firstTrap ((false, t) :: l) = firstTrap l := rfl
@[simp] theorem firstTrap_cons_true (t : Trap) (l : List (Bool × Trap)) : firstTrap ((true, t) :: l) = some t := rfl

/-- A form always ends in a next state. -/
theorem Res.finish_next (r : Res) : ∃ t, r.finish = .next t := by cases r <;> exact ⟨_, rfl⟩

end Sys2Proof.Machine
end

