-- ==== Sys2Proof/Laws/Ops.lean ====
section
/-! SUPPORT. What the ends of a form do: the move to the next word, the entry to a trap and the return from one, each
said once. -/

namespace Sys2Proof.Machine

/-! ## The next word -/

/-- The end of a form touches no more than the numbers of writes to DT pages. -/
theorem State.bumpSeq_eq (s : State) :
    s.bumpSeq = s.onCore (fun c => { c with seq := s.bumpSeq.core.seq, seqNext := none }) := by
  unfold State.bumpSeq
  split
  · rfl
  · rename_i h
    split
    · exact congrArg (fun c => ({ s with core := c } : State)) (by rw [← h]; rfl)
    · exact congrArg (fun c => ({ s with core := c } : State)) (by rw [← h])

@[simp] theorem State.bumpSeq_rest (s : State) : s.bumpSeq.rest = s.rest := by rw [State.bumpSeq_eq]; rfl
@[simp] theorem State.bumpSeq_mem (s : State) : s.bumpSeq.mem = s.mem := by rw [State.bumpSeq_eq]; rfl
@[simp] theorem State.bumpSeq_gangs (s : State) : s.bumpSeq.gangs = s.gangs := by rw [State.bumpSeq_eq]; rfl
@[simp] theorem State.bumpSeq_nextGang (s : State) : s.bumpSeq.nextGang = s.nextGang := by rw [State.bumpSeq_eq]; rfl
@[simp] theorem State.bumpSeq_clusters (s : State) : s.bumpSeq.clusters = s.clusters := by rw [State.bumpSeq_eq]; rfl
@[simp] theorem State.bumpSeq_ctxs (s : State) : s.bumpSeq.ctxs = s.ctxs := by rw [State.bumpSeq_eq]; rfl
@[simp] theorem State.bumpSeq_dev (s : State) : s.bumpSeq.dev = s.dev := by rw [State.bumpSeq_eq]; rfl
@[simp] theorem State.bumpSeq_ev (s : State) : s.bumpSeq.ev = s.ev := by rw [State.bumpSeq_eq]; rfl
@[simp] theorem State.bumpSeq_sched (s : State) : s.bumpSeq.sched = s.sched := by rw [State.bumpSeq_eq]; rfl
@[simp] theorem State.bumpSeq_fresh (s : State) : s.bumpSeq.fresh = s.fresh := by rw [State.bumpSeq_eq]; rfl
@[simp] theorem State.bumpSeq_core_id (s : State) : s.bumpSeq.core.id = s.core.id := by rw [State.bumpSeq_eq]; rfl
@[simp] theorem State.bumpSeq_core_fw (s : State) : s.bumpSeq.core.fw = s.core.fw := by rw [State.bumpSeq_eq]; rfl
@[simp] theorem State.bumpSeq_core_run (s : State) : s.bumpSeq.core.run = s.core.run := by rw [State.bumpSeq_eq]; rfl
@[simp] theorem State.bumpSeq_core_g (s : State) : s.bumpSeq.core.g = s.core.g := by rw [State.bumpSeq_eq]; rfl
@[simp] theorem State.bumpSeq_core_sys (s : State) : s.bumpSeq.core.sys = s.core.sys := by rw [State.bumpSeq_eq]; rfl
@[simp] theorem State.bumpSeq_core_mat (s : State) : s.bumpSeq.core.mat = s.core.mat := by rw [State.bumpSeq_eq]; rfl
@[simp] theorem State.bumpSeq_core_tile (s : State) : s.bumpSeq.core.tile = s.core.tile := by rw [State.bumpSeq_eq]; rfl
@[simp] theorem State.bumpSeq_core_port (s : State) : s.bumpSeq.core.port = s.core.port := by rw [State.bumpSeq_eq]; rfl
@[simp] theorem State.bumpSeq_core_sloe (s : State) : s.bumpSeq.core.sloe = s.core.sloe := by rw [State.bumpSeq_eq]; rfl
@[simp] theorem State.bumpSeq_core_rsvstat (s : State) : s.bumpSeq.core.rsvstat = s.core.rsvstat := by rw [State.bumpSeq_eq]; rfl
@[simp] theorem State.bumpSeq_core_detid (s : State) : s.bumpSeq.core.detid = s.core.detid := by rw [State.bumpSeq_eq]; rfl
@[simp] theorem State.bumpSeq_core_dstat (s : State) : s.bumpSeq.core.dstat = s.core.dstat := by rw [State.bumpSeq_eq]; rfl
@[simp] theorem State.bumpSeq_core_cmds (s : State) : s.bumpSeq.core.cmds = s.core.cmds := by rw [State.bumpSeq_eq]; rfl
@[simp] theorem State.bumpSeq_core_tlb (s : State) : s.bumpSeq.core.tlb = s.core.tlb := by rw [State.bumpSeq_eq]; rfl
@[simp] theorem State.bumpSeq_core_gang (s : State) : s.bumpSeq.core.gang = s.core.gang := by rw [State.bumpSeq_eq]; rfl
@[simp] theorem State.bumpSeq_core_rank (s : State) : s.bumpSeq.core.rank = s.core.rank := by rw [State.bumpSeq_eq]; rfl
@[simp] theorem State.bumpSeq_core_lastTask (s : State) : s.bumpSeq.core.lastTask = s.core.lastTask := by rw [State.bumpSeq_eq]; rfl
@[simp] theorem State.bumpSeq_core_solo (s : State) : s.bumpSeq.core.solo = s.core.solo := by rw [State.bumpSeq_eq]; rfl
@[simp] theorem State.bumpSeq_core_detDone (s : State) : s.bumpSeq.core.detDone = s.core.detDone := by rw [State.bumpSeq_eq]; rfl
@[simp] theorem State.bumpSeq_core_mgmtReq (s : State) : s.bumpSeq.core.mgmtReq = s.core.mgmtReq := by rw [State.bumpSeq_eq]; rfl
@[simp] theorem State.bumpSeq_core_regErr (s : State) : s.bumpSeq.core.regErr = s.core.regErr := by rw [State.bumpSeq_eq]; rfl
@[simp] theorem State.bumpSeq_core_pc (s : State) : s.bumpSeq.core.pc = s.core.pc := by rw [State.bumpSeq_eq]; rfl
@[simp] theorem State.bumpSeq_core_vec (s : State) : s.bumpSeq.core.vec = s.core.vec := by rw [State.bumpSeq_eq]; rfl
@[simp] theorem State.bumpSeq_core_blk (s : State) : s.bumpSeq.core.blk = s.core.blk := by rw [State.bumpSeq_eq]; rfl
@[simp] theorem State.bumpSeq_core_vp (s : State) : s.bumpSeq.core.vp = s.core.vp := by rw [State.bumpSeq_eq]; rfl
@[simp] theorem State.bumpSeq_core_wait (s : State) : s.bumpSeq.core.wait = s.core.wait := by rw [State.bumpSeq_eq]; rfl

@[simp] theorem State.endRun_rest (s : State) : s.endRun.rest = s.rest := rfl
@[simp] theorem State.endRun_mem (s : State) : s.endRun.mem = s.mem := rfl
@[simp] theorem State.endRun_gangs (s : State) : s.endRun.gangs = s.gangs := rfl
@[simp] theorem State.endRun_nextGang (s : State) : s.endRun.nextGang = s.nextGang := rfl
@[simp] theorem State.endRun_clusters (s : State) : s.endRun.clusters = s.clusters := rfl
@[simp] theorem State.endRun_ctxs (s : State) : s.endRun.ctxs = s.ctxs := rfl
@[simp] theorem State.endRun_dev (s : State) : s.endRun.dev = s.dev := rfl
@[simp] theorem State.endRun_ev (s : State) : s.endRun.ev = s.ev := rfl
@[simp] theorem State.endRun_sched (s : State) : s.endRun.sched = s.sched := rfl
@[simp] theorem State.endRun_fresh (s : State) : s.endRun.fresh = s.fresh := rfl
@[simp] theorem State.endRun_core_id (s : State) : s.endRun.core.id = s.core.id := rfl
@[simp] theorem State.endRun_core_fw (s : State) : s.endRun.core.fw = s.core.fw := rfl
@[simp] theorem State.endRun_core_run (s : State) : s.endRun.core.run = s.core.run := rfl
@[simp] theorem State.endRun_core_g (s : State) : s.endRun.core.g = s.core.g := rfl
@[simp] theorem State.endRun_core_sys (s : State) : s.endRun.core.sys = s.core.sys := rfl
@[simp] theorem State.endRun_core_mat (s : State) : s.endRun.core.mat = s.core.mat := rfl
@[simp] theorem State.endRun_core_tile (s : State) : s.endRun.core.tile = s.core.tile := rfl
@[simp] theorem State.endRun_core_port (s : State) : s.endRun.core.port = s.core.port := rfl
@[simp] theorem State.endRun_core_sloe (s : State) : s.endRun.core.sloe = s.core.sloe := rfl
@[simp] theorem State.endRun_core_rsvstat (s : State) : s.endRun.core.rsvstat = s.core.rsvstat := rfl
@[simp] theorem State.endRun_core_detid (s : State) : s.endRun.core.detid = s.core.detid := rfl
@[simp] theorem State.endRun_core_dstat (s : State) : s.endRun.core.dstat = s.core.dstat := rfl
@[simp] theorem State.endRun_core_cmds (s : State) : s.endRun.core.cmds = s.core.cmds := rfl
@[simp] theorem State.endRun_core_tlb (s : State) : s.endRun.core.tlb = s.core.tlb := rfl
@[simp] theorem State.endRun_core_gang (s : State) : s.endRun.core.gang = s.core.gang := rfl
@[simp] theorem State.endRun_core_rank (s : State) : s.endRun.core.rank = s.core.rank := rfl
@[simp] theorem State.endRun_core_lastTask (s : State) : s.endRun.core.lastTask = s.core.lastTask := rfl
@[simp] theorem State.endRun_core_solo (s : State) : s.endRun.core.solo = s.core.solo := rfl
@[simp] theorem State.endRun_core_detDone (s : State) : s.endRun.core.detDone = s.core.detDone := rfl
@[simp] theorem State.endRun_core_mgmtReq (s : State) : s.endRun.core.mgmtReq = s.core.mgmtReq := rfl
@[simp] theorem State.endRun_core_regErr (s : State) : s.endRun.core.regErr = s.core.regErr := rfl
@[simp] theorem State.endRun_core_vp (s : State) : s.endRun.core.vp = s.core.vp := rfl
@[simp] theorem State.endRun_core_wait (s : State) : s.endRun.core.wait = s.core.wait := rfl

@[simp] theorem State.nextInRun_rest (s : State) : s.nextInRun.rest = s.rest := by
  unfold State.nextInRun; dsimp only; (repeat' split) <;> rfl
@[simp] theorem State.nextInRun_mem (s : State) : s.nextInRun.mem = s.mem := by
  unfold State.nextInRun; dsimp only; (repeat' split) <;> rfl
@[simp] theorem State.nextInRun_gangs (s : State) : s.nextInRun.gangs = s.gangs := by
  unfold State.nextInRun; dsimp only; (repeat' split) <;> rfl
@[simp] theorem State.nextInRun_nextGang (s : State) : s.nextInRun.nextGang = s.nextGang := by
  unfold State.nextInRun; dsimp only; (repeat' split) <;> rfl
@[simp] theorem State.nextInRun_clusters (s : State) : s.nextInRun.clusters = s.clusters := by
  unfold State.nextInRun; dsimp only; (repeat' split) <;> rfl
@[simp] theorem State.nextInRun_ctxs (s : State) : s.nextInRun.ctxs = s.ctxs := by
  unfold State.nextInRun; dsimp only; (repeat' split) <;> rfl
@[simp] theorem State.nextInRun_dev (s : State) : s.nextInRun.dev = s.dev := by
  unfold State.nextInRun; dsimp only; (repeat' split) <;> rfl
@[simp] theorem State.nextInRun_ev (s : State) : s.nextInRun.ev = s.ev := by
  unfold State.nextInRun; dsimp only; (repeat' split) <;> rfl
@[simp] theorem State.nextInRun_sched (s : State) : s.nextInRun.sched = s.sched := by
  unfold State.nextInRun; dsimp only; (repeat' split) <;> rfl
@[simp] theorem State.nextInRun_fresh (s : State) : s.nextInRun.fresh = s.fresh := by
  unfold State.nextInRun; dsimp only; (repeat' split) <;> rfl
@[simp] theorem State.nextInRun_core_id (s : State) : s.nextInRun.core.id = s.core.id := by
  unfold State.nextInRun; dsimp only; (repeat' split) <;> rfl
@[simp] theorem State.nextInRun_core_fw (s : State) : s.nextInRun.core.fw = s.core.fw := by
  unfold State.nextInRun; dsimp only; (repeat' split) <;> rfl
@[simp] theorem State.nextInRun_core_run (s : State) : s.nextInRun.core.run = s.core.run := by
  unfold State.nextInRun; dsimp only; (repeat' split) <;> rfl
@[simp] theorem State.nextInRun_core_g (s : State) : s.nextInRun.core.g = s.core.g := by
  unfold State.nextInRun; dsimp only; (repeat' split) <;> rfl
@[simp] theorem State.nextInRun_core_sys (s : State) : s.nextInRun.core.sys = s.core.sys := by
  unfold State.nextInRun; dsimp only; (repeat' split) <;> rfl
@[simp] theorem State.nextInRun_core_mat (s : State) : s.nextInRun.core.mat = s.core.mat := by
  unfold State.nextInRun; dsimp only; (repeat' split) <;> rfl
@[simp] theorem State.nextInRun_core_tile (s : State) : s.nextInRun.core.tile = s.core.tile := by
  unfold State.nextInRun; dsimp only; (repeat' split) <;> rfl
@[simp] theorem State.nextInRun_core_port (s : State) : s.nextInRun.core.port = s.core.port := by
  unfold State.nextInRun; dsimp only; (repeat' split) <;> rfl
@[simp] theorem State.nextInRun_core_sloe (s : State) : s.nextInRun.core.sloe = s.core.sloe := by
  unfold State.nextInRun; dsimp only; (repeat' split) <;> rfl
@[simp] theorem State.nextInRun_core_rsvstat (s : State) : s.nextInRun.core.rsvstat = s.core.rsvstat := by
  unfold State.nextInRun; dsimp only; (repeat' split) <;> rfl
@[simp] theorem State.nextInRun_core_detid (s : State) : s.nextInRun.core.detid = s.core.detid := by
  unfold State.nextInRun; dsimp only; (repeat' split) <;> rfl
@[simp] theorem State.nextInRun_core_dstat (s : State) : s.nextInRun.core.dstat = s.core.dstat := by
  unfold State.nextInRun; dsimp only; (repeat' split) <;> rfl
@[simp] theorem State.nextInRun_core_cmds (s : State) : s.nextInRun.core.cmds = s.core.cmds := by
  unfold State.nextInRun; dsimp only; (repeat' split) <;> rfl
@[simp] theorem State.nextInRun_core_tlb (s : State) : s.nextInRun.core.tlb = s.core.tlb := by
  unfold State.nextInRun; dsimp only; (repeat' split) <;> rfl
@[simp] theorem State.nextInRun_core_gang (s : State) : s.nextInRun.core.gang = s.core.gang := by
  unfold State.nextInRun; dsimp only; (repeat' split) <;> rfl
@[simp] theorem State.nextInRun_core_rank (s : State) : s.nextInRun.core.rank = s.core.rank := by
  unfold State.nextInRun; dsimp only; (repeat' split) <;> rfl
@[simp] theorem State.nextInRun_core_lastTask (s : State) : s.nextInRun.core.lastTask = s.core.lastTask := by
  unfold State.nextInRun; dsimp only; (repeat' split) <;> rfl
@[simp] theorem State.nextInRun_core_solo (s : State) : s.nextInRun.core.solo = s.core.solo := by
  unfold State.nextInRun; dsimp only; (repeat' split) <;> rfl
@[simp] theorem State.nextInRun_core_detDone (s : State) : s.nextInRun.core.detDone = s.core.detDone := by
  unfold State.nextInRun; dsimp only; (repeat' split) <;> rfl
@[simp] theorem State.nextInRun_core_mgmtReq (s : State) : s.nextInRun.core.mgmtReq = s.core.mgmtReq := by
  unfold State.nextInRun; dsimp only; (repeat' split) <;> rfl
@[simp] theorem State.nextInRun_core_regErr (s : State) : s.nextInRun.core.regErr = s.core.regErr := by
  unfold State.nextInRun; dsimp only; (repeat' split) <;> rfl
@[simp] theorem State.nextInRun_core_vp (s : State) : s.nextInRun.core.vp = s.core.vp := by
  unfold State.nextInRun; dsimp only; (repeat' split) <;> rfl
@[simp] theorem State.nextInRun_core_wait (s : State) : s.nextInRun.core.wait = s.core.wait := by
  unfold State.nextInRun; dsimp only; (repeat' split) <;> rfl

@[simp] theorem State.nextWord_rest (s : State) : s.nextWord.rest = s.rest := by
  unfold State.nextWord; split
  · exact State.nextInRun_rest s
  · rfl
@[simp] theorem State.nextWord_mem (s : State) : s.nextWord.mem = s.mem := by
  unfold State.nextWord; split
  · exact State.nextInRun_mem s
  · rfl
@[simp] theorem State.nextWord_gangs (s : State) : s.nextWord.gangs = s.gangs := by
  unfold State.nextWord; split
  · exact State.nextInRun_gangs s
  · rfl
@[simp] theorem State.nextWord_nextGang (s : State) : s.nextWord.nextGang = s.nextGang := by
  unfold State.nextWord; split
  · exact State.nextInRun_nextGang s
  · rfl
@[simp] theorem State.nextWord_clusters (s : State) : s.nextWord.clusters = s.clusters := by
  unfold State.nextWord; split
  · exact State.nextInRun_clusters s
  · rfl
@[simp] theorem State.nextWord_ctxs (s : State) : s.nextWord.ctxs = s.ctxs := by
  unfold State.nextWord; split
  · exact State.nextInRun_ctxs s
  · rfl
@[simp] theorem State.nextWord_dev (s : State) : s.nextWord.dev = s.dev := by
  unfold State.nextWord; split
  · exact State.nextInRun_dev s
  · rfl
@[simp] theorem State.nextWord_ev (s : State) : s.nextWord.ev = s.ev := by
  unfold State.nextWord; split
  · exact State.nextInRun_ev s
  · rfl
@[simp] theorem State.nextWord_sched (s : State) : s.nextWord.sched = s.sched := by
  unfold State.nextWord; split
  · exact State.nextInRun_sched s
  · rfl
@[simp] theorem State.nextWord_fresh (s : State) : s.nextWord.fresh = s.fresh := by
  unfold State.nextWord; split
  · exact State.nextInRun_fresh s
  · rfl
@[simp] theorem State.nextWord_core_id (s : State) : s.nextWord.core.id = s.core.id := by
  unfold State.nextWord; split
  · exact State.nextInRun_core_id s
  · rfl
@[simp] theorem State.nextWord_core_fw (s : State) : s.nextWord.core.fw = s.core.fw := by
  unfold State.nextWord; split
  · exact State.nextInRun_core_fw s
  · rfl
@[simp] theorem State.nextWord_core_run (s : State) : s.nextWord.core.run = s.core.run := by
  unfold State.nextWord; split
  · exact State.nextInRun_core_run s
  · rfl
@[simp] theorem State.nextWord_core_g (s : State) : s.nextWord.core.g = s.core.g := by
  unfold State.nextWord; split
  · exact State.nextInRun_core_g s
  · rfl
@[simp] theorem State.nextWord_core_sys (s : State) : s.nextWord.core.sys = s.core.sys := by
  unfold State.nextWord; split
  · exact State.nextInRun_core_sys s
  · rfl
@[simp] theorem State.nextWord_core_mat (s : State) : s.nextWord.core.mat = s.core.mat := by
  unfold State.nextWord; split
  · exact State.nextInRun_core_mat s
  · rfl
@[simp] theorem State.nextWord_core_tile (s : State) : s.nextWord.core.tile = s.core.tile := by
  unfold State.nextWord; split
  · exact State.nextInRun_core_tile s
  · rfl
@[simp] theorem State.nextWord_core_port (s : State) : s.nextWord.core.port = s.core.port := by
  unfold State.nextWord; split
  · exact State.nextInRun_core_port s
  · rfl
@[simp] theorem State.nextWord_core_sloe (s : State) : s.nextWord.core.sloe = s.core.sloe := by
  unfold State.nextWord; split
  · exact State.nextInRun_core_sloe s
  · rfl
@[simp] theorem State.nextWord_core_rsvstat (s : State) : s.nextWord.core.rsvstat = s.core.rsvstat := by
  unfold State.nextWord; split
  · exact State.nextInRun_core_rsvstat s
  · rfl
@[simp] theorem State.nextWord_core_detid (s : State) : s.nextWord.core.detid = s.core.detid := by
  unfold State.nextWord; split
  · exact State.nextInRun_core_detid s
  · rfl
@[simp] theorem State.nextWord_core_dstat (s : State) : s.nextWord.core.dstat = s.core.dstat := by
  unfold State.nextWord; split
  · exact State.nextInRun_core_dstat s
  · rfl
@[simp] theorem State.nextWord_core_cmds (s : State) : s.nextWord.core.cmds = s.core.cmds := by
  unfold State.nextWord; split
  · exact State.nextInRun_core_cmds s
  · rfl
@[simp] theorem State.nextWord_core_tlb (s : State) : s.nextWord.core.tlb = s.core.tlb := by
  unfold State.nextWord; split
  · exact State.nextInRun_core_tlb s
  · rfl
@[simp] theorem State.nextWord_core_gang (s : State) : s.nextWord.core.gang = s.core.gang := by
  unfold State.nextWord; split
  · exact State.nextInRun_core_gang s
  · rfl
@[simp] theorem State.nextWord_core_rank (s : State) : s.nextWord.core.rank = s.core.rank := by
  unfold State.nextWord; split
  · exact State.nextInRun_core_rank s
  · rfl
@[simp] theorem State.nextWord_core_lastTask (s : State) : s.nextWord.core.lastTask = s.core.lastTask := by
  unfold State.nextWord; split
  · exact State.nextInRun_core_lastTask s
  · rfl
@[simp] theorem State.nextWord_core_solo (s : State) : s.nextWord.core.solo = s.core.solo := by
  unfold State.nextWord; split
  · exact State.nextInRun_core_solo s
  · rfl
@[simp] theorem State.nextWord_core_detDone (s : State) : s.nextWord.core.detDone = s.core.detDone := by
  unfold State.nextWord; split
  · exact State.nextInRun_core_detDone s
  · rfl
@[simp] theorem State.nextWord_core_mgmtReq (s : State) : s.nextWord.core.mgmtReq = s.core.mgmtReq := by
  unfold State.nextWord; split
  · exact State.nextInRun_core_mgmtReq s
  · rfl
@[simp] theorem State.nextWord_core_regErr (s : State) : s.nextWord.core.regErr = s.core.regErr := by
  unfold State.nextWord; split
  · exact State.nextInRun_core_regErr s
  · rfl
@[simp] theorem State.nextWord_core_vp (s : State) : s.nextWord.core.vp = s.core.vp := by
  unfold State.nextWord; split
  · exact State.nextInRun_core_vp s
  · rfl
@[simp] theorem State.nextWord_core_wait (s : State) : s.nextWord.core.wait = s.core.wait := by
  unfold State.nextWord; split
  · exact State.nextInRun_core_wait s
  · rfl

/-- The move to the next word changes no part of the module outside the core in focus. -/
theorem State.next_outside (s : State) : s.next = { s with core := s.next.core } := by
  have h : ∀ t : State, t.rest = s.rest → t.mem = s.mem → t.gangs = s.gangs → t.nextGang = s.nextGang → t.clusters = s.clusters →
      t.ctxs = s.ctxs → t.dev = s.dev → t.ev = s.ev → t.sched = s.sched → t.fresh = s.fresh → t = { s with core := t.core } := by
    rintro ⟨⟩ h1 h2 h3 h4 h5 h6 h7 h8 h9 h10
    simp_all
  apply h <;> (unfold State.next; dsimp only; split <;> simp)

@[simp] theorem State.next_rest (s : State) : s.next.rest = s.rest := by
  unfold State.next; dsimp only; split <;> simp
@[simp] theorem State.next_mem (s : State) : s.next.mem = s.mem := by
  unfold State.next; dsimp only; split <;> simp
@[simp] theorem State.next_gangs (s : State) : s.next.gangs = s.gangs := by
  unfold State.next; dsimp only; split <;> simp
@[simp] theorem State.next_nextGang (s : State) : s.next.nextGang = s.nextGang := by
  unfold State.next; dsimp only; split <;> simp
@[simp] theorem State.next_clusters (s : State) : s.next.clusters = s.clusters := by
  unfold State.next; dsimp only; split <;> simp
@[simp] theorem State.next_ctxs (s : State) : s.next.ctxs = s.ctxs := by
  unfold State.next; dsimp only; split <;> simp
@[simp] theorem State.next_dev (s : State) : s.next.dev = s.dev := by
  unfold State.next; dsimp only; split <;> simp
@[simp] theorem State.next_ev (s : State) : s.next.ev = s.ev := by
  unfold State.next; dsimp only; split <;> simp
@[simp] theorem State.next_sched (s : State) : s.next.sched = s.sched := by
  unfold State.next; dsimp only; split <;> simp
@[simp] theorem State.next_fresh (s : State) : s.next.fresh = s.fresh := by
  unfold State.next; dsimp only; split <;> simp
@[simp] theorem State.next_core_id (s : State) : s.next.core.id = s.core.id := by
  unfold State.next; dsimp only; split <;> simp
@[simp] theorem State.next_core_fw (s : State) : s.next.core.fw = s.core.fw := by
  unfold State.next; dsimp only; split <;> simp
@[simp] theorem State.next_core_run (s : State) : s.next.core.run = s.core.run := by
  unfold State.next; dsimp only; split <;> simp
@[simp] theorem State.next_core_g (s : State) : s.next.core.g = s.core.g := by
  unfold State.next; dsimp only; split <;> simp
@[simp] theorem State.next_core_sys (s : State) : s.next.core.sys = s.core.sys := by
  unfold State.next; dsimp only; split <;> simp
@[simp] theorem State.next_core_mat (s : State) : s.next.core.mat = s.core.mat := by
  unfold State.next; dsimp only; split <;> simp
@[simp] theorem State.next_core_tile (s : State) : s.next.core.tile = s.core.tile := by
  unfold State.next; dsimp only; split <;> simp
@[simp] theorem State.next_core_port (s : State) : s.next.core.port = s.core.port := by
  unfold State.next; dsimp only; split <;> simp
@[simp] theorem State.next_core_sloe (s : State) : s.next.core.sloe = s.core.sloe := by
  unfold State.next; dsimp only; split <;> simp
@[simp] theorem State.next_core_rsvstat (s : State) : s.next.core.rsvstat = s.core.rsvstat := by
  unfold State.next; dsimp only; split <;> simp
@[simp] theorem State.next_core_detid (s : State) : s.next.core.detid = s.core.detid := by
  unfold State.next; dsimp only; split <;> simp
@[simp] theorem State.next_core_dstat (s : State) : s.next.core.dstat = s.core.dstat := by
  unfold State.next; dsimp only; split <;> simp
@[simp] theorem State.next_core_cmds (s : State) : s.next.core.cmds = s.core.cmds := by
  unfold State.next; dsimp only; split <;> simp
@[simp] theorem State.next_core_tlb (s : State) : s.next.core.tlb = s.core.tlb := by
  unfold State.next; dsimp only; split <;> simp
@[simp] theorem State.next_core_gang (s : State) : s.next.core.gang = s.core.gang := by
  unfold State.next; dsimp only; split <;> simp
@[simp] theorem State.next_core_rank (s : State) : s.next.core.rank = s.core.rank := by
  unfold State.next; dsimp only; split <;> simp
@[simp] theorem State.next_core_lastTask (s : State) : s.next.core.lastTask = s.core.lastTask := by
  unfold State.next; dsimp only; split <;> simp
@[simp] theorem State.next_core_solo (s : State) : s.next.core.solo = s.core.solo := by
  unfold State.next; dsimp only; split <;> simp
@[simp] theorem State.next_core_detDone (s : State) : s.next.core.detDone = s.core.detDone := by
  unfold State.next; dsimp only; split <;> simp
@[simp] theorem State.next_core_mgmtReq (s : State) : s.next.core.mgmtReq = s.core.mgmtReq := by
  unfold State.next; dsimp only; split <;> simp
@[simp] theorem State.next_core_regErr (s : State) : s.next.core.regErr = s.core.regErr := by
  unfold State.next; dsimp only; split <;> simp

@[simp] theorem State.next_wait (s : State) : s.next.core.wait = none := by
  unfold State.next; dsimp only; split <;> simp

@[simp] theorem State.next_g (s : State) (r : BitVec 5) : s.next.g r = s.g r := by unfold State.g; simp

/-- Outside a run and a VP block the next word is the one after the pc (R132). -/
theorem State.next_pc (s : State) (hv : s.core.vp.live = false) (hb : s.core.blk.live = false) : s.next.core.pc = s.core.pc + 4 := by
  unfold State.next; dsimp only
  rw [if_neg (by simp [hv])]
  unfold State.nextWord
  rw [if_neg (by simp [hb])]
  simp

/-- Outside a run and a VP block the move changes neither vectors, nor the block buffer, nor the VP state. -/
theorem State.next_still (s : State) (hv : s.core.vp.live = false) (hb : s.core.blk.live = false) :
    s.next.core.vec = s.core.vec ∧ s.next.core.blk = s.core.blk ∧ s.next.core.vp = s.core.vp := by
  unfold State.next; dsimp only
  rw [if_neg (by simp [hv])]
  unfold State.nextWord
  rw [if_neg (by simp [hb])]
  simp

/-- In a VP block only the PCs of the group that executes move (R388). -/
theorem State.next_vp (s : State) (hv : s.core.vp.live = true) :
    s.next.core.pc = s.core.pc ∧ s.next.core.vec = s.core.vec ∧ s.next.core.blk = s.core.blk
      ∧ s.next.core.vp = { s.core.vp with
          pcs := s.core.vp.pcs.map (fun x => if s.core.vp.grp.getLsbD x.1.toNat then (x.1, x.2 + 4) else x) } := by
  unfold State.next; dsimp only
  rw [if_pos (by simp [hv])]
  simp [VpState.advance]

/-! ## Waits -/

@[simp] theorem State.stand_rest (s : State) (w : Wait) : (s.stand w).rest = s.rest := rfl
@[simp] theorem State.stand_mem (s : State) (w : Wait) : (s.stand w).mem = s.mem := rfl
@[simp] theorem State.stand_gangs (s : State) (w : Wait) : (s.stand w).gangs = s.gangs := rfl
@[simp] theorem State.stand_nextGang (s : State) (w : Wait) : (s.stand w).nextGang = s.nextGang := rfl
@[simp] theorem State.stand_clusters (s : State) (w : Wait) : (s.stand w).clusters = s.clusters := rfl
@[simp] theorem State.stand_ctxs (s : State) (w : Wait) : (s.stand w).ctxs = s.ctxs := rfl
@[simp] theorem State.stand_dev (s : State) (w : Wait) : (s.stand w).dev = s.dev := rfl
@[simp] theorem State.stand_ev (s : State) (w : Wait) : (s.stand w).ev = s.ev := rfl
@[simp] theorem State.stand_sched (s : State) (w : Wait) : (s.stand w).sched = s.sched := rfl
@[simp] theorem State.stand_fresh (s : State) (w : Wait) : (s.stand w).fresh = s.fresh := rfl
@[simp] theorem State.stand_core (s : State) (w : Wait) : (s.stand w).core = { s.core with wait := some w } := rfl

/-! ## What repairing correctable errors changes (R116) -/

/-- The repair of correctable errors changes the I/O die's records alone. -/
theorem State.correct_eq (s : State) (pa n : Nat) : s.correct pa n = { s with dev := (s.correct pa n).dev } := by
  unfold State.correct; split <;> rfl

theorem State.correctAll_eq (l : List Nat) (s : State) :
    l.foldl (fun t pa => t.correct pa 8) s = { s with dev := (l.foldl (fun t pa => t.correct pa 8) s).dev } := by
  induction l generalizing s with
  | nil => rfl
  | cons a r ih => rw [List.foldl_cons, ih (s.correct a 8), State.correct_eq s a 8]

theorem State.repairWalk_eq (s : State) (ctx : BitVec 8) (va : Nat) :
    s.repairWalk ctx va = { s with dev := (s.repairWalk ctx va).dev } := by
  unfold State.repairWalk; dsimp only; split
  · rfl
  · exact State.correctAll_eq _ s

theorem State.repairFault_eq (s : State) (t : Trap) : s.repairFault t = { s with dev := (s.repairFault t).dev } := by
  unfold State.repairFault State.repairMiss
  split
  · rfl
  · exact State.repairWalk_eq _ _ _

@[simp] theorem State.repairFault_core (s : State) (t : Trap) : (s.repairFault t).core = s.core := by
  rw [State.repairFault_eq]
@[simp] theorem State.repairFault_mem (s : State) (t : Trap) : (s.repairFault t).mem = s.mem := by
  rw [State.repairFault_eq]

/-- A trap touches no more than the numbers of writes to DT pages before it is entered. -/
theorem State.holdSeq_eq (s : State) : s.holdSeq = s.onCore (fun c => { c with
    seq := s.holdSeq.core.seq, seqNext := s.holdSeq.core.seqNext, seqHeld := s.holdSeq.core.seqHeld }) := by
  unfold State.holdSeq
  split
  · rfl
  · split <;> rfl

@[simp] theorem State.holdSeq_mem (s : State) : s.holdSeq.mem = s.mem := by rw [State.holdSeq_eq]; rfl
@[simp] theorem State.holdSeq_rest (s : State) : s.holdSeq.rest = s.rest := by rw [State.holdSeq_eq]; rfl
@[simp] theorem State.holdSeq_sys (s : State) : s.holdSeq.core.sys = s.core.sys := by rw [State.holdSeq_eq]; rfl
@[simp] theorem State.holdSeq_g (s : State) : s.holdSeq.core.g = s.core.g := by rw [State.holdSeq_eq]; rfl
@[simp] theorem State.holdSeq_pc (s : State) : s.holdSeq.core.pc = s.core.pc := by rw [State.holdSeq_eq]; rfl
@[simp] theorem State.holdSeq_vp (s : State) : s.holdSeq.core.vp = s.core.vp := by rw [State.holdSeq_eq]; rfl
@[simp] theorem State.holdSeq_vec (s : State) : s.holdSeq.core.vec = s.core.vec := by rw [State.holdSeq_eq]; rfl
@[simp] theorem State.holdSeq_trapPc (s : State) (t : Trap) : s.holdSeq.trapPc t = s.trapPc t := by simp [State.trapPc]
@[simp] theorem State.repairFault_trapPc (s : State) (t u : Trap) : (s.repairFault u).trapPc t = s.trapPc t := by
  simp [State.trapPc]

/-! ## Trap entry and return (R396, R415) -/

/-- A trap of a numbered core at user or supervisor level that is no second trap (R396, R397): the saved registers, the
new level and the handler's address. -/
theorem State.enterTrap_user (s : State) (t : Trap) (hm : s.pl ≠ plMach) (hn : s.core.sys.nest = false) (hb : t.bad = none) :
    (s.enterTrap t).core.pc = fld s.core.sys.tvec 2 62 ++ 0#2
      ∧ (s.enterTrap t).core.sys = { s.core.sys with
          cause := zext t.cause, epc := s.trapPc t, tval := t.tval
          xlinfo := t.xlinfo.getD s.core.sys.xlinfo, status := statusWord true s.core.sys.aie false s.core.sys.pl plSup }
      ∧ (s.enterTrap t).mem = s.mem ∧ (s.enterTrap t).core.g = s.core.g := by
  have h1 : (s.core.sys.pl == plMach) = false := by simpa [State.pl] using hm
  unfold State.enterTrap
  simp only [hb, State.quarantineFault]
  rw [if_neg (by simp [h1]), if_neg (by simp [hn])]
  refine ⟨by simp, by simp, by simp, ?_⟩
  simp [Core.pauseRuns, Core.dropLine]
  split <;> simp

/-- A trap at machine level (R396). -/
theorem State.enterTrap_machine (s : State) (t : Trap) (hm : s.pl = plMach) (hb : t.bad = none) :
    (s.enterTrap t).core.pc = fld s.core.sys.mtvec 2 62 ++ 0#2
      ∧ (s.enterTrap t).core.sys = { s.core.sys with
          mcause := zext t.cause, mepc := s.trapPc t, mtval := t.tval
          xlinfo := t.xlinfo.getD s.core.sys.xlinfo }
      ∧ (s.enterTrap t).mem = s.mem ∧ (s.enterTrap t).core.g = s.core.g := by
  have h1 : (s.core.sys.pl == plMach) = true := by simpa [State.pl] using hm
  unfold State.enterTrap
  simp only [hb, State.quarantineFault]
  rw [if_pos (by simpa using h1)]
  refine ⟨by simp, by simp, by simp, ?_⟩
  simp [Core.pauseRuns, Core.dropLine]
  split <;> simp

@[simp] theorem State.quarantine_mem (s : State) (pa : Nat) : (s.quarantine pa).mem = s.mem := rfl

@[simp] theorem State.quarantineFault_mem (s : State) (b : Option Nat) : (s.quarantineFault b).mem = s.mem := by
  unfold State.quarantineFault
  split
  · rfl
  · split <;> rfl

@[simp] theorem State.doubleTrap_mem (s : State) (t : Trap) : (s.doubleTrap t).mem = s.mem := by
  unfold State.doubleTrap; dsimp only; split <;> rfl

/-- A trap stores nothing. -/
@[simp] theorem State.enterTrap_mem (s : State) (t : Trap) : (s.enterTrap t).mem = s.mem := by
  unfold State.enterTrap
  dsimp only
  split
  · simp
  · split <;> simp

@[simp] theorem State.leaveTrap_mem (s : State) (t : Word) : (s.leaveTrap t).mem = s.mem := rfl
@[simp] theorem State.leaveTrap_pc (s : State) (t : Word) : (s.leaveTrap t).core.pc = t := rfl
@[simp] theorem State.leaveTrap_g (s : State) (t : Word) : (s.leaveTrap t).core.g = s.core.g := rfl

/-- The memory that the end of a form leaves is that of the state it ended with. -/
theorem Res.finish_mem {r : Res} {t : State} (h : r.finish = .next t) :
    t.mem = match r with | .done s => s.mem | .trap s _ => s.mem | .wait s _ => s.mem := by
  cases r <;> cases h <;> simp

end Sys2Proof.Machine
end

