-- ==== Sys2Proof/Laws/Access.lean ====
section
/-! SUPPORT. One access to memory: what a load and a store leave, for every access that goes through. -/

namespace Sys2Proof.Machine

/-! ## What an access touches beside its data -/

theorem withCaches_self (a : Vector Cluster 16) : withCaches a a = a := by
  refine Vector.ext fun i hi => ?_
  simp only [withCaches, Vector.getElem_ofFn, Fin.getElem_fin]

theorem withCaches_trans (a b c : Vector Cluster 16) (h : b = withCaches a b) : withCaches b c = withCaches a c := by
  refine Vector.ext fun i hi => ?_
  have hb : b[i] = { a[i] with tlb := b[i].tlb } := by
    have h1 := congrArg (fun v : Vector Cluster 16 => v[i]) h
    simpa only [withCaches, Vector.getElem_ofFn, Fin.getElem_fin] using h1
  simp only [withCaches, Vector.getElem_ofFn, Fin.getElem_fin]
  rw [hb]

/-- A cluster whose translation cache alone changes. -/
theorem withCaches_rset (a : Vector Cluster 16) (i : BitVec 4) (l : List TlbEntry) :
    rset a i { rget a i with tlb := l } = withCaches a (rset a i { rget a i with tlb := l }) := by
  refine Vector.ext fun j hj => ?_
  simp only [withCaches, rset, rget, Vector.getElem_ofFn, Fin.getElem_fin, Vector.getElem_set]
  by_cases h : i.toNat = j
  · subst h; simp only [if_true]
  · simp only [h, if_false]

theorem onlyReached_refl (s : State) : onlyReached s s := by
  unfold onlyReached; rw [withCaches_self]; rfl

theorem onlyReached_trans {s t u : State} (h1 : onlyReached s t) (h2 : onlyReached t u) : onlyReached s u := by
  have hc : withCaches t.clusters u.clusters = withCaches s.clusters u.clusters :=
    withCaches_trans _ _ _ (congrArg State.clusters h1)
  have hd : t.dev.withErrors u.dev = s.dev.withErrors u.dev := by
    rw [show t.dev = s.dev.withErrors t.dev from congrArg State.dev h1]; rfl
  unfold onlyReached at h2 ⊢
  rw [hc, hd] at h2
  rw [h1] at h2
  exact h2

/-- The repair of correctable errors goes to the records of errors found. -/
theorem State.correct_reached (s : State) (pa n : Nat) : onlyReached s (s.correct pa n) := by
  unfold State.correct
  split
  · unfold onlyReached; rw [State.onDev_clusters, withCaches_self]; rfl
  · exact onlyReached_refl s

theorem State.correctAll_reached (l : List Nat) (s : State) : onlyReached s (l.foldl (fun t pa => t.correct pa 8) s) := by
  induction l generalizing s with
  | nil => exact onlyReached_refl s
  | cons a r ih => exact onlyReached_trans (State.correct_reached s a 8) (ih _)

theorem State.repairWalk_reached (s : State) (ctx : BitVec 8) (va : Nat) : onlyReached s (s.repairWalk ctx va) := by
  unfold State.repairWalk; dsimp only; split
  · exact onlyReached_refl s
  · exact State.correctAll_reached _ s

/-- A walk's result goes to the translation caches, and what it repaired to the records of errors found. -/
theorem State.fill_reached (s : State) (x : Xl) : onlyReached s (s.fill x) := by
  unfold State.fill
  cases x.entry with
  | none => exact onlyReached_refl s
  | some e =>
    refine onlyReached_trans (State.repairWalk_reached s e.part e.vbase) ?_
    unfold onlyReached
    exact congrArg (fun c => ({ State.onCore _ _ with clusters := c } : State)) (withCaches_rset _ _ _)

@[simp] theorem State.fill_mem (s : State) (x : Xl) : (s.fill x).mem = s.mem := by rw [State.fill_reached s x]
@[simp] theorem State.fill_rest (s : State) (x : Xl) : (s.fill x).rest = s.rest := by rw [State.fill_reached s x]
@[simp] theorem State.fill_gangs (s : State) (x : Xl) : (s.fill x).gangs = s.gangs := by rw [State.fill_reached s x]
@[simp] theorem State.fill_ctxs (s : State) (x : Xl) : (s.fill x).ctxs = s.ctxs := by rw [State.fill_reached s x]
@[simp] theorem State.fill_ev (s : State) (x : Xl) : (s.fill x).ev = s.ev := by rw [State.fill_reached s x]
@[simp] theorem State.fill_sched (s : State) (x : Xl) : (s.fill x).sched = s.sched := by rw [State.fill_reached s x]
@[simp] theorem State.fill_fresh (s : State) (x : Xl) : (s.fill x).fresh = s.fresh := by rw [State.fill_reached s x]
theorem State.fill_core (s : State) (x : Xl) : (s.fill x).core = { s.core with tlb := (s.fill x).core.tlb } :=
  congrArg State.core (State.fill_reached s x)

@[simp] theorem State.correct_core (s : State) (pa n : Nat) : (s.correct pa n).core = s.core := by unfold State.correct; split <;> rfl
@[simp] theorem State.correct_mem (s : State) (pa n : Nat) : (s.correct pa n).mem = s.mem := by unfold State.correct; split <;> rfl
@[simp] theorem State.correct_ctxs (s : State) (pa n : Nat) : (s.correct pa n).ctxs = s.ctxs := by unfold State.correct; split <;> rfl
@[simp] theorem State.correct_clusters (s : State) (pa n : Nat) : (s.correct pa n).clusters = s.clusters := by unfold State.correct; split <;> rfl

/-- A write of a granule changes the device's records alone. -/
theorem State.overwrite_dev (s : State) (pa n : Nat) : s.overwrite pa n = { s with dev := (s.overwrite pa n).dev } := by
  unfold State.overwrite; split <;> rfl

@[simp] theorem State.overwrite_core (s : State) (pa n : Nat) : (s.overwrite pa n).core = s.core := by unfold State.overwrite; split <;> rfl
@[simp] theorem State.overwrite_mem (s : State) (pa n : Nat) : (s.overwrite pa n).mem = s.mem := by unfold State.overwrite; split <;> rfl
@[simp] theorem State.overwrite_ctxs (s : State) (pa n : Nat) : (s.overwrite pa n).ctxs = s.ctxs := by unfold State.overwrite; split <;> rfl
@[simp] theorem State.overwrite_clusters (s : State) (pa n : Nat) : (s.overwrite pa n).clusters = s.clusters := by unfold State.overwrite; split <;> rfl

theorem State.overwrite_reached (s : State) (pa n : Nat) : onlyReached s (s.overwrite pa n) := by
  unfold State.overwrite
  split
  · exact onlyReached_refl s
  · unfold onlyReached; rw [State.onDev_clusters, withCaches_self]; rfl

/-- What reads leave: the translation caches and the records of corrected errors. -/
theorem State.read_reached (s : State) (x : Xl) (pa n : Nat) : onlyReached s ((s.correct pa n).fill x) := by
  exact onlyReached_trans (State.correct_reached s pa n) (State.fill_reached _ x)

/-! ## Loads -/

/-- Everything that a load which goes through can do. -/
theorem load_ok {s : State} {earlier : List Cmd} {pl : BitVec 2} {kind : AccKind} {elem : Nat} {va : Word} {n : Nat} {w : Word}
    {s1 : State} (h : load s earlier pl kind elem va n = .ok (w, s1)) :
    ∃ x, reach s earlier pl kind va n = .ok x ∧ w = wordOfBytes (s.readAt x kind elem va n) ∧ s1 = (s.correct x.pa n).fill x := by
  unfold load at h
  split at h
  · cases h
  · rename_i x hx
    cases h
    exact ⟨x, hx, rfl, rfl⟩

/-- A load whose access goes through. -/
theorem load_of_reach {s : State} {earlier : List Cmd} {pl : BitVec 2} {kind : AccKind} (elem : Nat) {va : Word} {n : Nat} {x : Xl}
    (h : reach s earlier pl kind va n = .ok x) :
    load s earlier pl kind elem va n = .ok (wordOfBytes (s.readAt x kind elem va n), (s.correct x.pa n).fill x) := by
  unfold load; rw [h]

/-- A load changes no memory. -/
theorem load_reached {s : State} {earlier : List Cmd} {pl : BitVec 2} {kind : AccKind} {elem : Nat} {va : Word} {n : Nat} {w : Word}
    {s1 : State} (h : load s earlier pl kind elem va n = .ok (w, s1)) : onlyReached s s1 := by
  obtain ⟨x, _, _, rfl⟩ := load_ok h
  exact State.read_reached s x x.pa n

/-- Plain memory is read as it stands. -/
theorem State.readAt_plain (s : State) {x : Xl} (hx : x.plain = true) (kind : AccKind) (elem : Nat) (va : Word) (n : Nat) :
    s.readAt x kind elem va n = Memory.read s.mem x.pa n := by
  unfold Xl.plain at hx
  simp only [Bool.and_eq_true, Bool.not_eq_true', bne_iff_ne, ne_eq] at hx
  unfold State.readAt
  simp [hx.1.1, hx.1.2, hx.2]

/-- A byte of the value of read bytes. -/
theorem byte_ofBytes (l : List Byte) (i : Nat) (hi : i < l.length) : BitVec.ofNat 8 (ofBytes l / 256 ^ i) = l[i] := by
  induction l generalizing i with
  | nil => exact absurd hi (Nat.not_lt_zero _)
  | cons b r ih =>
    have hb := b.isLt
    cases i with
    | zero =>
      apply BitVec.eq_of_toNat_eq
      simp only [ofBytes, Nat.pow_zero, Nat.div_one, BitVec.toNat_ofNat, List.getElem_cons_zero]
      omega
    | succ i =>
      have h : ofBytes (b :: r) / 256 ^ (i + 1) = ofBytes r / 256 ^ i := by
        rw [Nat.pow_succ, Nat.mul_comm, ← Nat.div_div_eq_div_mul]
        congr 1
        simp only [ofBytes]
        omega
      rw [h, List.getElem_cons_succ]
      exact ih i (Nat.lt_of_succ_lt_succ hi)

theorem Memory.read_length (m : List Host.Cell) (a n : Nat) : (Memory.read m a n).length = n := by
  induction n generalizing a with
  | zero => rfl
  | succ n ih => simp [Memory.read, ih]

theorem Memory.read_getElem (m : List Host.Cell) (a n i : Nat) (hi : i < n) :
    (Memory.read m a n)[i]'(by rw [Memory.read_length]; exact hi) = Memory.get m (a + i) := by
  induction n generalizing a i with
  | zero => exact absurd hi (Nat.not_lt_zero _)
  | succ n ih =>
    cases i with
    | zero => rfl
    | succ i =>
      simp only [Memory.read, List.getElem_cons_succ]
      rw [ih (a + 1) i (Nat.lt_of_succ_lt_succ hi)]
      congr 1
      omega

/-- A byte of a word made of bytes of memory. -/
theorem byte_of_read (m : List Host.Cell) (a n i : Nat) (hn : n ≤ 8) (hi : i < n) :
    (wordOfBytes (Memory.read m a n)).extractLsb' (8 * i) 8 = Memory.get m (a + i) := by
  rw [← Memory.read_getElem m a n i hi, ← byte_ofBytes _ i (by rw [Memory.read_length]; exact hi)]
  apply BitVec.eq_of_toNat_eq
  simp only [wordOfBytes, BitVec.extractLsb'_toNat, BitVec.toNat_ofNat, Nat.shiftRight_eq_div_pow]
  have h1 : (256 : Nat) ^ i = 2 ^ (8 * i) := by rw [Nat.pow_mul]
  rw [h1]
  have hp : (2 : Nat) ^ 64 = 2 ^ (8 * i) * 2 ^ (64 - 8 * i) := by
    rw [← Nat.pow_add]; congr 1; omega
  rw [hp, Nat.mod_mul_right_div_self]
  have hd : (2 : Nat) ^ 8 ∣ 2 ^ (64 - 8 * i) := Nat.pow_dvd_pow 2 (by omega)
  rw [Nat.mod_mod_of_dvd _ hd]

/-! ## Stores -/

/-- A store whose access goes through. -/
theorem store_of_reach {s : State} {earlier : List Cmd} {pl : BitVec 2} {kind : AccKind} (seq elem : Nat) {va : Word} {n : Nat}
    (v : Word) {x : Xl} (h : reach s earlier pl kind va n = .ok x) :
    store s earlier pl kind seq elem va n v = .ok ((s.writeAt x seq kind elem va (toBytes n v.toNat)).fill x) := by
  unfold store; rw [h]

/-- Plain memory takes the bytes at the address reached. -/
theorem State.writeAt_plain (s : State) {x : Xl} (hx : x.plain = true) (seq : Nat) (kind : AccKind) (elem : Nat) (va : Word)
    (l : List Byte) :
    s.writeAt x seq kind elem va l = { s.overwrite x.pa l.length with mem := Memory.write s.mem x.pa l } := by
  unfold Xl.plain at hx
  simp only [Bool.and_eq_true, Bool.not_eq_true', bne_iff_ne, ne_eq] at hx
  unfold State.writeAt
  simp [hx.1.1, hx.1.2, hx.2]

/-- A byte of the bytes of a value. -/
theorem toBytes_getElem (n x i : Nat) (hi : i < n) :
    (toBytes n x)[i]'(by rw [toBytes_length]; exact hi) = BitVec.ofNat 8 (x / 256 ^ i) := by
  induction n generalizing x i with
  | zero => exact absurd hi (Nat.not_lt_zero _)
  | succ n ih =>
    cases i with
    | zero => simp [toBytes]
    | succ i =>
      simp only [toBytes, List.getElem_cons_succ]
      rw [ih (x / 256) i (Nat.lt_of_succ_lt_succ hi), Nat.div_div_eq_div_mul, Nat.pow_succ, Nat.mul_comm]

/-- A byte that was written. -/
theorem Memory.get_write (m : List Host.Cell) (a : Nat) (l : List Byte) (hm : Memory.wf m = true) (i : Nat) (hi : i < l.length) :
    Memory.get (Memory.write m a l) (a + i) = l[i] := by
  have h := Memory.read_write a l hm
  have h1 := Memory.read_getElem (Memory.write m a l) a l.length i hi
  rw [← h1]
  simp only [h]

/-- A store into plain memory: the bytes at the address reached, least significant first, and no other byte. -/
theorem State.store_plain {s : State} (hm : s.memOk) {x : Xl} (hx : x.plain = true) (seq : Nat) (kind : AccKind) (elem : Nat)
    (va : Word) (n : Nat) (_hn : n ≤ 8) (v : Word) :
    let u := (s.writeAt x seq kind elem va (toBytes n v.toNat)).fill x
    (∀ i < n, u.byteAt (x.pa + i) = v.extractLsb' (8 * i) 8) ∧ sameBut s u x.pa n ∧ onlyReached s { u with mem := s.mem }
      ∧ u.memOk := by
  intro u
  have hu : u = ({ s.overwrite x.pa n with mem := Memory.write s.mem x.pa (toBytes n v.toNat) } : State).fill x := by
    show (s.writeAt x seq kind elem va (toBytes n v.toNat)).fill x = _
    rw [State.writeAt_plain s hx, toBytes_length]
  have hmem : u.mem = Memory.write s.mem x.pa (toBytes n v.toNat) := by rw [hu, State.fill_mem]
  refine ⟨?_, ?_, ?_, ?_⟩
  · intro i hi
    unfold State.byteAt
    rw [hmem, Memory.get_write s.mem x.pa _ hm i (by rw [toBytes_length]; exact hi), toBytes_getElem n _ i hi]
    apply BitVec.eq_of_toNat_eq
    simp only [BitVec.extractLsb'_toNat, BitVec.toNat_ofNat, Nat.shiftRight_eq_div_pow]
    rw [show (256 : Nat) ^ i = 2 ^ (8 * i) by rw [Nat.pow_mul]]
  · intro a ha
    unfold State.byteAt
    rw [hmem, Memory.get_write_outside x.pa a _ hm (by rw [toBytes_length]; omega)]
  · have h2 := State.fill_reached ({ s.overwrite x.pa n with mem := Memory.write s.mem x.pa (toBytes n v.toNat) } : State) x
    rw [← hu] at h2
    have h3 : onlyReached (s.overwrite x.pa n) { u with mem := (s.overwrite x.pa n).mem } := by
      unfold onlyReached at h2 ⊢
      exact congrArg (fun t : State => ({ t with mem := (s.overwrite x.pa n).mem } : State)) h2
    have h4 := onlyReached_trans (State.overwrite_reached s x.pa n) h3
    rwa [State.overwrite_mem] at h4
  · unfold State.memOk
    rw [hmem]
    exact Memory.wf_write x.pa _ hm

end Sys2Proof.Machine
end

