-- ==== Sys2Proof/Laws/Device.lean ====
section
/-! SUPPORT. What a unit outside the cores may do to memory and to the records of errors, and what going back to an earlier
form leaves. -/

namespace Sys2Proof.Machine

/-! ## Reads and writes of units (R116–R119) -/

/-- A quarantine touches the device's records of errors alone. -/
theorem State.quarantine_reached (s : State) (pa : Nat) : onlyReached s (s.quarantine pa) := by
  simp [onlyReached, State.quarantine, State.onDev, Device.withErrors, withCaches_self]

/-- So does the read of a unit that serves no context. -/
theorem State.scrubAt_reached (s : State) (pa n : Nat) : onlyReached s (s.scrubAt pa n) := by
  unfold State.scrubAt
  split
  · exact s.quarantine_reached _
  · exact onlyReached_refl s
  · exact s.correct_reached pa n

/-- A write of a unit either is performed whole, or memory stays and only records of errors change. -/
theorem State.tryPoke_cases (s : State) (pa : Nat) (l : List Byte) :
    s.tryPoke pa l = (s.poke pa l, true)
    ∨ ((s.tryPoke pa l).2 = false ∧ (s.tryPoke pa l).1.mem = s.mem ∧ onlyReached s (s.tryPoke pa l).1) := by
  unfold State.tryPoke
  split
  · exact .inr ⟨rfl, rfl, onlyReached_refl s⟩
  · split
    · exact .inr ⟨rfl, rfl, s.quarantine_reached _⟩
    · exact .inl rfl

/-- Either way memory keeps its form. -/
theorem State.tryPoke_memOk {s : State} (pa : Nat) (l : List Byte) (h : s.memOk) : (s.tryPoke pa l).1.memOk := by
  rcases s.tryPoke_cases pa l with h1 | ⟨_, h2, _⟩
  · rw [h1]; exact Memory.wf_write pa l h
  · unfold State.memOk; rw [h2]; exact h

/-- A write from outside keeps the form of memory. -/
theorem State.landWrite_memOk {s : State} (w : HeldWrite) (h : s.memOk) : (s.landWrite w).memOk := by
  have h1 := State.tryPoke_memOk w.pa w.bytes h
  unfold State.landWrite
  dsimp only
  split
  · exact h1
  · split <;> exact h1

/-- So do the writes held during a take. -/
theorem State.flushHeld_memOk {s : State} (h : s.memOk) : s.flushHeld.memOk := by
  have hl : ∀ (l : List HeldWrite) (t : State), t.memOk → (l.foldl State.landWrite t).memOk := by
    intro l
    induction l with
    | nil => exact fun _ ht => ht
    | cons w r ih => exact fun t ht => ih _ (State.landWrite_memOk w ht)
  exact hl _ _ h

/-! ## Back to an earlier form (R275, R398) -/

@[simp] theorem State.undo_pc (s : State) (j : Journal) : (s.undo j).core.pc = j.pc := rfl
@[simp] theorem State.undo_g (s : State) (j : Journal) : (s.undo j).core.g = j.g := rfl
@[simp] theorem State.undo_blk (s : State) (j : Journal) : (s.undo j).core.blk = j.blk := rfl
@[simp] theorem State.undo_sys (s : State) (j : Journal) : (s.undo j).core.sys = s.core.sys := rfl
@[simp] theorem State.undo_tprog (s : State) (j : Journal) : (s.undo j).core.tile.tprog = s.core.tile.tprog := rfl
@[simp] theorem State.undo_queue (s : State) (j : Journal) : (s.undo j).core.tile.queue = [] := rfl
@[simp] theorem State.undo_xuq (s : State) (j : Journal) : (s.undo j).core.vec.xuq = [] := rfl
@[simp] theorem State.undo_mem (s : State) (j : Journal) : (s.undo j).mem = s.mem := rfl
@[simp] theorem State.undo_rest (s : State) (j : Journal) : (s.undo j).rest = s.rest := rfl
@[simp] theorem State.undo_dev (s : State) (j : Journal) : (s.undo j).dev = s.dev := rfl

/-- A form that no trap has stopped within its writes keeps the numbers as they are (R339). -/
theorem State.resumeSeq_fresh {s : State}
    (h : s.core.seqHeld = [] ∨ (s.core.vec.pix.getLsbD 31 = false ∧ s.core.tile.tprog.getLsbD 63 = false)) : s.resumeSeq = s := by
  unfold State.resumeSeq
  rcases h with h | ⟨h1, h2⟩
  · simp [h]
  · rw [h1, h2]; rfl

end Sys2Proof.Machine
end

