-- ==== Sys2Proof/Laws/PerInstr.lean ====
section
/-! SUPPORT. Encoding: the operand fields of R48 are read back as written, and for each constructor of Instr its encoded
word names that constructor's form with the same operands. -/

namespace Sys2Proof.Laws

/-- Two neighbouring fields are one field. -/
theorem extract_join {w : Nat} (x : BitVec w) (lo n m hi : Nat) (h : hi = lo + n) :
    x.extractLsb' hi m ++ x.extractLsb' lo n = x.extractLsb' lo (m + n) := by
  subst h
  apply BitVec.eq_of_getLsbD_eq
  intro i hi
  simp only [BitVec.getLsbD_append, BitVec.getLsbD_extractLsb']
  split
  · rw [decide_eq_true (by omega : i < n), decide_eq_true hi]
  · rw [decide_eq_true (by omega : i - n < m), decide_eq_true hi, Nat.add_assoc, Nat.add_sub_cancel' (by omega)]

/-- A part of a field that was put together is the part put in. -/
theorem extract_hi {n m : Nat} (x : BitVec m) (y : BitVec n) : (x ++ y).extractLsb' n m = x := by
  apply BitVec.eq_of_getLsbD_eq
  intro i hi
  simp [BitVec.getLsbD_append, hi]

theorem extract_lo {n m : Nat} (x : BitVec m) (y : BitVec n) : (x ++ y).extractLsb' 0 n = y := by
  apply BitVec.eq_of_getLsbD_eq
  intro i hi
  simp [BitVec.getLsbD_append, hi]

theorem extract_all {w : Nat} (x : BitVec w) : x.extractLsb' 0 w = x := by
  apply BitVec.eq_of_getLsbD_eq
  intro i hi
  simp [hi]

@[simp] theorem imm16_ofI (m : BitVec 6) (x : BitVec 16) (a d : BitVec 5) : (Fields.ofI m x a d).imm16 = x := by
  show (x.extractLsb' 10 6 ++ x.extractLsb' 8 2 ++ x.extractLsb' 5 3 ++ x.extractLsb' 0 5 : BitVec 16) = x
  rw [extract_join x 8 2 6 10 rfl, extract_join x 5 3 8 8 rfl, extract_join x 0 5 11 5 rfl, extract_all]

@[simp] theorem off16_ofB (m : BitVec 6) (x : BitVec 16) (b a : BitVec 5) : (Fields.ofB m x b a).off16 = x := by
  show (x.extractLsb' 10 6 ++ x.extractLsb' 8 2 ++ x.extractLsb' 5 3 ++ x.extractLsb' 0 5 : BitVec 16) = x
  rw [extract_join x 8 2 6 10 rfl, extract_join x 5 3 8 8 rfl, extract_join x 0 5 11 5 rfl, extract_all]

@[simp] theorem imm21_ofJ (m : BitVec 6) (x : BitVec 21) (d : BitVec 5) : (Fields.ofJ m x d).imm21 = x := by
  show (x.extractLsb' 15 6 ++ x.extractLsb' 13 2 ++ x.extractLsb' 10 3 ++ x.extractLsb' 5 5 ++ x.extractLsb' 0 5 : BitVec 21) = x
  rw [extract_join x 13 2 6 15 rfl, extract_join x 10 3 8 13 rfl, extract_join x 5 5 11 10 rfl, extract_join x 0 5 16 5 rfl,
    extract_all]

@[simp] theorem wfn_ofW (m : BitVec 6) (f : BitVec 3) (p o : BitVec 4) (b a d : BitVec 5) : (Fields.ofW m f p o b a d).wfn = f := by
  show (f ++ p.extractLsb' 1 3 : BitVec 6).extractLsb' 3 3 = f
  exact extract_hi f _

@[simp] theorem port_ofW (m : BitVec 6) (f : BitVec 3) (p o : BitVec 4) (b a d : BitVec 5) : (Fields.ofW m f p o b a d).port = p := by
  show ((f ++ p.extractLsb' 1 3 : BitVec 6).extractLsb' 0 3 ++ (p.extractLsb' 0 1 ++ o.extractLsb' 3 1 : BitVec 2).extractLsb' 1 1 : BitVec 4) = p
  rw [extract_lo, extract_hi, extract_join p 0 1 3 1 rfl, extract_all]

@[simp] theorem op_ofW (m : BitVec 6) (f : BitVec 3) (p o : BitVec 4) (b a d : BitVec 5) : (Fields.ofW m f p o b a d).op = o := by
  show ((p.extractLsb' 0 1 ++ o.extractLsb' 3 1 : BitVec 2).extractLsb' 0 1 ++ o.extractLsb' 0 3 : BitVec 4) = o
  rw [extract_lo, extract_join o 0 3 1 3 rfl, extract_all]

@[simp] theorem shiftFn_ofShift (f : BitVec 2) (n : BitVec 6) (a d : BitVec 5) : (Fields.ofShift f n a d).shiftFn = f := by
  show (f ++ n.extractLsb' 5 1 : BitVec 3).extractLsb' 1 2 = f
  exact extract_hi f _

@[simp] theorem shiftCount_ofShift (f : BitVec 2) (n : BitVec 6) (a d : BitVec 5) : (Fields.ofShift f n a d).shiftCount = n := by
  show ((f ++ n.extractLsb' 5 1 : BitVec 3).extractLsb' 0 1 ++ n.extractLsb' 0 5 : BitVec 6) = n
  rw [extract_lo, extract_join n 0 5 1 5 rfl, extract_all]

end Sys2Proof.Laws

namespace Sys2Proof.Laws.ReadsBack

set_option Elab.async false

/-- What is stated of an instruction: the word that encode gives a well-formed one names its form, and no other, with the
same operands (R48, R59). -/
def Statement (i : Instr) : Prop :=
  i.wellFormed = true → ∀ f, encodeFields i = some f → ∃ m, formOf f = .ok m ∧ m.instr = i

theorem add : ∀ d a b, Statement (.add d a b) := by
  intro d a b _ f h
  cases h
  exact ⟨_, rfl, rfl⟩

theorem sub : ∀ d a b, Statement (.sub d a b) := by
  intro d a b _ f h
  cases h
  exact ⟨_, rfl, rfl⟩

theorem and : ∀ d a b, Statement (.and d a b) := by
  intro d a b _ f h
  cases h
  exact ⟨_, rfl, rfl⟩

theorem or : ∀ d a b, Statement (.or d a b) := by
  intro d a b _ f h
  cases h
  exact ⟨_, rfl, rfl⟩

theorem xor : ∀ d a b, Statement (.xor d a b) := by
  intro d a b _ f h
  cases h
  exact ⟨_, rfl, rfl⟩

theorem sll : ∀ d a b, Statement (.sll d a b) := by
  intro d a b _ f h
  cases h
  exact ⟨_, rfl, rfl⟩

theorem srl : ∀ d a b, Statement (.srl d a b) := by
  intro d a b _ f h
  cases h
  exact ⟨_, rfl, rfl⟩

theorem sra : ∀ d a b, Statement (.sra d a b) := by
  intro d a b _ f h
  cases h
  exact ⟨_, rfl, rfl⟩

theorem slt : ∀ d a b, Statement (.slt d a b) := by
  intro d a b _ f h
  cases h
  exact ⟨_, rfl, rfl⟩

theorem sltu : ∀ d a b, Statement (.sltu d a b) := by
  intro d a b _ f h
  cases h
  exact ⟨_, rfl, rfl⟩

theorem min : ∀ d a b, Statement (.min d a b) := by
  intro d a b _ f h
  cases h
  exact ⟨_, rfl, rfl⟩

theorem max : ∀ d a b, Statement (.max d a b) := by
  intro d a b _ f h
  cases h
  exact ⟨_, rfl, rfl⟩

theorem minu : ∀ d a b, Statement (.minu d a b) := by
  intro d a b _ f h
  cases h
  exact ⟨_, rfl, rfl⟩

theorem maxu : ∀ d a b, Statement (.maxu d a b) := by
  intro d a b _ f h
  cases h
  exact ⟨_, rfl, rfl⟩

theorem clz : ∀ d a, Statement (.clz d a) := by
  intro d a _ f h
  cases h
  exact ⟨_, rfl, rfl⟩

theorem popc : ∀ d a, Statement (.popc d a) := by
  intro d a _ f h
  cases h
  exact ⟨_, rfl, rfl⟩

theorem mul : ∀ d a b, Statement (.mul d a b) := by
  intro d a b _ f h
  cases h
  exact ⟨_, rfl, rfl⟩

theorem mulh : ∀ d a b, Statement (.mulh d a b) := by
  intro d a b _ f h
  cases h
  exact ⟨_, rfl, rfl⟩

theorem mulhu : ∀ d a b, Statement (.mulhu d a b) := by
  intro d a b _ f h
  cases h
  exact ⟨_, rfl, rfl⟩

theorem div : ∀ d a b, Statement (.div d a b) := by
  intro d a b _ f h
  cases h
  exact ⟨_, rfl, rfl⟩

theorem divu : ∀ d a b, Statement (.divu d a b) := by
  intro d a b _ f h
  cases h
  exact ⟨_, rfl, rfl⟩

theorem rem : ∀ d a b, Statement (.rem d a b) := by
  intro d a b _ f h
  cases h
  exact ⟨_, rfl, rfl⟩

theorem remu : ∀ d a b, Statement (.remu d a b) := by
  intro d a b _ f h
  cases h
  exact ⟨_, rfl, rfl⟩

theorem ldxB : ∀ d a b, Statement (.ldxB d a b) := by
  intro d a b _ f h
  cases h
  exact ⟨_, rfl, rfl⟩

theorem ldxBu : ∀ d a b, Statement (.ldxBu d a b) := by
  intro d a b _ f h
  cases h
  exact ⟨_, rfl, rfl⟩

theorem ldxH : ∀ d a b, Statement (.ldxH d a b) := by
  intro d a b _ f h
  cases h
  exact ⟨_, rfl, rfl⟩

theorem ldxHu : ∀ d a b, Statement (.ldxHu d a b) := by
  intro d a b _ f h
  cases h
  exact ⟨_, rfl, rfl⟩

theorem ldxW : ∀ d a b, Statement (.ldxW d a b) := by
  intro d a b _ f h
  cases h
  exact ⟨_, rfl, rfl⟩

theorem ldxWu : ∀ d a b, Statement (.ldxWu d a b) := by
  intro d a b _ f h
  cases h
  exact ⟨_, rfl, rfl⟩

theorem ldxD : ∀ d a b, Statement (.ldxD d a b) := by
  intro d a b _ f h
  cases h
  exact ⟨_, rfl, rfl⟩

theorem stxB : ∀ d a b, Statement (.stxB d a b) := by
  intro d a b _ f h
  cases h
  exact ⟨_, rfl, rfl⟩

theorem stxH : ∀ d a b, Statement (.stxH d a b) := by
  intro d a b _ f h
  cases h
  exact ⟨_, rfl, rfl⟩

theorem stxW : ∀ d a b, Statement (.stxW d a b) := by
  intro d a b _ f h
  cases h
  exact ⟨_, rfl, rfl⟩

theorem stxD : ∀ d a b, Statement (.stxD d a b) := by
  intro d a b _ f h
  cases h
  exact ⟨_, rfl, rfl⟩

theorem blkCap : ∀ d a b, Statement (.blkCap d a b) := by
  intro d a b _ f h
  cases h
  exact ⟨_, rfl, by simp⟩

theorem blkRun : ∀ a b, Statement (.blkRun a b) := by
  intro a b _ f h
  cases h
  exact ⟨_, rfl, rfl⟩

theorem blkBrk : ∀ d, Statement (.blkBrk d) := by
  intro d _ f h
  cases h
  exact ⟨_, rfl, rfl⟩

theorem addi : ∀ d a imm, Statement (.addi d a imm) := by
  intro d a imm _ f h
  cases h
  exact ⟨_, rfl, congrArg (Instr.addi d a) (imm16_ofI _ _ _ _)⟩

theorem andi : ∀ d a imm, Statement (.andi d a imm) := by
  intro d a imm _ f h
  cases h
  exact ⟨_, rfl, congrArg (Instr.andi d a) (imm16_ofI _ _ _ _)⟩

theorem ori : ∀ d a imm, Statement (.ori d a imm) := by
  intro d a imm _ f h
  cases h
  exact ⟨_, rfl, congrArg (Instr.ori d a) (imm16_ofI _ _ _ _)⟩

theorem xori : ∀ d a imm, Statement (.xori d a imm) := by
  intro d a imm _ f h
  cases h
  exact ⟨_, rfl, congrArg (Instr.xori d a) (imm16_ofI _ _ _ _)⟩

theorem slli : ∀ d a n, Statement (.slli d a n) := by
  intro d a n _ f h
  cases h
  have hf : formOf (Fields.ofShift 0 n a d) = .ok ⟨true, .user, (0 : BitVec 6) == 0 && (0 : BitVec 2) == 0, true, true, true, .slli d a n⟩ := by
    show decodeMajor07 _ = _
    unfold decodeMajor07
    rw [shiftFn_ofShift, shiftCount_ofShift]
    rfl
  exact ⟨_, hf, rfl⟩

theorem srli : ∀ d a n, Statement (.srli d a n) := by
  intro d a n _ f h
  cases h
  have hf : formOf (Fields.ofShift 1 n a d) = .ok ⟨true, .user, (0 : BitVec 6) == 0 && (0 : BitVec 2) == 0, true, true, true, .srli d a n⟩ := by
    show decodeMajor07 _ = _
    unfold decodeMajor07
    rw [shiftFn_ofShift, shiftCount_ofShift]
    rfl
  exact ⟨_, hf, rfl⟩

theorem srai : ∀ d a n, Statement (.srai d a n) := by
  intro d a n _ f h
  cases h
  have hf : formOf (Fields.ofShift 2 n a d) = .ok ⟨true, .user, (0 : BitVec 6) == 0 && (0 : BitVec 2) == 0, true, true, true, .srai d a n⟩ := by
    show decodeMajor07 _ = _
    unfold decodeMajor07
    rw [shiftFn_ofShift, shiftCount_ofShift]
    rfl
  exact ⟨_, hf, rfl⟩

theorem lui : ∀ d imm, Statement (.lui d imm) := by
  intro d imm _ f h
  cases h
  exact ⟨_, rfl, congrArg (Instr.lui d) (imm21_ofJ _ _ _)⟩

theorem auipc : ∀ d imm, Statement (.auipc d imm) := by
  intro d imm _ f h
  cases h
  exact ⟨_, rfl, congrArg (Instr.auipc d) (imm21_ofJ _ _ _)⟩

theorem jal : ∀ d imm, Statement (.jal d imm) := by
  intro d imm _ f h
  cases h
  exact ⟨_, rfl, congrArg (Instr.jal d) (imm21_ofJ _ _ _)⟩

theorem jalr : ∀ d a imm, Statement (.jalr d a imm) := by
  intro d a imm _ f h
  cases h
  exact ⟨_, rfl, congrArg (Instr.jalr d a) (imm16_ofI _ _ _ _)⟩

theorem ldD : ∀ d a imm, Statement (.ldD d a imm) := by
  intro d a imm _ f h
  cases h
  exact ⟨_, rfl, congrArg (Instr.ldD d a) (imm16_ofI _ _ _ _)⟩

theorem stD : ∀ d a imm, Statement (.stD d a imm) := by
  intro d a imm _ f h
  cases h
  exact ⟨_, rfl, congrArg (Instr.stD d a) (imm16_ofI _ _ _ _)⟩

theorem beq : ∀ a b off, Statement (.beq a b off) := by
  intro a b off _ f h
  cases h
  exact ⟨_, rfl, congrArg (Instr.beq a b) (off16_ofB _ _ _ _)⟩

theorem bne : ∀ a b off, Statement (.bne a b off) := by
  intro a b off _ f h
  cases h
  exact ⟨_, rfl, congrArg (Instr.bne a b) (off16_ofB _ _ _ _)⟩

theorem vcfg : ∀ d tag frac grp, Statement (.vcfg d tag frac grp) := by
  intro d tag frac grp _ f h
  cases h
  refine ⟨_, rfl, ?_⟩
  show Instr.vcfg d tag ((frac.extractLsb' 3 2 ++ frac.extractLsb' 0 3 : BitVec 5)) ((0#4 ++ grp : BitVec 6).extractLsb' 0 2) = _
  rw [extract_join frac 0 3 2 3 rfl, extract_all, extract_lo]

theorem vsetvl : ∀ d a b, Statement (.vsetvl d a b) := by
  intro d a b _ f h
  cases h
  exact ⟨_, rfl, rfl⟩

theorem vprof : ∀ d a, Statement (.vprof d a) := by
  intro d a _ f h
  cases h
  exact ⟨_, rfl, rfl⟩

theorem vmfc : ∀ d a, Statement (.vmfc d a) := by
  intro d a _ f h
  cases h
  exact ⟨_, rfl, rfl⟩

theorem vlq : ∀ d a, Statement (.vlq d a) := by
  intro d a _ f h
  cases h
  exact ⟨_, rfl, rfl⟩

theorem vspill : ∀ a b, Statement (.vspill a b) := by
  intro a b _ f h
  cases h
  exact ⟨_, rfl, rfl⟩

theorem vfill : ∀ d b, Statement (.vfill d b) := by
  intro d b _ f h
  cases h
  exact ⟨_, rfl, rfl⟩

theorem vLd : ∀ d a imm, Statement (.vLd d a imm) := by
  intro d a imm _ f h
  cases h
  exact ⟨_, rfl, congrArg (Instr.vLd d a) (imm16_ofI _ _ _ _)⟩

theorem vSt : ∀ d a imm, Statement (.vSt d a imm) := by
  intro d a imm _ f h
  cases h
  exact ⟨_, rfl, congrArg (Instr.vSt d a) (imm16_ofI _ _ _ _)⟩

theorem vLds : ∀ d a b k z, Statement (.vLds d a b k z) := by
  intro d a b k z _ f h
  cases z
  · cases h
    exact ⟨_, rfl, by simp⟩
  · cases h
    refine ⟨?w, ?e, ?i⟩
    case e =>
      show decodeMajor14 _ = _
      simp only [decodeMajor14]
      rfl
    case i => simp

theorem vLdx : ∀ d a b k z r, Statement (.vLdx d a b k z r) := by
  intro d a b k z r _ f h
  cases z
  · cases h
    exact ⟨_, rfl, by simp⟩
  · cases h
    refine ⟨?w, ?e, ?i⟩
    case e =>
      show decodeMajor14 _ = _
      simp only [decodeMajor14]
      rfl
    case i => simp

theorem vLdb : ∀ d a k z, Statement (.vLdb d a k z) := by
  intro d a k z _ f h
  cases z
  · cases h
    exact ⟨_, rfl, by simp⟩
  · cases h
    refine ⟨?w, ?e, ?i⟩
    case e =>
      show decodeMajor14 _ = _
      simp only [decodeMajor14]
      rfl
    case i => simp

theorem vLdk : ∀ d a, Statement (.vLdk d a) := by
  intro d a _ f h
  cases h
  exact ⟨_, rfl, by simp⟩

theorem vLdq : ∀ d a k z, Statement (.vLdq d a k z) := by
  intro d a k z _ f h
  cases z
  · cases h
    exact ⟨_, rfl, by simp⟩
  · cases h
    refine ⟨?w, ?e, ?i⟩
    case e =>
      show decodeMajor14 _ = _
      simp only [decodeMajor14]
      rfl
    case i => simp

theorem vLdff : ∀ d a b k z, Statement (.vLdff d a b k z) := by
  intro d a b k z _ f h
  cases z
  · cases h
    exact ⟨_, rfl, by simp⟩
  · cases h
    refine ⟨?w, ?e, ?i⟩
    case e =>
      show decodeMajor14 _ = _
      simp only [decodeMajor14]
      rfl
    case i => simp

theorem vSts : ∀ d a b k, Statement (.vSts d a b k) := by
  intro d a b k _ f h
  cases h
  exact ⟨_, rfl, rfl⟩

theorem vStx : ∀ d a b k r, Statement (.vStx d a b k r) := by
  intro d a b k r _ f h
  cases h
  exact ⟨_, rfl, rfl⟩

theorem vStk : ∀ d a, Statement (.vStk d a) := by
  intro d a _ f h
  cases h
  exact ⟨_, rfl, by simp⟩

theorem vSxadd : ∀ d a b k r, Statement (.vSxadd d a b k r) := by
  intro d a b k r _ f h
  cases h
  exact ⟨_, rfl, rfl⟩

theorem vSxmin : ∀ d a b k r, Statement (.vSxmin d a b k r) := by
  intro d a b k r _ f h
  cases h
  exact ⟨_, rfl, rfl⟩

theorem vSxmax : ∀ d a b k r, Statement (.vSxmax d a b k r) := by
  intro d a b k r _ f h
  cases h
  exact ⟨_, rfl, rfl⟩

theorem vPf : ∀ a b, Statement (.vPf a b) := by
  intro a b _ f h
  cases h
  exact ⟨_, rfl, rfl⟩

theorem vLdc : ∀ d a k z, Statement (.vLdc d a k z) := by
  intro d a k z _ f h
  cases z
  · cases h
    exact ⟨_, rfl, by simp⟩
  · cases h
    refine ⟨?w, ?e, ?i⟩
    case e =>
      show decodeMajor16 _ = _
      simp only [decodeMajor16]
      rfl
    case i => simp

theorem vStc : ∀ d a k, Statement (.vStc d a k) := by
  intro d a k _ f h
  cases h
  exact ⟨_, rfl, rfl⟩

theorem vAdd : ∀ d a b k z r, Statement (.vAdd d a b k z r) := by
  intro d a b k z r _ f h
  cases z
  · cases h
    exact ⟨_, rfl, by simp⟩
  · cases h
    refine ⟨?w, ?e, ?i⟩
    case e =>
      show decodeMajor18 _ = _
      simp only [decodeMajor18]
      rfl
    case i => simp

theorem vSub : ∀ d a b k z r, Statement (.vSub d a b k z r) := by
  intro d a b k z r _ f h
  cases z
  · cases h
    exact ⟨_, rfl, by simp⟩
  · cases h
    refine ⟨?w, ?e, ?i⟩
    case e =>
      show decodeMajor18 _ = _
      simp only [decodeMajor18]
      rfl
    case i => simp

theorem vMul : ∀ d a b k z r, Statement (.vMul d a b k z r) := by
  intro d a b k z r _ f h
  cases z
  · cases h
    exact ⟨_, rfl, by simp⟩
  · cases h
    refine ⟨?w, ?e, ?i⟩
    case e =>
      show decodeMajor18 _ = _
      simp only [decodeMajor18]
      rfl
    case i => simp

theorem vMulh : ∀ d a b k z r, Statement (.vMulh d a b k z r) := by
  intro d a b k z r _ f h
  cases z
  · cases h
    exact ⟨_, rfl, by simp⟩
  · cases h
    refine ⟨?w, ?e, ?i⟩
    case e =>
      show decodeMajor18 _ = _
      simp only [decodeMajor18]
      rfl
    case i => simp

theorem vMadd : ∀ d a b k z r, Statement (.vMadd d a b k z r) := by
  intro d a b k z r _ f h
  cases z
  · cases h
    exact ⟨_, rfl, by simp⟩
  · cases h
    refine ⟨?w, ?e, ?i⟩
    case e =>
      show decodeMajor18 _ = _
      simp only [decodeMajor18]
      rfl
    case i => simp

theorem vMsub : ∀ d a b k z r, Statement (.vMsub d a b k z r) := by
  intro d a b k z r _ f h
  cases z
  · cases h
    exact ⟨_, rfl, by simp⟩
  · cases h
    refine ⟨?w, ?e, ?i⟩
    case e =>
      show decodeMajor18 _ = _
      simp only [decodeMajor18]
      rfl
    case i => simp

theorem vMin : ∀ d a b k z r, Statement (.vMin d a b k z r) := by
  intro d a b k z r _ f h
  cases z
  · cases h
    exact ⟨_, rfl, by simp⟩
  · cases h
    refine ⟨?w, ?e, ?i⟩
    case e =>
      show decodeMajor18 _ = _
      simp only [decodeMajor18]
      rfl
    case i => simp

theorem vMax : ∀ d a b k z r, Statement (.vMax d a b k z r) := by
  intro d a b k z r _ f h
  cases z
  · cases h
    exact ⟨_, rfl, by simp⟩
  · cases h
    refine ⟨?w, ?e, ?i⟩
    case e =>
      show decodeMajor18 _ = _
      simp only [decodeMajor18]
      rfl
    case i => simp

theorem vAbs : ∀ d a k z, Statement (.vAbs d a k z) := by
  intro d a k z _ f h
  cases z
  · cases h
    exact ⟨_, rfl, by simp⟩
  · cases h
    refine ⟨?w, ?e, ?i⟩
    case e =>
      show decodeMajor18 _ = _
      simp only [decodeMajor18]
      rfl
    case i => simp

theorem vNeg : ∀ d a k z, Statement (.vNeg d a k z) := by
  intro d a k z _ f h
  cases z
  · cases h
    exact ⟨_, rfl, by simp⟩
  · cases h
    refine ⟨?w, ?e, ?i⟩
    case e =>
      show decodeMajor18 _ = _
      simp only [decodeMajor18]
      rfl
    case i => simp

theorem vClamp : ∀ d a b k z r, Statement (.vClamp d a b k z r) := by
  intro d a b k z r _ f h
  cases z
  · cases h
    exact ⟨_, rfl, by simp⟩
  · cases h
    refine ⟨?w, ?e, ?i⟩
    case e =>
      show decodeMajor18 _ = _
      simp only [decodeMajor18]
      rfl
    case i => simp

theorem vAnd : ∀ d a b k z r, Statement (.vAnd d a b k z r) := by
  intro d a b k z r _ f h
  cases z
  · cases h
    exact ⟨_, rfl, by simp⟩
  · cases h
    refine ⟨?w, ?e, ?i⟩
    case e =>
      show decodeMajor19 _ = _
      simp only [decodeMajor19]
      rfl
    case i => simp

theorem vOr : ∀ d a b k z r, Statement (.vOr d a b k z r) := by
  intro d a b k z r _ f h
  cases z
  · cases h
    exact ⟨_, rfl, by simp⟩
  · cases h
    refine ⟨?w, ?e, ?i⟩
    case e =>
      show decodeMajor19 _ = _
      simp only [decodeMajor19]
      rfl
    case i => simp

theorem vXor : ∀ d a b k z r, Statement (.vXor d a b k z r) := by
  intro d a b k z r _ f h
  cases z
  · cases h
    exact ⟨_, rfl, by simp⟩
  · cases h
    refine ⟨?w, ?e, ?i⟩
    case e =>
      show decodeMajor19 _ = _
      simp only [decodeMajor19]
      rfl
    case i => simp

theorem vNot : ∀ d a k z, Statement (.vNot d a k z) := by
  intro d a k z _ f h
  cases z
  · cases h
    exact ⟨_, rfl, by simp⟩
  · cases h
    refine ⟨?w, ?e, ?i⟩
    case e =>
      show decodeMajor19 _ = _
      simp only [decodeMajor19]
      rfl
    case i => simp

theorem vSll : ∀ d a b k z r, Statement (.vSll d a b k z r) := by
  intro d a b k z r _ f h
  cases z
  · cases h
    exact ⟨_, rfl, by simp⟩
  · cases h
    refine ⟨?w, ?e, ?i⟩
    case e =>
      show decodeMajor19 _ = _
      simp only [decodeMajor19]
      rfl
    case i => simp

theorem vSrl : ∀ d a b k z r, Statement (.vSrl d a b k z r) := by
  intro d a b k z r _ f h
  cases z
  · cases h
    exact ⟨_, rfl, by simp⟩
  · cases h
    refine ⟨?w, ?e, ?i⟩
    case e =>
      show decodeMajor19 _ = _
      simp only [decodeMajor19]
      rfl
    case i => simp

theorem vSra : ∀ d a b k z r, Statement (.vSra d a b k z r) := by
  intro d a b k z r _ f h
  cases z
  · cases h
    exact ⟨_, rfl, by simp⟩
  · cases h
    refine ⟨?w, ?e, ?i⟩
    case e =>
      show decodeMajor19 _ = _
      simp only [decodeMajor19]
      rfl
    case i => simp

theorem vCeq : ∀ d a b k z r, Statement (.vCeq d a b k z r) := by
  intro d a b k z r _ f h
  cases z
  · cases h
    exact ⟨_, rfl, by simp⟩
  · cases h
    refine ⟨?w, ?e, ?i⟩
    case e =>
      show decodeMajor1A _ = _
      simp only [decodeMajor1A]
      rfl
    case i => simp

theorem vCne : ∀ d a b k z r, Statement (.vCne d a b k z r) := by
  intro d a b k z r _ f h
  cases z
  · cases h
    exact ⟨_, rfl, by simp⟩
  · cases h
    refine ⟨?w, ?e, ?i⟩
    case e =>
      show decodeMajor1A _ = _
      simp only [decodeMajor1A]
      rfl
    case i => simp

theorem vClt : ∀ d a b k z r, Statement (.vClt d a b k z r) := by
  intro d a b k z r _ f h
  cases z
  · cases h
    exact ⟨_, rfl, by simp⟩
  · cases h
    refine ⟨?w, ?e, ?i⟩
    case e =>
      show decodeMajor1A _ = _
      simp only [decodeMajor1A]
      rfl
    case i => simp

theorem vCle : ∀ d a b k z r, Statement (.vCle d a b k z r) := by
  intro d a b k z r _ f h
  cases z
  · cases h
    exact ⟨_, rfl, by simp⟩
  · cases h
    refine ⟨?w, ?e, ?i⟩
    case e =>
      show decodeMajor1A _ = _
      simp only [decodeMajor1A]
      rfl
    case i => simp

theorem vCun : ∀ d a b k z r, Statement (.vCun d a b k z r) := by
  intro d a b k z r _ f h
  cases z
  · cases h
    exact ⟨_, rfl, by simp⟩
  · cases h
    refine ⟨?w, ?e, ?i⟩
    case e =>
      show decodeMajor1A _ = _
      simp only [decodeMajor1A]
      rfl
    case i => simp

theorem vCvt : ∀ d a sat k z, Statement (.vCvt d a sat k z) := by
  intro d a sat k z _ f h
  cases z
  · cases h
    exact ⟨_, rfl, by cases sat <;> simp⟩
  · cases h
    refine ⟨?w, ?e, ?i⟩
    case e =>
      show decodeMajor1B _ = _
      simp only [decodeMajor1B]
      rfl
    case i => cases sat <;> simp

theorem vCvtz : ∀ d a sat k z, Statement (.vCvtz d a sat k z) := by
  intro d a sat k z _ f h
  cases z
  · cases h
    exact ⟨_, rfl, by cases sat <;> simp⟩
  · cases h
    refine ⟨?w, ?e, ?i⟩
    case e =>
      show decodeMajor1B _ = _
      simp only [decodeMajor1B]
      rfl
    case i => cases sat <;> simp

theorem vCvtp : ∀ d a sat k z, Statement (.vCvtp d a sat k z) := by
  intro d a sat k z _ f h
  cases z
  · cases h
    exact ⟨_, rfl, by cases sat <;> simp⟩
  · cases h
    refine ⟨?w, ?e, ?i⟩
    case e =>
      show decodeMajor1B _ = _
      simp only [decodeMajor1B]
      rfl
    case i => cases sat <;> simp

theorem vCvtm : ∀ d a sat k z, Statement (.vCvtm d a sat k z) := by
  intro d a sat k z _ f h
  cases z
  · cases h
    exact ⟨_, rfl, by cases sat <;> simp⟩
  · cases h
    refine ⟨?w, ?e, ?i⟩
    case e =>
      show decodeMajor1B _ = _
      simp only [decodeMajor1B]
      rfl
    case i => cases sat <;> simp

theorem vCvts : ∀ d a b k z r, Statement (.vCvts d a b k z r) := by
  intro d a b k z r _ f h
  cases z
  · cases h
    exact ⟨_, rfl, by simp⟩
  · cases h
    refine ⟨?w, ?e, ?i⟩
    case e =>
      show decodeMajor1B _ = _
      simp only [decodeMajor1B]
      rfl
    case i => simp

theorem vWacc : ∀ d a b k z r, Statement (.vWacc d a b k z r) := by
  intro d a b k z r _ f h
  cases z
  · cases h
    exact ⟨_, rfl, by simp⟩
  · cases h
    refine ⟨?w, ?e, ?i⟩
    case e =>
      show decodeMajor1B _ = _
      simp only [decodeMajor1B]
      rfl
    case i => simp

theorem vPerm : ∀ d a b k z r, Statement (.vPerm d a b k z r) := by
  intro d a b k z r _ f h
  cases z
  · cases h
    exact ⟨_, rfl, by simp⟩
  · cases h
    refine ⟨?w, ?e, ?i⟩
    case e =>
      show decodeMajor1C _ = _
      simp only [decodeMajor1C]
      rfl
    case i => simp

theorem vSlup : ∀ d a b k z, Statement (.vSlup d a b k z) := by
  intro d a b k z _ f h
  cases z
  · cases h
    exact ⟨_, rfl, by simp⟩
  · cases h
    refine ⟨?w, ?e, ?i⟩
    case e =>
      show decodeMajor1C _ = _
      simp only [decodeMajor1C]
      rfl
    case i => simp

theorem vSldn : ∀ d a b k z, Statement (.vSldn d a b k z) := by
  intro d a b k z _ f h
  cases z
  · cases h
    exact ⟨_, rfl, by simp⟩
  · cases h
    refine ⟨?w, ?e, ?i⟩
    case e =>
      show decodeMajor1C _ = _
      simp only [decodeMajor1C]
      rfl
    case i => simp

theorem vComp : ∀ d a k z, Statement (.vComp d a k z) := by
  intro d a k z _ f h
  cases z
  · cases h
    exact ⟨_, rfl, by simp⟩
  · cases h
    refine ⟨?w, ?e, ?i⟩
    case e =>
      show decodeMajor1C _ = _
      simp only [decodeMajor1C]
      rfl
    case i => simp

theorem vExpd : ∀ d a k z, Statement (.vExpd d a k z) := by
  intro d a k z _ f h
  cases z
  · cases h
    exact ⟨_, rfl, by simp⟩
  · cases h
    refine ⟨?w, ?e, ?i⟩
    case e =>
      show decodeMajor1C _ = _
      simp only [decodeMajor1C]
      rfl
    case i => simp

theorem vMrg : ∀ d a b k r, Statement (.vMrg d a b k r) := by
  intro d a b k r _ f h
  cases h
  exact ⟨_, rfl, rfl⟩

theorem vCdet : ∀ d a k z, Statement (.vCdet d a k z) := by
  intro d a k z _ f h
  cases z
  · cases h
    exact ⟨_, rfl, by simp⟩
  · cases h
    refine ⟨?w, ?e, ?i⟩
    case e =>
      show decodeMajor1D _ = _
      simp only [decodeMajor1D]
      rfl
    case i => simp

theorem vIota : ∀ d a k z, Statement (.vIota d a k z) := by
  intro d a k z _ f h
  cases z
  · cases h
    exact ⟨_, rfl, by simp⟩
  · cases h
    refine ⟨?w, ?e, ?i⟩
    case e =>
      show decodeMajor1D _ = _
      simp only [decodeMajor1D]
      rfl
    case i => simp

theorem vSplat : ∀ d a k z, Statement (.vSplat d a k z) := by
  intro d a k z _ f h
  cases z
  · cases h
    exact ⟨_, rfl, by simp⟩
  · cases h
    refine ⟨?w, ?e, ?i⟩
    case e =>
      show decodeMajor1D _ = _
      simp only [decodeMajor1D]
      rfl
    case i => simp

theorem vExtr : ∀ d a b, Statement (.vExtr d a b) := by
  intro d a b _ f h
  cases h
  exact ⟨_, rfl, rfl⟩

theorem vKand : ∀ d a b, Statement (.vKand d a b) := by
  intro d a b _ f h
  cases h
  exact ⟨_, rfl, by simp⟩

theorem vKor : ∀ d a b, Statement (.vKor d a b) := by
  intro d a b _ f h
  cases h
  exact ⟨_, rfl, by simp⟩

theorem vKxor : ∀ d a b, Statement (.vKxor d a b) := by
  intro d a b _ f h
  cases h
  exact ⟨_, rfl, by simp⟩

theorem vKandn : ∀ d a b, Statement (.vKandn d a b) := by
  intro d a b _ f h
  cases h
  exact ⟨_, rfl, by simp⟩

theorem vKpop : ∀ d a, Statement (.vKpop d a) := by
  intro d a _ f h
  cases h
  exact ⟨_, rfl, by simp⟩

theorem vKfirst : ∀ d a, Statement (.vKfirst d a) := by
  intro d a _ f h
  cases h
  exact ⟨_, rfl, by simp⟩

theorem vRsum : ∀ d a k, Statement (.vRsum d a k) := by
  intro d a k _ f h
  cases h
  exact ⟨_, rfl, rfl⟩

theorem vRmax : ∀ d a k, Statement (.vRmax d a k) := by
  intro d a k _ f h
  cases h
  exact ⟨_, rfl, rfl⟩

theorem vRmin : ∀ d a k, Statement (.vRmin d a k) := by
  intro d a k _ f h
  cases h
  exact ⟨_, rfl, rfl⟩

theorem vRall : ∀ d a k, Statement (.vRall d a k) := by
  intro d a k _ f h
  cases h
  exact ⟨_, rfl, rfl⟩

theorem vRany : ∀ d a k, Statement (.vRany d a k) := by
  intro d a k _ f h
  cases h
  exact ⟨_, rfl, rfl⟩

theorem vRxor : ∀ d a k, Statement (.vRxor d a k) := by
  intro d a k _ f h
  cases h
  exact ⟨_, rfl, rfl⟩

theorem vPsum : ∀ d a k z, Statement (.vPsum d a k z) := by
  intro d a k z _ f h
  cases z
  · cases h
    exact ⟨_, rfl, by simp⟩
  · cases h
    refine ⟨?w, ?e, ?i⟩
    case e =>
      show decodeMajor20 _ = _
      simp only [decodeMajor20]
      rfl
    case i => simp

theorem vPmax : ∀ d a k z, Statement (.vPmax d a k z) := by
  intro d a k z _ f h
  cases z
  · cases h
    exact ⟨_, rfl, by simp⟩
  · cases h
    refine ⟨?w, ?e, ?i⟩
    case e =>
      show decodeMajor20 _ = _
      simp only [decodeMajor20]
      rfl
    case i => simp

theorem vPmin : ∀ d a k z, Statement (.vPmin d a k z) := by
  intro d a k z _ f h
  cases z
  · cases h
    exact ⟨_, rfl, by simp⟩
  · cases h
    refine ⟨?w, ?e, ?i⟩
    case e =>
      show decodeMajor20 _ = _
      simp only [decodeMajor20]
      rfl
    case i => simp

theorem vRng : ∀ d a b k z, Statement (.vRng d a b k z) := by
  intro d a b k z _ f h
  cases z
  · cases h
    exact ⟨_, rfl, by simp⟩
  · cases h
    refine ⟨?w, ?e, ?i⟩
    case e =>
      show decodeMajor21 _ = _
      simp only [decodeMajor21]
      rfl
    case i => simp

theorem vRngf : ∀ d a b k z, Statement (.vRngf d a b k z) := by
  intro d a b k z _ f h
  cases z
  · cases h
    exact ⟨_, rfl, by simp⟩
  · cases h
    refine ⟨?w, ?e, ?i⟩
    case e =>
      show decodeMajor21 _ = _
      simp only [decodeMajor21]
      rfl
    case i => simp

theorem rotC : ∀ d a b k z, Statement (.rotC d a b k z) := by
  intro d a b k z _ f h
  cases z
  · cases h
    exact ⟨_, rfl, by simp⟩
  · cases h
    refine ⟨?w, ?e, ?i⟩
    case e =>
      show decodeMajor24 _ = _
      simp only [decodeMajor24]
      rfl
    case i => simp

theorem rotCg : ∀ d a b k z, Statement (.rotCg d a b k z) := by
  intro d a b k z _ f h
  cases z
  · cases h
    exact ⟨_, rfl, by simp⟩
  · cases h
    refine ⟨?w, ?e, ?i⟩
    case e =>
      show decodeMajor24 _ = _
      simp only [decodeMajor24]
      rfl
    case i => simp

theorem axisC : ∀ d a b k z, Statement (.axisC d a b k z) := by
  intro d a b k z _ f h
  cases z
  · cases h
    exact ⟨_, rfl, by simp⟩
  · cases h
    refine ⟨?w, ?e, ?i⟩
    case e =>
      show decodeMajor24 _ = _
      simp only [decodeMajor24]
      rfl
    case i => simp

theorem axisCg : ∀ d a b k z, Statement (.axisCg d a b k z) := by
  intro d a b k z _ f h
  cases z
  · cases h
    exact ⟨_, rfl, by simp⟩
  · cases h
    refine ⟨?w, ?e, ?i⟩
    case e =>
      show decodeMajor24 _ = _
      simp only [decodeMajor24]
      rfl
    case i => simp

theorem gainC : ∀ d b k z, Statement (.gainC d b k z) := by
  intro d b k z _ f h
  cases z
  · cases h
    exact ⟨_, rfl, by simp⟩
  · cases h
    refine ⟨?w, ?e, ?i⟩
    case e =>
      show decodeMajor24 _ = _
      simp only [decodeMajor24]
      rfl
    case i => simp

theorem rotH : ∀ d a b k z, Statement (.rotH d a b k z) := by
  intro d a b k z _ f h
  cases z
  · cases h
    exact ⟨_, rfl, by simp⟩
  · cases h
    refine ⟨?w, ?e, ?i⟩
    case e =>
      show decodeMajor25 _ = _
      simp only [decodeMajor25]
      rfl
    case i => simp

theorem rotHg : ∀ d a b k z, Statement (.rotHg d a b k z) := by
  intro d a b k z _ f h
  cases z
  · cases h
    exact ⟨_, rfl, by simp⟩
  · cases h
    refine ⟨?w, ?e, ?i⟩
    case e =>
      show decodeMajor25 _ = _
      simp only [decodeMajor25]
      rfl
    case i => simp

theorem axisH : ∀ d a b k z, Statement (.axisH d a b k z) := by
  intro d a b k z _ f h
  cases z
  · cases h
    exact ⟨_, rfl, by simp⟩
  · cases h
    refine ⟨?w, ?e, ?i⟩
    case e =>
      show decodeMajor25 _ = _
      simp only [decodeMajor25]
      rfl
    case i => simp

theorem axisHg : ∀ d a b k z, Statement (.axisHg d a b k z) := by
  intro d a b k z _ f h
  cases z
  · cases h
    exact ⟨_, rfl, by simp⟩
  · cases h
    refine ⟨?w, ?e, ?i⟩
    case e =>
      show decodeMajor25 _ = _
      simp only [decodeMajor25]
      rfl
    case i => simp

theorem gainH : ∀ d b k z, Statement (.gainH d b k z) := by
  intro d b k z _ f h
  cases z
  · cases h
    exact ⟨_, rfl, by simp⟩
  · cases h
    refine ⟨?w, ?e, ?i⟩
    case e =>
      show decodeMajor25 _ = _
      simp only [decodeMajor25]
      rfl
    case i => simp

theorem rotL : ∀ d a b k z, Statement (.rotL d a b k z) := by
  intro d a b k z _ f h
  cases z
  · cases h
    exact ⟨_, rfl, by simp⟩
  · cases h
    refine ⟨?w, ?e, ?i⟩
    case e =>
      show decodeMajor26 _ = _
      simp only [decodeMajor26]
      rfl
    case i => simp

theorem axisL : ∀ d a b k z, Statement (.axisL d a b k z) := by
  intro d a b k z _ f h
  cases z
  · cases h
    exact ⟨_, rfl, by simp⟩
  · cases h
    refine ⟨?w, ?e, ?i⟩
    case e =>
      show decodeMajor26 _ = _
      simp only [decodeMajor26]
      rfl
    case i => simp

theorem rotFold : ∀ d a k z, Statement (.rotFold d a k z) := by
  intro d a k z _ f h
  cases z
  · cases h
    exact ⟨_, rfl, by simp⟩
  · cases h
    refine ⟨?w, ?e, ?i⟩
    case e =>
      show decodeMajor27 _ = _
      simp only [decodeMajor27]
      rfl
    case i => simp

theorem rotUnfold : ∀ d a k z, Statement (.rotUnfold d a k z) := by
  intro d a k z _ f h
  cases z
  · cases h
    exact ⟨_, rfl, by simp⟩
  · cases h
    refine ⟨?w, ?e, ?i⟩
    case e =>
      show decodeMajor27 _ = _
      simp only [decodeMajor27]
      rfl
    case i => simp

theorem mmShape : ∀ d a b, Statement (.mmShape d a b) := by
  intro d a b _ f h
  cases h
  exact ⟨_, rfl, by simp⟩

theorem mmMov : ∀ d a k, Statement (.mmMov d a k) := by
  intro d a k _ f h
  cases h
  exact ⟨_, rfl, by simp⟩

theorem mmExt : ∀ d a b k, Statement (.mmExt d a b k) := by
  intro d a b k _ f h
  cases h
  exact ⟨_, rfl, by simp⟩

theorem mmIns : ∀ d a b k, Statement (.mmIns d a b k) := by
  intro d a b k _ f h
  cases h
  exact ⟨_, rfl, by simp⟩

theorem mmLd : ∀ d a b k, Statement (.mmLd d a b k) := by
  intro d a b k _ f h
  cases h
  exact ⟨_, rfl, by simp⟩

theorem mmSt : ∀ d a b k, Statement (.mmSt d a b k) := by
  intro d a b k _ f h
  cases h
  exact ⟨_, rfl, by simp⟩

theorem mmMul : ∀ d a b k, Statement (.mmMul d a b k) := by
  intro d a b k _ f h
  cases h
  exact ⟨_, rfl, by simp⟩

theorem mmMadd : ∀ d a b k, Statement (.mmMadd d a b k) := by
  intro d a b k _ f h
  cases h
  exact ⟨_, rfl, by simp⟩

theorem mmMsub : ∀ d a b k, Statement (.mmMsub d a b k) := by
  intro d a b k _ f h
  cases h
  exact ⟨_, rfl, by simp⟩

theorem mmTrn : ∀ d a k, Statement (.mmTrn d a k) := by
  intro d a k _ f h
  cases h
  exact ⟨_, rfl, by simp⟩

theorem mmChol : ∀ d a k, Statement (.mmChol d a k) := by
  intro d a k _ f h
  cases h
  exact ⟨_, rfl, by simp⟩

theorem mmLu : ∀ d a k, Statement (.mmLu d a k) := by
  intro d a k _ f h
  cases h
  exact ⟨_, rfl, by simp⟩

theorem mmTrsl : ∀ d a b k, Statement (.mmTrsl d a b k) := by
  intro d a b k _ f h
  cases h
  exact ⟨_, rfl, by simp⟩

theorem mmTrsu : ∀ d a b k, Statement (.mmTrsu d a b k) := by
  intro d a b k _ f h
  cases h
  exact ⟨_, rfl, by simp⟩

theorem mmSolve : ∀ d a b k, Statement (.mmSolve d a b k) := by
  intro d a b k _ f h
  cases h
  exact ⟨_, rfl, by simp⟩

theorem mmDet : ∀ d a k, Statement (.mmDet d a k) := by
  intro d a k _ f h
  cases h
  exact ⟨_, rfl, by simp⟩

theorem tlShape : ∀ d a, Statement (.tlShape d a) := by
  intro d a _ f h
  cases h
  exact ⟨_, rfl, rfl⟩

theorem tlDesc : ∀ d a b, Statement (.tlDesc d a b) := by
  intro d a b _ f h
  cases h
  exact ⟨_, rfl, by simp⟩

theorem tlPrec : ∀ a b, Statement (.tlPrec a b) := by
  intro a b _ f h
  cases h
  exact ⟨_, rfl, rfl⟩

theorem tlZero : ∀ d, Statement (.tlZero d) := by
  intro d _ f h
  cases h
  exact ⟨_, rfl, by simp⟩

theorem tlAcc : ∀ d a b, Statement (.tlAcc d a b) := by
  intro d a b _ f h
  cases h
  exact ⟨_, rfl, by simp⟩

theorem tlLdp : ∀ d a b op, Statement (.tlLdp d a b op) := by
  intro d a b op hw f h
  cases h
  simp [Instr.wellFormed] at hw
  refine ⟨?w, ?e, ?i⟩
  case e =>
    show decodeMajor2D _ = _
    unfold decodeMajor2D
    rw [wfn_ofW, op_ofW, port_ofW]
    simp [hw]
    rfl
  case i => simp [Fields.ofW]

theorem tlStp : ∀ d a b, Statement (.tlStp d a b) := by
  intro d a b hw f h
  cases h
  simp [Instr.wellFormed] at hw
  refine ⟨?w, ?e, ?i⟩
  case e =>
    show decodeMajor2D _ = _
    unfold decodeMajor2D
    rw [wfn_ofW, op_ofW, port_ofW]
    simp [hw]
    rfl
  case i => simp [Fields.ofW]

theorem tlBcast : ∀ d a p, Statement (.tlBcast d a p) := by
  intro d a p hw f h
  cases h
  simp [Instr.wellFormed] at hw
  refine ⟨?w, ?e, ?i⟩
  case e =>
    show decodeMajor2D _ = _
    unfold decodeMajor2D
    rw [wfn_ofW, op_ofW, port_ofW]
    simp [hw]
    rfl
  case i => simp [Fields.ofW]

theorem tlLdsc : ∀ d a b op p, Statement (.tlLdsc d a b op p) := by
  intro d a b op p hw f h
  cases h
  simp [Instr.wellFormed] at hw
  refine ⟨?w, ?e, ?i⟩
  case e =>
    show decodeMajor2D _ = _
    unfold decodeMajor2D
    rw [wfn_ofW, op_ofW, port_ofW]
    simp [hw]
    rfl
  case i => simp [Fields.ofW]

theorem tlMma : ∀ d a b, Statement (.tlMma d a b) := by
  intro d a b _ f h
  cases h
  exact ⟨_, rfl, by simp⟩

theorem tlMmz : ∀ d a b, Statement (.tlMmz d a b) := by
  intro d a b _ f h
  cases h
  exact ⟨_, rfl, by simp⟩

theorem tlMms : ∀ d a b, Statement (.tlMms d a b) := by
  intro d a b _ f h
  cases h
  exact ⟨_, rfl, by simp⟩

theorem tlExt : ∀ d a b k z, Statement (.tlExt d a b k z) := by
  intro d a b k z _ f h
  cases z
  · cases h
    exact ⟨_, rfl, by simp⟩
  · cases h
    refine ⟨?w, ?e, ?i⟩
    case e =>
      show decodeMajor2F _ = _
      simp only [decodeMajor2F]
      rfl
    case i => simp

theorem tlExtr : ∀ d a b k z, Statement (.tlExtr d a b k z) := by
  intro d a b k z _ f h
  cases z
  · cases h
    exact ⟨_, rfl, by simp⟩
  · cases h
    refine ⟨?w, ?e, ?i⟩
    case e =>
      show decodeMajor2F _ = _
      simp only [decodeMajor2F]
      rfl
    case i => simp

theorem xsLd : ∀ d a b op p, Statement (.xsLd d a b op p) := by
  intro d a b op p hw f h
  cases h
  simp [Instr.wellFormed] at hw
  refine ⟨?w, ?e, ?i⟩
  case e =>
    show decodeMajor30 _ = _
    unfold decodeMajor30
    rw [wfn_ofW, op_ofW, port_ofW]
    simp [hw]
    rfl
  case i => simp [Fields.ofW]

theorem xsSt : ∀ d a b op p, Statement (.xsSt d a b op p) := by
  intro d a b op p hw f h
  cases h
  simp [Instr.wellFormed] at hw
  refine ⟨?w, ?e, ?i⟩
  case e =>
    show decodeMajor30 _ = _
    unfold decodeMajor30
    rw [wfn_ofW, op_ofW, port_ofW]
    simp [hw]
    rfl
  case i => simp [Fields.ofW]

theorem xsGth : ∀ d a b op p, Statement (.xsGth d a b op p) := by
  intro d a b op p hw f h
  cases h
  simp [Instr.wellFormed] at hw
  refine ⟨?w, ?e, ?i⟩
  case e =>
    show decodeMajor30 _ = _
    unfold decodeMajor30
    rw [wfn_ofW, op_ofW, port_ofW]
    simp [hw]
    rfl
  case i => simp [Fields.ofW]

theorem xsSct : ∀ d a b op p, Statement (.xsSct d a b op p) := by
  intro d a b op p hw f h
  cases h
  simp [Instr.wellFormed] at hw
  refine ⟨?w, ?e, ?i⟩
  case e =>
    show decodeMajor30 _ = _
    unfold decodeMajor30
    rw [wfn_ofW, op_ofW, port_ofW]
    simp [hw]
    rfl
  case i => simp [Fields.ofW]

theorem xsCp : ∀ d a b op p, Statement (.xsCp d a b op p) := by
  intro d a b op p hw f h
  cases h
  simp [Instr.wellFormed] at hw
  refine ⟨?w, ?e, ?i⟩
  case e =>
    show decodeMajor30 _ = _
    unfold decodeMajor30
    rw [wfn_ofW, op_ofW, port_ofW]
    simp [hw]
    rfl
  case i => simp [Fields.ofW]

theorem xsWait : ∀ a b, Statement (.xsWait a b) := by
  intro a b _ f h
  cases h
  exact ⟨_, rfl, by simp⟩

theorem xsCnt : ∀ d a, Statement (.xsCnt d a) := by
  intro d a _ f h
  cases h
  exact ⟨_, rfl, by simp⟩

theorem xsWm : ∀ d a, Statement (.xsWm d a) := by
  intro d a _ f h
  cases h
  exact ⟨_, rfl, by simp⟩

theorem xsRst : ∀ a b, Statement (.xsRst a b) := by
  intro a b _ f h
  cases h
  exact ⟨_, rfl, by simp⟩

theorem xsCsum : ∀ d a, Statement (.xsCsum d a) := by
  intro d a _ f h
  cases h
  exact ⟨_, rfl, by simp⟩

theorem cbCfg : ∀ d a b, Statement (.cbCfg d a b) := by
  intro d a b _ f h
  cases h
  exact ⟨_, rfl, by simp⟩

theorem cbAcq : ∀ d a b, Statement (.cbAcq d a b) := by
  intro d a b _ f h
  cases h
  exact ⟨_, rfl, by simp⟩

theorem cbRel : ∀ a b, Statement (.cbRel a b) := by
  intro a b _ f h
  cases h
  exact ⟨_, rfl, by simp⟩

theorem cbStat : ∀ d a, Statement (.cbStat d a) := by
  intro d a _ f h
  cases h
  exact ⟨_, rfl, by simp⟩

theorem plDec : ∀ d a b op p, Statement (.plDec d a b op p) := by
  intro d a b op p hw f h
  cases h
  simp [Instr.wellFormed] at hw
  refine ⟨?w, ?e, ?i⟩
  case e =>
    show decodeMajor34 _ = _
    unfold decodeMajor34
    rw [wfn_ofW, op_ofW, port_ofW]
    simp [hw]
    rfl
  case i => simp [Fields.ofW]

theorem plIsect : ∀ d a b op p, Statement (.plIsect d a b op p) := by
  intro d a b op p hw f h
  cases h
  simp [Instr.wellFormed] at hw
  refine ⟨?w, ?e, ?i⟩
  case e =>
    show decodeMajor34 _ = _
    unfold decodeMajor34
    rw [wfn_ofW, op_ofW, port_ofW]
    simp [hw]
    rfl
  case i => simp [Fields.ofW]

theorem plUnite : ∀ d a b op p, Statement (.plUnite d a b op p) := by
  intro d a b op p hw f h
  cases h
  simp [Instr.wellFormed] at hw
  refine ⟨?w, ?e, ?i⟩
  case e =>
    show decodeMajor34 _ = _
    unfold decodeMajor34
    rw [wfn_ofW, op_ofW, port_ofW]
    simp [hw]
    rfl
  case i => simp [Fields.ofW]

theorem plBm25 : ∀ d a b p, Statement (.plBm25 d a b p) := by
  intro d a b p hw f h
  cases h
  simp [Instr.wellFormed] at hw
  refine ⟨?w, ?e, ?i⟩
  case e =>
    show decodeMajor34 _ = _
    unfold decodeMajor34
    rw [wfn_ofW, op_ofW, port_ofW]
    simp [hw]
    rfl
  case i => simp [Fields.ofW]

theorem plFuse : ∀ d a b p, Statement (.plFuse d a b p) := by
  intro d a b p hw f h
  cases h
  simp [Instr.wellFormed] at hw
  refine ⟨?w, ?e, ?i⟩
  case e =>
    show decodeMajor34 _ = _
    unfold decodeMajor34
    rw [wfn_ofW, op_ofW, port_ofW]
    simp [hw]
    rfl
  case i => simp [Fields.ofW]

theorem plTopk : ∀ d a b p, Statement (.plTopk d a b p) := by
  intro d a b p hw f h
  cases h
  simp [Instr.wellFormed] at hw
  refine ⟨?w, ?e, ?i⟩
  case e =>
    show decodeMajor34 _ = _
    unfold decodeMajor34
    rw [wfn_ofW, op_ofW, port_ofW]
    simp [hw]
    rfl
  case i => simp [Fields.ofW]

theorem plPrm : ∀ a b, Statement (.plPrm a b) := by
  intro a b _ f h
  cases h
  exact ⟨_, rfl, by simp⟩

theorem plQry : ∀ a b, Statement (.plQry a b) := by
  intro a b _ f h
  cases h
  exact ⟨_, rfl, rfl⟩

theorem plStat : ∀ d, Statement (.plStat d) := by
  intro d _ f h
  cases h
  exact ⟨_, rfl, rfl⟩

theorem plClr : ∀ a, Statement (.plClr a) := by
  intro a _ f h
  cases h
  exact ⟨_, rfl, rfl⟩

theorem rsvOpen : ∀ a b k, Statement (.rsvOpen a b k) := by
  intro a b k _ f h
  cases h
  exact ⟨_, rfl, rfl⟩

theorem rsvClaim : ∀ d a b k, Statement (.rsvClaim d a b k) := by
  intro d a b k _ f h
  cases h
  exact ⟨_, rfl, by simp⟩

theorem rsvWave : ∀ d, Statement (.rsvWave d) := by
  intro d _ f h
  cases h
  exact ⟨_, rfl, by simp⟩

theorem rsvRetire : ∀ k, Statement (.rsvRetire k) := by
  intro k _ f h
  cases h
  exact ⟨_, rfl, rfl⟩

theorem rsvStat : ∀ d, Statement (.rsvStat d) := by
  intro d _ f h
  cases h
  exact ⟨_, rfl, rfl⟩

theorem amoAdd : ∀ d a b, Statement (.amoAdd d a b) := by
  intro d a b _ f h
  cases h
  exact ⟨_, rfl, rfl⟩

theorem amoMin : ∀ d a b, Statement (.amoMin d a b) := by
  intro d a b _ f h
  cases h
  exact ⟨_, rfl, rfl⟩

theorem amoMax : ∀ d a b, Statement (.amoMax d a b) := by
  intro d a b _ f h
  cases h
  exact ⟨_, rfl, rfl⟩

theorem amoAnd : ∀ d a b, Statement (.amoAnd d a b) := by
  intro d a b _ f h
  cases h
  exact ⟨_, rfl, rfl⟩

theorem amoOr : ∀ d a b, Statement (.amoOr d a b) := by
  intro d a b _ f h
  cases h
  exact ⟨_, rfl, rfl⟩

theorem amoXor : ∀ d a b, Statement (.amoXor d a b) := by
  intro d a b _ f h
  cases h
  exact ⟨_, rfl, rfl⟩

theorem amoSwap : ∀ d a b, Statement (.amoSwap d a b) := by
  intro d a b _ f h
  cases h
  exact ⟨_, rfl, rfl⟩

theorem amoCas : ∀ d a b, Statement (.amoCas d a b) := by
  intro d a b _ f h
  cases h
  exact ⟨_, rfl, rfl⟩

theorem amoFadd : ∀ d a b, Statement (.amoFadd d a b) := by
  intro d a b _ f h
  cases h
  exact ⟨_, rfl, rfl⟩

theorem gbInit : ∀ d a, Statement (.gbInit d a) := by
  intro d a _ f h
  cases h
  exact ⟨_, rfl, by simp⟩

theorem gbArr : ∀ d a, Statement (.gbArr d a) := by
  intro d a _ f h
  cases h
  exact ⟨_, rfl, by simp⟩

theorem gbWait : ∀ a b, Statement (.gbWait a b) := by
  intro a b _ f h
  cases h
  exact ⟨_, rfl, by simp⟩

theorem fenceRel : ∀ b, Statement (.fenceRel b) := by
  intro b _ f h
  cases h
  exact ⟨_, rfl, by simp⟩

theorem fenceAcq : ∀ b, Statement (.fenceAcq b) := by
  intro b _ f h
  cases h
  exact ⟨_, rfl, by simp⟩

theorem fenceAr : ∀ b, Statement (.fenceAr b) := by
  intro b _ f h
  cases h
  exact ⟨_, rfl, by simp⟩

theorem detStep : ∀ d, Statement (.detStep d) := by
  intro d _ f h
  cases h
  exact ⟨_, rfl, rfl⟩

theorem detLog : ∀ d, Statement (.detLog d) := by
  intro d _ f h
  cases h
  exact ⟨_, rfl, rfl⟩

theorem claimEl : ∀ d a b, Statement (.claimEl d a b) := by
  intro d a b _ f h
  cases h
  exact ⟨_, rfl, rfl⟩

theorem taskSpawn : ∀ a b, Statement (.taskSpawn a b) := by
  intro a b _ f h
  cases h
  exact ⟨_, rfl, rfl⟩

theorem taskJoin : ∀ d a, Statement (.taskJoin d a) := by
  intro d a _ f h
  cases h
  exact ⟨_, rfl, rfl⟩

theorem taskNotify : ∀ a b, Statement (.taskNotify a b) := by
  intro a b _ f h
  cases h
  exact ⟨_, rfl, rfl⟩

theorem vpRun : ∀ a k, Statement (.vpRun a k) := by
  intro a k _ f h
  cases h
  exact ⟨_, rfl, rfl⟩

theorem vpBr : ∀ a k, Statement (.vpBr a k) := by
  intro a k _ f h
  cases h
  exact ⟨_, rfl, rfl⟩

theorem vpStop : ∀ k, Statement (.vpStop k) := by
  intro k _ f h
  cases h
  exact ⟨_, rfl, rfl⟩

theorem vpId : ∀ d k, Statement (.vpId d k) := by
  intro d k _ f h
  cases h
  exact ⟨_, rfl, rfl⟩

theorem vpAny : ∀ d k, Statement (.vpAny d k) := by
  intro d k _ f h
  cases h
  exact ⟨_, rfl, rfl⟩

theorem sysRd : ∀ d a n, Statement (.sysRd d a n) := by
  intro d a n _ f h
  cases h
  exact ⟨_, rfl, congrArg (fun y => Instr.sysRd d a y) ((extract_join n 0 5 2 5 rfl).trans (extract_all n))⟩

theorem sysWr : ∀ d a n, Statement (.sysWr d a n) := by
  intro d a n _ f h
  cases h
  exact ⟨_, rfl, congrArg (fun y => Instr.sysWr d a y) ((extract_join n 0 5 2 5 rfl).trans (extract_all n))⟩

theorem sysSet : ∀ d a n, Statement (.sysSet d a n) := by
  intro d a n _ f h
  cases h
  exact ⟨_, rfl, congrArg (fun y => Instr.sysSet d a y) ((extract_join n 0 5 2 5 rfl).trans (extract_all n))⟩

theorem sysClr : ∀ d a n, Statement (.sysClr d a n) := by
  intro d a n _ f h
  cases h
  exact ⟨_, rfl, congrArg (fun y => Instr.sysClr d a y) ((extract_join n 0 5 2 5 rfl).trans (extract_all n))⟩

theorem sysCall : ∀ a b, Statement (.sysCall a b) := by
  intro a b _ f h
  cases h
  exact ⟨_, rfl, by simp⟩

theorem sysBrk : ∀ a b, Statement (.sysBrk a b) := by
  intro a b _ f h
  cases h
  exact ⟨_, rfl, by simp⟩

theorem sysTinval : ∀ a b, Statement (.sysTinval a b) := by
  intro a b _ f h
  cases h
  exact ⟨_, rfl, rfl⟩

theorem sysId : ∀ d, Statement (.sysId d) := by
  intro d _ f h
  cases h
  exact ⟨_, rfl, rfl⟩

theorem illegalInstruction : ∀ w, Statement (.illegalInstruction w) := by
  intro w _ f h
  cases h

theorem plWait : Statement (.plWait) := by
  intro _ f h
  cases h
  exact ⟨_, rfl, rfl⟩

theorem plAbort : Statement (.plAbort) := by
  intro _ f h
  cases h
  exact ⟨_, rfl, rfl⟩

theorem rsvClose : Statement (.rsvClose) := by
  intro _ f h
  cases h
  exact ⟨_, rfl, rfl⟩

theorem taskExit : Statement (.taskExit) := by
  intro _ f h
  cases h
  exact ⟨_, rfl, rfl⟩

theorem vpJoin : Statement (.vpJoin) := by
  intro _ f h
  cases h
  exact ⟨_, rfl, rfl⟩

theorem sysRet : Statement (.sysRet) := by
  intro _ f h
  cases h
  exact ⟨_, rfl, rfl⟩

theorem sysWfi : Statement (.sysWfi) := by
  intro _ f h
  cases h
  exact ⟨_, rfl, rfl⟩

theorem sysIfence : Statement (.sysIfence) := by
  intro _ f h
  cases h
  exact ⟨_, rfl, rfl⟩

theorem sysHalt : Statement (.sysHalt) := by
  intro _ f h
  cases h
  exact ⟨_, rfl, rfl⟩

theorem xuGroupComplete : Statement (.xuGroupComplete) := by
  intro _ f h
  cases h

theorem watermarkRelease : Statement (.watermarkRelease) := by
  intro _ f h
  cases h

theorem dauStallRelease : Statement (.dauStallRelease) := by
  intro _ f h
  cases h

theorem xsWaitComplete : Statement (.xsWaitComplete) := by
  intro _ f h
  cases h

theorem streamStart : Statement (.streamStart) := by
  intro _ f h
  cases h

theorem streamElementComplete : Statement (.streamElementComplete) := by
  intro _ f h
  cases h

theorem remoteArrival : Statement (.remoteArrival) := by
  intro _ f h
  cases h

theorem cbAcqGrant : Statement (.cbAcqGrant) := by
  intro _ f h
  cases h

theorem sloeCommandStart : Statement (.sloeCommandStart) := by
  intro _ f h
  cases h

theorem sloeChunkComplete : Statement (.sloeChunkComplete) := by
  intro _ f h
  cases h

theorem sloeBatchComplete : Statement (.sloeBatchComplete) := by
  intro _ f h
  cases h

theorem plWaitComplete : Statement (.plWaitComplete) := by
  intro _ f h
  cases h

theorem tileFormExecute : Statement (.tileFormExecute) := by
  intro _ f h
  cases h

theorem tileKStepComplete : Statement (.tileKStepComplete) := by
  intro _ f h
  cases h

theorem tileLineComplete : Statement (.tileLineComplete) := by
  intro _ f h
  cases h

theorem tlBcastMeet : Statement (.tlBcastMeet) := by
  intro _ f h
  cases h

theorem rsvRendezvous : Statement (.rsvRendezvous) := by
  intro _ f h
  cases h

theorem gbWaitRelease : Statement (.gbWaitRelease) := by
  intro _ f h
  cases h

theorem fenceComplete : Statement (.fenceComplete) := by
  intro _ f h
  cases h

theorem detStepResolve : Statement (.detStepResolve) := by
  intro _ f h
  cases h

theorem taskSpawnPush : Statement (.taskSpawnPush) := by
  intro _ f h
  cases h

theorem wfiWake : Statement (.wfiWake) := by
  intro _ f h
  cases h

theorem dispatch : Statement (.dispatch) := by
  intro _ f h
  cases h

theorem gangPreempt : Statement (.gangPreempt) := by
  intro _ f h
  cases h

theorem eventTake : Statement (.eventTake) := by
  intro _ f h
  cases h

theorem qctlMap : Statement (.qctlMap) := by
  intro _ f h
  cases h

theorem qctlDrain : Statement (.qctlDrain) := by
  intro _ f h
  cases h

theorem qctlAbort : Statement (.qctlAbort) := by
  intro _ f h
  cases h

theorem queueDrainComplete : Statement (.queueDrainComplete) := by
  intro _ f h
  cases h

theorem queueAbortComplete : Statement (.queueAbortComplete) := by
  intro _ f h
  cases h

theorem hostDoorbell : Statement (.hostDoorbell) := by
  intro _ f h
  cases h

theorem hostEvtpost : Statement (.hostEvtpost) := by
  intro _ f h
  cases h

theorem hostMemRead : Statement (.hostMemRead) := by
  intro _ f h
  cases h

theorem hostMemWrite : Statement (.hostMemWrite) := by
  intro _ f h
  cases h

theorem peerWriteIn : Statement (.peerWriteIn) := by
  intro _ f h
  cases h

theorem spaesSendEntry : Statement (.spaesSendEntry) := by
  intro _ f h
  cases h

theorem spaesEntryComplete : Statement (.spaesEntryComplete) := by
  intro _ f h
  cases h

theorem spownWrite : Statement (.spownWrite) := by
  intro _ f h
  cases h

theorem controlInterval : Statement (.controlInterval) := by
  intro _ f h
  cases h

theorem currentLimitTrip : Statement (.currentLimitTrip) := by
  intro _ f h
  cases h

theorem currentLimitRepeat : Statement (.currentLimitRepeat) := by
  intro _ f h
  cases h

theorem currantTokenVisit : Statement (.currantTokenVisit) := by
  intro _ f h
  cases h

theorem equotaExhaust : Statement (.equotaExhaust) := by
  intro _ f h
  cases h

theorem quotaRefill : Statement (.quotaRefill) := by
  intro _ f h
  cases h

theorem tygenCapSet : Statement (.tygenCapSet) := by
  intro _ f h
  cases h

theorem tygenReadback : Statement (.tygenReadback) := by
  intro _ f h
  cases h

theorem clpQuiesce : Statement (.clpQuiesce) := by
  intro _ f h
  cases h

theorem clpGate : Statement (.clpGate) := by
  intro _ f h
  cases h

theorem clpWake : Statement (.clpWake) := by
  intro _ f h
  cases h

theorem clpOpen : Statement (.clpOpen) := by
  intro _ f h
  cases h

theorem clpQuiesced : Statement (.clpQuiesced) := by
  intro _ f h
  cases h

theorem clpGated : Statement (.clpGated) := by
  intro _ f h
  cases h

theorem clpAwake : Statement (.clpAwake) := by
  intro _ f h
  cases h

theorem svcIsolate : Statement (.svcIsolate) := by
  intro _ f h
  cases h

theorem svcRecalibrate : Statement (.svcRecalibrate) := by
  intro _ f h
  cases h

theorem svcLoadMicrocode : Statement (.svcLoadMicrocode) := by
  intro _ f h
  cases h

theorem svcReturn : Statement (.svcReturn) := by
  intro _ f h
  cases h

theorem svcDone : Statement (.svcDone) := by
  intro _ f h
  cases h

theorem qrelRelease : Statement (.qrelRelease) := by
  intro _ f h
  cases h

theorem qrelComplete : Statement (.qrelComplete) := by
  intro _ f h
  cases h

theorem ckptTake : Statement (.ckptTake) := by
  intro _ f h
  cases h

theorem ckptTakeComplete : Statement (.ckptTakeComplete) := by
  intro _ f h
  cases h

theorem ckptRestore : Statement (.ckptRestore) := by
  intro _ f h
  cases h

theorem ckptRestoreComplete : Statement (.ckptRestoreComplete) := by
  intro _ f h
  cases h

theorem ckptInvalidate : Statement (.ckptInvalidate) := by
  intro _ f h
  cases h

theorem dieReset : Statement (.dieReset) := by
  intro _ f h
  cases h

theorem dieRelease : Statement (.dieRelease) := by
  intro _ f h
  cases h

theorem firmwareInitComplete : Statement (.firmwareInitComplete) := by
  intro _ f h
  cases h

theorem mainPowerLoss : Statement (.mainPowerLoss) := by
  intro _ f h
  cases h

theorem auxPowerLoss : Statement (.auxPowerLoss) := by
  intro _ f h
  cases h

theorem coldStart : Statement (.coldStart) := by
  intro _ f h
  cases h

theorem patrolScrub : Statement (.patrolScrub) := by
  intro _ f h
  cases h

theorem controlRegisterWrite : Statement (.controlRegisterWrite) := by
  intro _ f h
  cases h

theorem mainPowerReturn : Statement (.mainPowerReturn) := by
  intro _ f h
  cases h

theorem firmwareCoreRestart : Statement (.firmwareCoreRestart) := by
  intro _ f h
  cases h

theorem softError : Statement (.softError) := by
  intro _ f h
  cases h

end Sys2Proof.Laws.ReadsBack
end

