-- ==== Sys2Proof/Laws/Vector.lean ====
section
/-! SUPPORT. Vector operands: an element that was written is read back, every other element and register keeps its bits;
and what an element-wise form leaves in its destination. -/

namespace Sys2Proof.Machine

/-! ## One register -/

/-- Widths of elements are 4, 8, 16, 32 or 64. -/
theorem Tag.width_le (t : Tag) : 4 ≤ t.width ∧ t.width ≤ 64 := by cases t <;> decide

/-- A written position holds the value. -/
theorem VReg.bits_put_same (x : VReg) (w i v : Nat) (h : w * i + w ≤ 32768) : (x.put w i v).bits w i = v % 2 ^ w := by
  have h1 : (x.put w i v).bits w i = (getF w (setF x.data i (BitVec.ofNat w v)) i).toNat := (getF_toNat w _ i).symm
  rw [h1, getF_setF_same _ _ _ h, BitVec.toNat_ofNat]

/-- Other positions keep their bits. -/
theorem VReg.bits_put_other (x : VReg) (w i j v : Nat) (h : i ≠ j) : (x.put w i v).bits w j = x.bits w j := by
  have h1 : (x.put w i v).bits w j = (getF w (setF x.data i (BitVec.ofNat w v)) j).toNat := (getF_toNat w _ j).symm
  have h2 : x.bits w j = (getF w x.data j).toNat := (getF_toNat w _ j).symm
  rw [h1, h2, getF_setF_other _ _ _ _ h]

/-! ## Operands -/

/-- What every operand of a name satisfies: it lies in the register file, and a group holds words of 32 bits. -/
def VOp.ok (o : VOp) : Prop := o.base + o.regs ≤ 32 ∧ 0 < o.mvl32 ∧ o.mvl32 ≤ 1024 ∧ (o.regs = 1 ∨ o.tag.width = 32)

/-- MVL32 is 1024, 512 or 256 (R179). -/
theorem mvl32Of_range (x : Word) : 0 < mvl32Of x ∧ mvl32Of x ≤ 1024 := by
  unfold mvl32Of; split <;> decide

/-- Groups have 1, 4 or 8 registers (R57). -/
theorem grpSize_cases (g : BitVec 2) : grpSize g = 1 ∨ grpSize g = 4 ∨ grpSize g = 8 := by
  unfold grpSize; split <;> simp

/-- An operand that a name designates. -/
theorem State.vop_ok (s : State) (r : BitVec 5) : (s.vop r).ok := by
  have hp : (s.physV r).toNat < 32 := (s.physV r).isLt
  have hm := mvl32Of_range s.core.vec.vprof
  unfold State.vop VOp.ok
  dsimp only
  split
  · rename_i h
    simp only [Bool.and_eq_true, State.coherent, decide_eq_true_eq, List.all_eq_true, List.mem_range, beq_iff_eq,
      ne_eq] at h
    obtain ⟨h1, h2, h3⟩ := h
    have hn := grpSize_cases (s.vreg r).grp
    have h0 := h3 0 (by omega)
    rw [Nat.add_zero] at h0
    have ht : (s.vreg r).tag = .f32 := by
      have : s.physReg (s.physV r).toNat = s.vreg r := by
        unfold State.physReg State.vreg
        rw [BitVec.ofNat_toNat, BitVec.setWidth_eq]
      rw [this] at h0
      exact h0.1
    refine ⟨?_, hm.1, hm.2, Or.inr (by rw [ht]; rfl)⟩
    rcases hn with h | h | h <;> rw [h] at h2 ⊢ <;> omega
  · exact ⟨by omega, hm.1, hm.2, Or.inl rfl⟩

/-- The register and position of an element below the capacity lie within bounds. -/
theorem VOp.place_lt {o : VOp} (h : o.ok) {e : Nat} (he : e < o.cap) :
    (o.place e).1 < 32 ∧ o.tag.width * (o.place e).2 + o.tag.width ≤ 32768 := by
  obtain ⟨h1, h2, h3, h4⟩ := h
  have hw := Tag.width_le o.tag
  unfold VOp.cap at he
  unfold VOp.place
  by_cases hr : o.regs = 1
  · rw [if_pos hr] at he ⊢
    refine ⟨by show o.base < 32; omega, ?_⟩
    have h5 : (e + 1) * o.tag.width ≤ o.mvl32 * 32 := (Nat.le_div_iff_mul_le (by omega)).mp he
    show o.tag.width * e + o.tag.width ≤ 32768
    rw [Nat.add_mul, Nat.one_mul, Nat.mul_comm e] at h5
    omega
  · rw [if_neg hr] at he ⊢
    have h5 : o.tag.width = 32 := by omega
    have h6 : e / o.mvl32 < o.regs := Nat.div_lt_of_lt_mul (by rw [Nat.mul_comm]; exact he)
    have h7 : e % o.mvl32 < o.mvl32 := Nat.mod_lt _ h2
    refine ⟨by show o.base + e / o.mvl32 < 32; omega, ?_⟩
    show o.tag.width * (e % o.mvl32) + o.tag.width ≤ 32768
    rw [h5]; omega

/-- Different elements stand at different places. -/
theorem VOp.place_ne (o : VOp) {e q : Nat} (hq : q ≠ e) : (o.place e).1 ≠ (o.place q).1 ∨ (o.place e).2 ≠ (o.place q).2 := by
  unfold VOp.place
  by_cases hr : o.regs = 1
  · rw [if_pos hr, if_pos hr]
    right
    exact fun h => hq h.symm
  · rw [if_neg hr, if_neg hr]
    by_cases h1 : e / o.mvl32 = q / o.mvl32
    · right
      intro h2
      have h3 : e % o.mvl32 = q % o.mvl32 := h2
      apply hq
      rw [← Nat.div_add_mod q o.mvl32, ← Nat.div_add_mod e o.mvl32, h1, h3]
    · left
      intro h2
      have : o.base + e / o.mvl32 = o.base + q / o.mvl32 := h2
      omega

/-! ## Writing elements -/

/-- Register j after an element of an operand has been written. -/
theorem State.physReg_putElem (s : State) (o : VOp) (e v j : Nat) (hp : (o.place e).1 < 32) (hj : j < 32) :
    (s.putElem o e v).physReg j =
      if j = (o.place e).1 then (s.physReg j).put o.tag.width (o.place e).2 v else s.physReg j := by
  unfold State.putElem State.physReg
  simp only [State.onVec_core]
  by_cases h : j = (o.place e).1
  · rw [if_pos h, h, rget_rset_same]
  · rw [if_neg h, rget_rset_other]
    intro h1
    apply h
    have h2 := congrArg BitVec.toNat h1
    simp only [BitVec.toNat_ofNat] at h2
    omega

/-- A written element is read back; the others keep their bits. -/
theorem State.vbits_putElem (s : State) {o : VOp} (h : o.ok) {e q : Nat} (v : Nat) (he : e < o.cap) (hq : q < o.cap) :
    (s.putElem o e v).vbits o q = if q = e then v % 2 ^ o.tag.width else s.vbits o q := by
  have h1 := VOp.place_lt h he
  have h2 := VOp.place_lt h hq
  unfold State.vbits
  rw [State.physReg_putElem s o e v _ h1.1 h2.1]
  by_cases hqe : q = e
  · subst hqe
    rw [if_pos rfl, if_pos rfl, VReg.bits_put_same _ _ _ _ h1.2]
  · rw [if_neg hqe]
    split
    · rename_i h3
      rcases VOp.place_ne o hqe with h4 | h4
      · exact absurd h3.symm h4
      · rw [VReg.bits_put_other _ _ _ _ _ h4]
    · rfl

/-- Elements written in turn, each place once: what element q holds after. -/
theorem State.vbits_putElems (s : State) {o : VOp} (h : o.ok) (l : List (Nat × Nat)) (hl : (l.map (fun x => x.1)).Nodup)
    (hc : ∀ x ∈ l, x.1 < o.cap) {q : Nat} (hq : q < o.cap) :
    (s.putElems o l).vbits o q = match l.find? (fun x => x.1 == q) with
      | some x => x.2 % 2 ^ o.tag.width
      | none => s.vbits o q := by
  induction l generalizing s with
  | nil => rfl
  | cons c r ih =>
    have hr : ((r.map (fun x => x.1)).Nodup) := (List.nodup_cons.mp hl).2
    have hn : c.1 ∉ r.map (fun x => x.1) := (List.nodup_cons.mp hl).1
    have hcr : ∀ x ∈ r, x.1 < o.cap := fun x hx => hc x (List.mem_cons_of_mem _ hx)
    have step : (s.putElems o (c :: r)) = (s.putElem o c.1 c.2).putElems o r := rfl
    rw [step, ih (s.putElem o c.1 c.2) hr hcr]
    by_cases hcq : c.1 = q
    · have h1 : r.find? (fun x => x.1 == q) = none := by
        rw [List.find?_eq_none]
        intro x hx hxq
        apply hn
        rw [hcq, ← (beq_iff_eq.mp hxq)]
        exact List.mem_map.mpr ⟨x, hx, rfl⟩
      rw [h1, List.find?_cons_of_pos (p := fun x : Nat × Nat => x.1 == q) (beq_iff_eq.mpr hcq)]
      show (s.putElem o c.1 c.2).vbits o q = c.2 % 2 ^ o.tag.width
      rw [hcq, State.vbits_putElem s h c.2 hq hq, if_pos rfl]
    · rw [List.find?_cons_of_neg (p := fun x : Nat × Nat => x.1 == q) (fun h => hcq (beq_iff_eq.mp h))]
      split
      · rfl
      · rw [State.vbits_putElem s h c.2 (hc c (List.mem_cons_self ..)) hq, if_neg (fun h => hcq h.symm)]

/-- Writing elements touches nothing but the registers of the operand's file. -/
theorem State.putElems_onVec (s : State) (o : VOp) (l : List (Nat × Nat)) :
    ∃ v, s.putElems o l = s.onVec (fun c => { c with v := v }) := by
  induction l generalizing s with
  | nil => exact ⟨s.core.vec.v, rfl⟩
  | cons c r ih =>
    obtain ⟨v, hv⟩ := ih (s.putElem o c.1 c.2)
    exact ⟨v, hv⟩

/-- Registers that hold no part of an operand keep their contents. -/
theorem State.physReg_putElems (s : State) {o : VOp} (h : o.ok) (l : List (Nat × Nat)) (hc : ∀ x ∈ l, x.1 < o.cap) {j : Nat}
    (hj : j < 32) (hout : j < o.base ∨ o.base + o.regs ≤ j) : (s.putElems o l).physReg j = s.physReg j := by
  induction l generalizing s with
  | nil => rfl
  | cons c r ih =>
    have hce := hc c (List.mem_cons_self ..)
    have h1 := VOp.place_lt h hce
    have h2 : j ≠ (o.place c.1).1 := by
      unfold VOp.place
      split
      · rename_i hr; show j ≠ o.base; omega
      · rename_i hr
        unfold VOp.cap at hce
        rw [if_neg hr] at hce
        have h3 : c.1 / o.mvl32 < o.regs := Nat.div_lt_of_lt_mul (by rw [Nat.mul_comm]; exact hce)
        show j ≠ o.base + c.1 / o.mvl32
        generalize c.1 / o.mvl32 = b at h3 ⊢
        omega
    have step : (s.putElems o (c :: r)) = (s.putElem o c.1 c.2).putElems o r := rfl
    rw [step, ih (s.putElem o c.1 c.2) (fun x hx => hc x (List.mem_cons_of_mem _ hx)), State.physReg_putElem s o c.1 c.2 j h1.1 hj,
      if_neg h2]

/-! ## Element-wise forms -/

/-- Element e of the results of a form, from group g on (R198). -/
theorem State.results_find (s : State) (k : BitVec 3) (z : Bool) (g : Nat) (f : Nat → Nat × Flags) (q : Nat) :
    ((s.results k z g f).map (fun x => (x.1, x.2.1))).find? (fun x => x.1 == q) =
      if 16 * g ≤ q ∧ s.act k q = true then some (q, (f q).1)
      else if 16 * g ≤ q ∧ z = true ∧ s.inact k q = true then some (q, 0) else none := by
  have hin : ∀ e, s.act k e = true → e < s.core.vec.n := by
    intro e h
    simp only [State.act, State.inPlay, Bool.and_eq_true, decide_eq_true_eq] at h
    exact h.1.1
  have hin' : ∀ e, s.inact k e = true → e < s.core.vec.n := by
    intro e h
    simp only [State.inact, State.inPlay, Bool.and_eq_true, decide_eq_true_eq] at h
    exact h.1.1
  unfold State.results State.elems
  generalize hn : s.core.vec.n - 16 * g = m
  have hlim : ∀ e, s.act k e = true ∨ s.inact k e = true → 16 * g ≤ e → e < 16 * g + m := by
    intro e h1 h2
    have : e < s.core.vec.n := h1.elim (hin e) (hin' e)
    omega
  clear hn
  suffices H : ∀ (m a : Nat), (∀ e, s.act k e = true ∨ s.inact k e = true → a ≤ e → e < a + m) →
      (((List.range' a m).filterMap (fun e => if s.act k e then some (e, f e)
        else if z && s.inact k e then some (e, 0, 0) else none)).map (fun x => (x.1, x.2.1))).find? (fun x => x.1 == q) =
      if a ≤ q ∧ s.act k q = true then some (q, (f q).1)
      else if a ≤ q ∧ z = true ∧ s.inact k q = true then some (q, 0) else none from H m (16 * g) hlim
  intro m
  induction m with
  | zero =>
    intro a h
    have h1 : ¬ (a ≤ q ∧ s.act k q = true) := fun ⟨x, y⟩ => by have := h q (Or.inl y) x; omega
    have h2 : ¬ (a ≤ q ∧ z = true ∧ s.inact k q = true) := fun ⟨x, _, y⟩ => by have := h q (Or.inr y) x; omega
    rw [if_neg h1, if_neg h2]
    rfl
  | succ m ih =>
    intro a h
    have h' : ∀ e, s.act k e = true ∨ s.inact k e = true → a + 1 ≤ e → e < a + 1 + m := by
      intro e h1 h2
      have := h e h1 (by omega)
      omega
    have IH := ih (a + 1) h'
    rw [List.range'_succ, List.filterMap_cons]
    have hd : s.act k a = true → s.inact k a = false := by
      intro h1
      simp only [State.act, Bool.and_eq_true] at h1
      simp [State.inact, h1.2]
    by_cases ha : s.act k a = true
    · simp only [ha, if_true, List.map_cons, List.find?_cons]
      by_cases hq : a = q
      · subst hq
        simp [ha]
      · have h1 : (a == q) = false := beq_eq_false_iff_ne.mpr hq
        rw [h1]
        have h2 : (a + 1 ≤ q) = (a ≤ q) := propext ⟨fun h => by omega, fun h => by omega⟩
        simp only [h2] at IH
        exact IH
    · have ha' : s.act k a = false := by simpa using ha
      simp only [ha', Bool.false_eq_true, if_false]
      by_cases hz : (z && s.inact k a) = true
      · simp only [hz, if_true, List.map_cons, List.find?_cons]
        rw [Bool.and_eq_true] at hz
        by_cases hq : a = q
        · subst hq
          simp [ha', hz.1, hz.2]
        · have h1 : (a == q) = false := beq_eq_false_iff_ne.mpr hq
          rw [h1]
          have h2 : (a + 1 ≤ q) = (a ≤ q) := propext ⟨fun h => by omega, fun h => by omega⟩
          simp only [h2] at IH
          exact IH
      · have hz' : (z && s.inact k a) = false := by simpa using hz
        simp only [hz', Bool.false_eq_true, if_false]
        rw [IH]
        by_cases hq : a = q
        · subst hq
          have h1 : ¬ (a + 1 ≤ a) := by omega
          have h2 : ¬ (z = true ∧ s.inact k a = true) := by
            intro ⟨x, y⟩
            rw [x, y] at hz'
            exact absurd hz' (by decide)
          simp [ha', h2]
        · have h2 : (a + 1 ≤ q) = (a ≤ q) := propext ⟨fun h => by omega, fun h => by omega⟩
          simp only [h2]

/-- Elements among the results lie below VL, each once. -/
theorem State.results_nodup (s : State) (k : BitVec 3) (z : Bool) (g : Nat) (f : Nat → Nat × Flags) :
    (((s.results k z g f).map (fun x => (x.1, x.2.1))).map (fun x => x.1)).Nodup
      ∧ ∀ x ∈ (s.results k z g f).map (fun x => (x.1, x.2.1)), x.1 < s.core.vec.n := by
  have hsub : ∀ l : List Nat, l.Nodup →
      (((l.filterMap (fun e => if s.act k e then some (e, f e) else if z && s.inact k e then some (e, 0, 0) else none)).map
        (fun x => (x.1, x.2.1))).map (fun x => x.1)).Nodup
      ∧ ∀ y ∈ ((l.filterMap (fun e => if s.act k e then some (e, f e) else if z && s.inact k e then some (e, 0, 0) else none)).map
        (fun x => (x.1, x.2.1))).map (fun x => x.1), y ∈ l := by
    intro l
    induction l with
    | nil => intro _; exact ⟨List.nodup_nil, fun y hy => absurd hy (by simp)⟩
    | cons a r ih =>
      intro hl
      have ih' := ih (List.nodup_cons.mp hl).2
      have ha := (List.nodup_cons.mp hl).1
      rw [List.filterMap_cons]
      by_cases h1 : s.act k a = true
      · simp only [h1, if_true, List.map_cons]
        exact ⟨List.nodup_cons.mpr ⟨fun h => ha (ih'.2 a h), ih'.1⟩, fun y hy => by
          rcases List.mem_cons.mp hy with h | h
          · rw [h]; exact List.mem_cons_self ..
          · exact List.mem_cons_of_mem _ (ih'.2 y h)⟩
      · have h1' : s.act k a = false := by simpa using h1
        simp only [h1', Bool.false_eq_true, if_false]
        by_cases h2 : (z && s.inact k a) = true
        · simp only [h2, if_true, List.map_cons]
          exact ⟨List.nodup_cons.mpr ⟨fun h => ha (ih'.2 a h), ih'.1⟩, fun y hy => by
            rcases List.mem_cons.mp hy with h | h
            · rw [h]; exact List.mem_cons_self ..
            · exact List.mem_cons_of_mem _ (ih'.2 y h)⟩
        · have h2' : (z && s.inact k a) = false := by simpa using h2
          simp only [h2', Bool.false_eq_true, if_false]
          exact ⟨ih'.1, fun y hy => List.mem_cons_of_mem _ (ih'.2 y hy)⟩
  have h := hsub (s.elems g) (List.nodup_range' ..)
  refine ⟨h.1, ?_⟩
  intro x hx
  have h1 := h.2 x.1 (List.mem_map.mpr ⟨x, hx, rfl⟩)
  unfold State.elems at h1
  rw [List.mem_range'_1] at h1
  omega

@[simp] theorem State.clearPix_vbits (s : State) (o : VOp) (e : Nat) : s.clearPix.vbits o e = s.vbits o e := rfl
@[simp] theorem State.clearPix_physReg (s : State) (j : Nat) : s.clearPix.physReg j = s.physReg j := rfl
@[simp] theorem State.flag_vbits (s : State) (f : Flags) (o : VOp) (e : Nat) : (s.flag f).vbits o e = s.vbits o e := rfl
@[simp] theorem State.flag_physReg (s : State) (f : Flags) (j : Nat) : (s.flag f).physReg j = s.physReg j := rfl

/-- What an element-wise form leaves in its destination (R185, R198, R402): from the group at which it starts, the result
of each active element, zero for inactive ones under zeroing, the old bits elsewhere. -/
theorem State.elementwise_vbits (s : State) (d : BitVec 5) (k : BitVec 3) (z : Bool) (f : Nat → Nat × Flags)
    (hn : s.core.vec.n ≤ (s.vop d).cap) {e : Nat} (he : e < (s.vop d).cap) :
    (s.elementwise d k z f).vbits (s.vop d) e =
      if 16 * s.startGroup clsV d ≤ e ∧ s.act k e = true then (f e).1 % 2 ^ (s.vop d).tag.width
      else if 16 * s.startGroup clsV d ≤ e ∧ z = true ∧ s.inact k e = true then 0 else s.vbits (s.vop d) e := by
  have hnd := s.results_nodup k z (s.startGroup clsV d) f
  unfold State.elementwise State.writeResults
  rw [State.flag_vbits, State.vbits_putElems _ (s.vop_ok d) _ hnd.1 (fun x hx => Nat.lt_of_lt_of_le (hnd.2 x hx) hn) he,
    State.results_find]
  split
  · rename_i x heq
    split at heq
    · rename_i h; rw [if_pos h]; cases heq; rfl
    · rename_i h
      split at heq
      · rename_i h2; rw [if_neg h, if_pos h2]; cases heq; exact Nat.zero_mod _
      · cases heq
  · rename_i heq
    split at heq
    · cases heq
    · rename_i h
      split at heq
      · cases heq
      · rename_i h2; rw [if_neg h, if_neg h2]; rfl

/-- Registers that an element-wise form does not write keep their contents. -/
theorem State.elementwise_physReg (s : State) (d : BitVec 5) (k : BitVec 3) (z : Bool) (f : Nat → Nat × Flags)
    (hn : s.core.vec.n ≤ (s.vop d).cap) {j : Nat} (hj : j < 32)
    (hout : j < (s.vop d).base ∨ (s.vop d).base + (s.vop d).regs ≤ j) : (s.elementwise d k z f).physReg j = s.physReg j := by
  have hnd := s.results_nodup k z (s.startGroup clsV d) f
  unfold State.elementwise State.writeResults
  rw [State.flag_physReg, State.physReg_putElems _ (s.vop_ok d) _ (fun x hx => Nat.lt_of_lt_of_le (hnd.2 x hx) hn) hj hout]
  rfl

/-- An element-wise form touches the vector registers, PIX and VSTAT alone. -/
theorem State.elementwise_onVec (s : State) (d : BitVec 5) (k : BitVec 3) (z : Bool) (f : Nat → Nat × Flags) :
    ∃ v p x, s.elementwise d k z f = s.onVec (fun c => { c with v := v, pix := p, vstat := x }) := by
  obtain ⟨v, hv⟩ := State.putElems_onVec s.clearPix (s.vop d)
    ((s.results k z (s.startGroup clsV d) f).map (fun x => (x.1, x.2.1)))
  unfold State.elementwise State.writeResults
  rw [hv]
  exact ⟨v, _, _, rfl⟩

end Sys2Proof.Machine
end

