-- ==== Sys2Proof/Tests/Slice0.lean ====
section
/-! SUPPORT. Tests: ill-formed terms that the checks refuse, words of the spec's encodings, single steps with results
worked out from the spec, and for every statement with hypotheses a state and operands that meet them. -/

open Sys2Proof Sys2Proof.Machine

namespace Sys2Proof.Tests

set_option Elab.async false

/-! ## Well-formed terms -/

/-- R49: zeroing without a mask. -/
theorem test_wf_zeroing : [Instr.vLds 4 9 12 0 true, .vLdx 4 9 12 0 true 0, .vLdb 4 9 0 true, .vLdff 4 9 12 0 true, .vLdc 4 9 0 true,
    .vLdq 4 8 0 true, .vAdd 4 5 6 0 true 2, .vMulh 4 5 6 0 true 0, .vAbs 4 5 0 true, .vAnd 4 5 6 0 true 0, .vNot 4 5 0 true, .vCeq 1 5 6 0 true 0,
    .vCvt 4 5 true 0 true, .vCvts 4 5 6 0 true 0, .vWacc 4 5 6 0 true 0, .vPerm 4 5 6 0 true 0, .vSlup 4 5 6 0 true, .vComp 4 5 0 true,
    .vCdet 4 5 0 true, .vIota 4 5 0 true, .vPsum 4 5 0 true, .vRng 4 5 6 0 true, .rotC 4 5 15 0 true, .gainC 4 15 0 true, .rotFold 4 5 0 true,
    .tlExt 4 1 6 0 true, .tlExtr 4 1 6 0 true].all (fun i => !i.wellFormed) = true := by decide +kernel

/-- R57: reserved tag, bfp, F too large or of a tag without one, reserved group code; R175: a group that is not aligned. -/
theorem test_wf_vcfg : [Instr.vcfg 8 0x13 0 0, .vcfg 8 0x12 0 0, .vcfg 8 8 16 0, .vcfg 8 0x0C 1 0, .vcfg 8 0x0C 0 3, .vcfg 2 0x0C 0 1,
    .vcfg 4 0x0C 0 2].all (fun i => !i.wellFormed) = true
  ∧ [Instr.vcfg 8 8 15 0, .vcfg 8 9 31 0, .vcfg 4 0x0C 0 1, .vcfg 8 0x0C 0 2].all Instr.wellFormed = true := by decide +kernel

/-- R57, R180: a tag that vsetvl does not take. -/
theorem test_wf_vsetvl : (Instr.vsetvl 1 2 18).wellFormed = false ∧ (Instr.vsetvl 1 2 17).wellFormed = true := by decide +kernel

/-- R56: k0 as a destination. -/
theorem test_wf_k0 : [Instr.vLdk 0 9, .vCeq 0 5 6 2 false 0, .vCne 0 5 6 2 false 0, .vClt 0 5 6 2 false 0, .vCle 0 5 6 2 false 0,
    .vCun 0 5 6 2 false 0, .vKand 0 1 2, .vKor 0 1 2, .vKxor 0 1 2, .vKandn 0 1 2, .rsvWave 0].all (fun i => !i.wellFormed) = true := by
  decide +kernel

/-- R209: a port that is no load-data queue. -/
theorem test_wf_vldq : [Instr.vLdq 4 7 2 true, .vLdq 4 12 2 true].all (fun i => !i.wellFormed) = true
  ∧ [Instr.vLdq 4 8 2 true, .vLdq 4 11 2 true].all Instr.wellFormed = true := by decide +kernel

/-- R56: an odd register where a pair is named. -/
theorem test_wf_pairs : [Instr.vRng 4 5 7 2 true, .vRngf 4 5 7 2 true, .rotC 5 9 15 2 true, .rotCg 5 9 15 2 true, .axisC 5 9 15 2 true,
    .axisCg 5 9 15 2 true, .gainC 5 15 2 true, .rotH 5 9 15 2 true, .rotHg 5 9 15 2 true, .axisH 5 9 15 2 true, .axisHg 5 9 15 2 true,
    .gainH 5 15 2 true, .rotL 5 9 15 2 true, .axisL 5 9 15 2 true, .rotFold 5 9 2 true, .rotUnfold 5 9 2 true, .mmDet 5 1 2,
    .plFuse 4 9 13 7].all (fun i => !i.wellFormed) = true := by decide +kernel

/-- R251: sizes outside 1 to 6. -/
theorem test_wf_mmshape : [Instr.mmShape 1 0 3, .mmShape 1 7 3, .mmShape 1 3 0, .mmShape 1 3 7].all (fun i => !i.wellFormed) = true
  ∧ [Instr.mmShape 1 1 6, .mmShape 1 6 1].all Instr.wellFormed = true := by decide +kernel

/-- R271 to R273: a g quad that is not aligned, reserved op codes, ports out of range. -/
theorem test_wf_tile : [Instr.tlLdp 3 9 13 0, .tlLdp 3 9 12 2, .tlStp 3 9 14, .tlBcast 3 9 3, .tlLdsc 3 9 12 4 0,
    .tlLdsc 3 9 12 0 8].all (fun i => !i.wellFormed) = true
  ∧ [Instr.tlLdp 3 9 12 1, .tlBcast 3 9 2, .tlLdsc 3 9 12 11 7].all Instr.wellFormed = true := by decide +kernel

/-- R143, R144: a g quad that is not aligned, transforms that a form does not have, ports that it does not have, d beside
a queue, a copy of a channel onto itself. -/
theorem test_wf_streams : [Instr.xsLd 4 9 13 0 3, .xsLd 4 9 12 0 8, .xsLd 4 9 12 0 11, .xsSt 4 9 12 1 3, .xsSt 0 9 12 0 8, .xsSt 0 9 12 0 11,
    .xsGth 4 9 12 4 3, .xsGth 4 9 12 1 3, .xsSct 4 9 12 1 3, .xsSct 0 9 12 0 9, .xsCp 4 3 12 0 3, .xsCp 4 3 12 1 4].all (fun i => !i.wellFormed) = true
  ∧ [Instr.xsLd 0 9 12 7 8, .xsLd 4 9 12 0 7, .xsLd 4 9 12 0 12, .xsSt 4 9 12 6 15, .xsCp 4 3 12 0 4].all Instr.wellFormed = true := by decide +kernel

/-- R286, R299: reserved op codes, ports that carry no channel, parameter numbers past 2. -/
theorem test_wf_posting_lists : [Instr.plDec 4 9 12 2 3, .plDec 4 9 12 0 8, .plIsect 4 9 12 2 3, .plUnite 4 9 12 0 8, .plBm25 4 9 12 8,
    .plTopk 4 9 12 8, .plFuse 4 9 12 8, .plPrm 4 3].all (fun i => !i.wellFormed) = true := by decide +kernel

/-- R314, R326, R410: a scale past 6, a scope past 5, a state register or an instance that is not assigned. -/
theorem test_wf_others : [Instr.rsvClaim 7 4 9 0, .fenceRel 6, .fenceAcq 6, .fenceAr 7, .sysRd 5 0 0x7F, .sysRd 5 1 0x42, .sysWr 1 5 0x42,
    .sysSet 0 5 0x50, .sysClr 16 5 0x20].all (fun i => !i.wellFormed) = true
  ∧ [Instr.rsvClaim 6 4 9 0, .fenceRel 5, .sysRd 5 15 0x20, .sysWr 2 5 0x10].all Instr.wellFormed = true := by decide +kernel

/-! ## Words -/

/-- The worked encodings of R54. -/
theorem test_decode_worked : [(0x82462918, Instr.vAdd 4 5 6 2 true 2), (0x001811CC, .ldD 7 2 0x18), (0x01880210, .vcfg 8 8 12 0),
    (0xFFE01F4E, .beq 3 0 0xFFFD), (0x0002004A, .jal 1 64)].all (fun p => decodeTableWord 32 p.1 == some p.2) = true := by decide +kernel

/-- Words that no form has (R61): the zero word, reserved majors and functions, fields that must be zero, the end of the
map. -/
theorem test_decode_rejects :
    [(0x00000000, 0x01), (0x00000017, 0x02), (0x0000003E, 0x02), (0x0000003F, 0x03), (0xFC000001, 0x04), (0x00200001, 0x05), (0x82002918, 0x05),
      (0x0803101A, 0x06)].all (fun p => (match decode (BitVec.ofNat 32 p.1) with | .ok _ => 0 | .error c => c.toNat) == p.2) = true := by decide +kernel

/-- Words of major01 written out from the fields of R48 to R60: majors 0x01. -/
theorem test_decode_major01 : [
    (0x000C4901, Instr.add 4 9 12), (0x040C4901, Instr.sub 4 9 12), (0x080C4901, Instr.and 4 9 12), (0x0C0C4901, Instr.or 4 9 12),
    (0x100C4901, Instr.xor 4 9 12), (0x140C4901, Instr.sll 4 9 12), (0x180C4901, Instr.srl 4 9 12), (0x1C0C4901, Instr.sra 4 9 12),
    (0x200C4901, Instr.slt 4 9 12), (0x240C4901, Instr.sltu 4 9 12), (0x280C4901, Instr.min 4 9 12), (0x2C0C4901, Instr.max 4 9 12),
    (0x300C4901, Instr.minu 4 9 12), (0x340C4901, Instr.maxu 4 9 12), (0x38004901, Instr.clz 4 9), (0x3C004901, Instr.popc 4 9),
    (0x400C4901, Instr.mul 4 9 12), (0x440C4901, Instr.mulh 4 9 12), (0x480C4901, Instr.mulhu 4 9 12), (0x4C0C4901, Instr.div 4 9 12),
    (0x500C4901, Instr.divu 4 9 12), (0x540C4901, Instr.rem 4 9 12), (0x580C4901, Instr.remu 4 9 12)
  ].all (fun p => decodeTableWord 32 p.1 == some p.2) = true := by decide +kernel

/-- Words of scalar written out from the fields of R48 to R60: majors 0x02, 0x03, 0x04, 0x05, 0x06, 0x07, 0x08, 0x09, 0x0A, 0x0B, 0x0C, 0x0D, 0x0E, 0x0F. -/
theorem test_decode_scalar : [
    (0x000C4902, Instr.ldxB 4 9 12), (0x040C4902, Instr.ldxBu 4 9 12), (0x080C4902, Instr.ldxH 4 9 12),
    (0x0C0C4902, Instr.ldxHu 4 9 12), (0x100C4902, Instr.ldxW 4 9 12), (0x140C4902, Instr.ldxWu 4 9 12),
    (0x180C4902, Instr.ldxD 4 9 12), (0x200C4902, Instr.stxB 4 9 12), (0x240C4902, Instr.stxH 4 9 12),
    (0x280C4902, Instr.stxW 4 9 12), (0x2C0C4902, Instr.stxD 4 9 12), (0x400C4842, Instr.blkCap 1 9 12),
    (0x440C4802, Instr.blkRun 9 12), (0x48000102, Instr.blkBrk 4), (0xA5C34903, Instr.addi 4 9 0xa5c3),
    (0xA5C34904, Instr.andi 4 9 0xa5c3), (0xA5C34905, Instr.ori 4 9 0xa5c3), (0xA5C34906, Instr.xori 4 9 0xa5c3),
    (0x002D4907, Instr.slli 4 9 45), (0x006D4907, Instr.srli 4 9 45), (0x00AD4907, Instr.srai 4 9 45),
    (0x91A52908, Instr.lui 4 0x1234a5), (0x91A52909, Instr.auipc 4 0x1234a5), (0x91A5290A, Instr.jal 4 0x1234a5),
    (0xA5C3490B, Instr.jalr 4 9 0xa5c3), (0xA5C3490C, Instr.ldD 4 9 0xa5c3), (0xA5C3490D, Instr.stD 4 9 0xa5c3),
    (0xA5CC48CE, Instr.beq 9 12 0xa5c3), (0xA5CC48CF, Instr.bne 9 12 0xa5c3)
  ].all (fun p => decodeTableWord 32 p.1 == some p.2) = true := by decide +kernel

/-- Words of vector setup written out from the fields of R48 to R60: majors 0x10, 0x11, 0x12. -/
theorem test_decode_vector_setup : [
    (0x080C0210, Instr.vcfg 8 12 0 2), (0x000C4911, Instr.vsetvl 4 9 12), (0x04004911, Instr.vprof 4 9), (0x08004911, Instr.vmfc 4 9),
    (0x0C004911, Instr.vlq 4 9), (0x100C4811, Instr.vspill 9 12), (0x140C0111, Instr.vfill 4 12), (0xA5C34912, Instr.vLd 4 9 0xa5c3)
  ].all (fun p => decodeTableWord 32 p.1 == some p.2) = true := by decide +kernel

/-- Words of vector memory written out from the fields of R48 to R60: majors 0x13, 0x14, 0x15, 0x16. -/
theorem test_decode_vector_memory : [
    (0xA5C34913, Instr.vSt 4 9 0xa5c3), (0x804C4914, Instr.vLds 4 9 12 2 true), (0x864C4914, Instr.vLdx 4 9 12 2 true 2),
    (0x88404914, Instr.vLdb 4 9 2 true), (0x0C0048D4, Instr.vLdk 3 9), (0x90404914, Instr.vLdq 4 9 2 true),
    (0x944C4914, Instr.vLdff 4 9 12 2 true), (0x004C4915, Instr.vSts 4 9 12 2), (0x064C4915, Instr.vStx 4 9 12 2 2),
    (0x080048D5, Instr.vStk 3 9), (0x0E4C4915, Instr.vSxadd 4 9 12 2 2), (0x124C4915, Instr.vSxmin 4 9 12 2 2),
    (0x164C4915, Instr.vSxmax 4 9 12 2 2), (0x000C4816, Instr.vPf 9 12), (0x84404916, Instr.vLdc 4 9 2 true),
    (0x08404916, Instr.vStc 4 9 2)
  ].all (fun p => decodeTableWord 32 p.1 == some p.2) = true := by decide +kernel

/-- Words of vector written out from the fields of R48 to R60: majors 0x18, 0x19, 0x1A, 0x1B, 0x1C, 0x1D, 0x1E, 0x1F. -/
theorem test_decode_vector : [
    (0x824C4918, Instr.vAdd 4 9 12 2 true 2), (0x864C4918, Instr.vSub 4 9 12 2 true 2), (0x8A4C4918, Instr.vMul 4 9 12 2 true 2),
    (0x8E4C4918, Instr.vMulh 4 9 12 2 true 2), (0x924C4918, Instr.vMadd 4 9 12 2 true 2), (0x964C4918, Instr.vMsub 4 9 12 2 true 2),
    (0x9A4C4918, Instr.vMin 4 9 12 2 true 2), (0x9E4C4918, Instr.vMax 4 9 12 2 true 2), (0xA0404918, Instr.vAbs 4 9 2 true),
    (0xA4404918, Instr.vNeg 4 9 2 true), (0xAA4C4918, Instr.vClamp 4 9 12 2 true 2), (0x824C4919, Instr.vAnd 4 9 12 2 true 2),
    (0x864C4919, Instr.vOr 4 9 12 2 true 2), (0x8A4C4919, Instr.vXor 4 9 12 2 true 2), (0x8C404919, Instr.vNot 4 9 2 true),
    (0x924C4919, Instr.vSll 4 9 12 2 true 2), (0x964C4919, Instr.vSrl 4 9 12 2 true 2), (0x9A4C4919, Instr.vSra 4 9 12 2 true 2),
    (0x824C48DA, Instr.vCeq 3 9 12 2 true 2), (0x864C48DA, Instr.vCne 3 9 12 2 true 2), (0x8A4C48DA, Instr.vClt 3 9 12 2 true 2),
    (0x8E4C48DA, Instr.vCle 3 9 12 2 true 2), (0x924C48DA, Instr.vCun 3 9 12 2 true 2), (0x8041491B, Instr.vCvt 4 9 true 2 true),
    (0x8441491B, Instr.vCvtz 4 9 true 2 true), (0x8841491B, Instr.vCvtp 4 9 true 2 true), (0x8C41491B, Instr.vCvtm 4 9 true 2 true),
    (0x924C491B, Instr.vCvts 4 9 12 2 true 2), (0x964C491B, Instr.vWacc 4 9 12 2 true 2), (0x824C491C, Instr.vPerm 4 9 12 2 true 2),
    (0x844C491C, Instr.vSlup 4 9 12 2 true), (0x884C491C, Instr.vSldn 4 9 12 2 true), (0x8C40491C, Instr.vComp 4 9 2 true),
    (0x9040491C, Instr.vExpd 4 9 2 true), (0x164C491C, Instr.vMrg 4 9 12 2 2), (0x8040491D, Instr.vCdet 4 9 2 true),
    (0x8440491D, Instr.vIota 4 9 2 true), (0x8840491D, Instr.vSplat 4 9 2 true), (0x0C0C491D, Instr.vExtr 4 9 12),
    (0x000628DE, Instr.vKand 3 5 6), (0x040628DE, Instr.vKor 3 5 6), (0x080628DE, Instr.vKxor 3 5 6),
    (0x0C0628DE, Instr.vKandn 3 5 6), (0x1000291E, Instr.vKpop 4 5), (0x1400291E, Instr.vKfirst 4 5), (0x0040491F, Instr.vRsum 4 9 2),
    (0x0440491F, Instr.vRmax 4 9 2), (0x0840491F, Instr.vRmin 4 9 2), (0x0C40491F, Instr.vRall 4 9 2),
    (0x1040491F, Instr.vRany 4 9 2), (0x1440491F, Instr.vRxor 4 9 2)
  ].all (fun p => decodeTableWord 32 p.1 == some p.2) = true := by decide +kernel

/-- Words of vector more written out from the fields of R48 to R60: majors 0x20, 0x21, 0x24, 0x25, 0x26, 0x27. -/
theorem test_decode_vector_more : [
    (0x80404920, Instr.vPsum 4 9 2 true), (0x84404920, Instr.vPmax 4 9 2 true), (0x88404920, Instr.vPmin 4 9 2 true),
    (0x804C4921, Instr.vRng 4 9 12 2 true), (0x844C4921, Instr.vRngf 4 9 12 2 true), (0x804C4924, Instr.rotC 4 9 12 2 true),
    (0x844C4924, Instr.rotCg 4 9 12 2 true), (0x884C4924, Instr.axisC 4 9 12 2 true), (0x8C4C4924, Instr.axisCg 4 9 12 2 true),
    (0x904C0124, Instr.gainC 4 12 2 true), (0x804C4925, Instr.rotH 4 9 12 2 true), (0x844C4925, Instr.rotHg 4 9 12 2 true),
    (0x884C4925, Instr.axisH 4 9 12 2 true), (0x8C4C4925, Instr.axisHg 4 9 12 2 true), (0x904C0125, Instr.gainH 4 12 2 true),
    (0x804C4926, Instr.rotL 4 9 12 2 true), (0x844C4926, Instr.axisL 4 9 12 2 true), (0x80404927, Instr.rotFold 4 9 2 true),
    (0x84404927, Instr.rotUnfold 4 9 2 true)
  ].all (fun p => decodeTableWord 32 p.1 == some p.2) = true := by decide +kernel

/-- Words of rotation written out from the fields of R48 to R60: majors 0x28, 0x29. -/
theorem test_decode_rotation : [
    (0x000530E8, Instr.mmShape 3 6 5), (0x044028E8, Instr.mmMov 3 5 2), (0x084C2928, Instr.mmExt 4 5 12 2),
    (0x0C4C48E8, Instr.mmIns 3 9 12 2), (0x004C48E9, Instr.mmLd 3 9 12 2), (0x044C48E9, Instr.mmSt 3 9 12 2)
  ].all (fun p => decodeTableWord 32 p.1 == some p.2) = true := by decide +kernel

/-- Words of small matrix written out from the fields of R48 to R60: majors 0x2A, 0x2B. -/
theorem test_decode_small_matrix : [
    (0x004628EA, Instr.mmMul 3 5 6 2), (0x044628EA, Instr.mmMadd 3 5 6 2), (0x084628EA, Instr.mmMsub 3 5 6 2),
    (0x0C4028EA, Instr.mmTrn 3 5 2), (0x004028EB, Instr.mmChol 3 5 2), (0x044028EB, Instr.mmLu 3 5 2),
    (0x084628EB, Instr.mmTrsl 3 5 6 2), (0x0C4628EB, Instr.mmTrsu 3 5 6 2), (0x104628EB, Instr.mmSolve 3 5 6 2),
    (0x1440292B, Instr.mmDet 4 5 2)
  ].all (fun p => decodeTableWord 32 p.1 == some p.2) = true := by decide +kernel

/-- Words of tile written out from the fields of R48 to R60: majors 0x2C, 0x2D, 0x2E, 0x2F. -/
theorem test_decode_tile : [
    (0x0000492C, Instr.tlShape 4 9), (0x040C4AEC, Instr.tlDesc 11 9 12), (0x080C482C, Instr.tlPrec 9 12),
    (0x0C00006C, Instr.tlZero 1), (0x100C092C, Instr.tlAcc 4 1 12), (0x002C4AED, Instr.tlLdp 11 9 12 1),
    (0x200C4AED, Instr.tlStp 11 9 12), (0x44004AED, Instr.tlBcast 11 9 2), (0x6D6C4AED, Instr.tlLdsc 11 9 12 11 6),
    (0x000D506E, Instr.tlMma 1 10 13), (0x040D506E, Instr.tlMmz 1 10 13), (0x080D506E, Instr.tlMms 1 10 13),
    (0x804C092F, Instr.tlExt 4 1 12 2 true), (0x844C092F, Instr.tlExtr 4 1 12 2 true)
  ].all (fun p => decodeTableWord 32 p.1 == some p.2) = true := by decide +kernel

/-- Words of stream written out from the fields of R48 to R60: majors 0x30, 0x31, 0x32. -/
theorem test_decode_stream : [
    (0x15AC4830, Instr.xsLd 0 9 12 13 10), (0x3ACC4930, Instr.xsSt 4 9 12 6 13), (0x4F4C4930, Instr.xsGth 4 9 12 10 7),
    (0x7B4C4930, Instr.xsSct 4 9 12 10 13), (0x8ECC2930, Instr.xsCp 4 5 12 6 7), (0x000C5031, Instr.xsWait 10 12),
    (0x04005131, Instr.xsCnt 4 10), (0x08002931, Instr.xsWm 4 5), (0x0C0C5031, Instr.xsRst 10 12), (0x10005131, Instr.xsCsum 4 10),
    (0x000C48F2, Instr.cbCfg 3 9 12), (0x040C2932, Instr.cbAcq 4 5 12), (0x080C2832, Instr.cbRel 5 12), (0x0C002932, Instr.cbStat 4 5)
  ].all (fun p => decodeTableWord 32 p.1 == some p.2) = true := by decide +kernel

/-- Words of posting list written out from the fields of R48 to R60: majors 0x34, 0x35. -/
theorem test_decode_posting_list : [
    (0x0E2C4934, Instr.plDec 4 9 12 1 7), (0x2E2C4934, Instr.plIsect 4 9 12 1 7), (0x4E2C4934, Instr.plUnite 4 9 12 1 7),
    (0x6E0C4934, Instr.plBm25 4 9 12 7), (0x8E0C4934, Instr.plFuse 4 9 12 7), (0xAE0C4934, Instr.plTopk 4 9 12 7),
    (0x00024835, Instr.plPrm 9 2), (0x040C4835, Instr.plQry 9 12), (0x08000035, Instr.plWait), (0x0C000135, Instr.plStat 4),
    (0x10004835, Instr.plClr 9), (0x14000035, Instr.plAbort)
  ].all (fun p => decodeTableWord 32 p.1 == some p.2) = true := by decide +kernel

/-- Words of reserving written out from the fields of R48 to R60: majors 0x36. -/
theorem test_decode_reserving : [
    (0x004C4836, Instr.rsvOpen 9 12 2), (0x044C49B6, Instr.rsvClaim 6 9 12 2), (0x080000F6, Instr.rsvWave 3),
    (0x0C400036, Instr.rsvRetire 2), (0x10000136, Instr.rsvStat 4), (0x14000036, Instr.rsvClose)
  ].all (fun p => decodeTableWord 32 p.1 == some p.2) = true := by decide +kernel

/-- Words of atomic and order written out from the fields of R48 to R60: majors 0x37, 0x38, 0x39. -/
theorem test_decode_atomic_and_order : [
    (0x000C4937, Instr.amoAdd 4 9 12), (0x040C4937, Instr.amoMin 4 9 12), (0x080C4937, Instr.amoMax 4 9 12),
    (0x0C0C4937, Instr.amoAnd 4 9 12), (0x100C4937, Instr.amoOr 4 9 12), (0x140C4937, Instr.amoXor 4 9 12),
    (0x180C4937, Instr.amoSwap 4 9 12), (0x1C0C4937, Instr.amoCas 4 9 12), (0x200C4937, Instr.amoFadd 4 9 12),
    (0x00004AF8, Instr.gbInit 11 9), (0x04005138, Instr.gbArr 4 10), (0x080C5038, Instr.gbWait 10 12), (0x0C050038, Instr.fenceRel 5),
    (0x10040038, Instr.fenceAcq 4), (0x14030038, Instr.fenceAr 3), (0x00000139, Instr.detStep 4), (0x04000139, Instr.detLog 4),
    (0x080C4939, Instr.claimEl 4 9 12)
  ].all (fun p => decodeTableWord 32 p.1 == some p.2) = true := by decide +kernel

/-- Words of task and vp written out from the fields of R48 to R60: majors 0x3A, 0x3B. -/
theorem test_decode_task_and_vp : [
    (0x000C483A, Instr.taskSpawn 9 12), (0x0400003A, Instr.taskExit), (0x0800493A, Instr.taskJoin 4 9),
    (0x0C0C483A, Instr.taskNotify 9 12), (0x0040483B, Instr.vpRun 9 2), (0x0440483B, Instr.vpBr 9 2), (0x0800003B, Instr.vpJoin),
    (0x0C40003B, Instr.vpStop 2), (0x1040013B, Instr.vpId 4 2), (0x1440013B, Instr.vpAny 4 2)
  ].all (fun p => decodeTableWord 32 p.1 == some p.2) = true := by decide +kernel

/-- Words of system written out from the fields of R48 to R60: majors 0x3C, 0x3D. -/
theorem test_decode_system : [
    (0x0100193C, Instr.sysRd 4 3 32), (0x050048FC, Instr.sysWr 3 9 32), (0x0A09483C, Instr.sysSet 0 9 73),
    (0x0F04483C, Instr.sysClr 0 9 100), (0x100D483C, Instr.sysCall 9 13), (0x1400003C, Instr.sysRet), (0x180D483C, Instr.sysBrk 9 13),
    (0x1C00003C, Instr.sysWfi), (0x0000003D, Instr.sysIfence), (0x040C483D, Instr.sysTinval 9 12), (0x0800003D, Instr.sysHalt),
    (0x0C00013D, Instr.sysId 4)
  ].all (fun p => decodeTableWord 32 p.1 == some p.2) = true := by decide +kernel

/-! ## Small states -/

/-- Core 0 at supervisor level, translation off, the dies running, nothing in memory. -/
def base : State :=
  { State.reset with core := { State.reset.core with run := .running }, dev := { Device.reset with dierst := 0 } }

/-- g registers of a list, the others 0. -/
def gs (l : List (Nat × Word)) : Vector Word 32 := Vector.ofFn (fun i => ((l.find? (fun x => x.1 == i.val)).map (fun x => x.2)).getD 0)

/-- The base state with g registers of a list, and a change of the core. -/
def st (l : List (Nat × Word)) (f : Core → Core := id) : State := base.onCore (fun c => f { c with g := gs l })

/-- A vector register of a tag with elements of a list. -/
def vreg (t : Tag) (l : List Nat) (f : BitVec 5 := 0) : VReg :=
  { VReg.reset with tag := t, frac := f, data := BitVec.ofNat 32768 (l.foldr (fun x a => x + 2 ^ t.width * a) 0) }

/-- VL.N, vector registers and masks of lists. -/
def vec (n : Nat) (l : List (Nat × VReg)) (m : List (BitVec 3 × Nat) := []) (c : Core) : Core :=
  { c with vec := { c.vec with
    vl := BitVec.ofNat 64 (0x30000 + n)
    v := Vector.ofFn (fun i => ((l.find? (fun x => x.1 == i.val)).map (fun x => x.2)).getD (c.vec.v[i.val]'i.isLt))
    k := m.foldl (fun k x => rset k x.1 (BitVec.ofNat 8192 x.2)) c.vec.k } }

/-- What a function reads in the next state. -/
def after {α : Type} (o : Out) (f : State → α) : Option α := match o with
  | .next t => some (f t)
  | _ => none

/-- The level of the core in focus. -/
def atLevel (pl : BitVec 2) (s : State) : State := s.onSys (fun r => { r with status := pl.setWidth 64 })

theorem okOf {α β : Type} {e : Except α β} {x : β} (h : e.toOption = some x) : e = .ok x := by
  cases e with
  | error _ => simp [Except.toOption] at h
  | ok y => simpa [Except.toOption] using h

theorem act_lt {s : State} {k : BitVec 3} {e : Nat} (h : s.act k e = true) : e < s.core.vec.n := by
  simp only [State.act, State.inPlay, Bool.and_eq_true, decide_eq_true_eq] at h
  exact h.1.1

/-- A fact about active elements from the elements below VL. -/
theorem forAct {s : State} {k : BitVec 3} {P : Nat → Prop} (h : ∀ e < s.core.vec.n, s.act k e = true → P e) :
    ∀ e, s.act k e = true → P e := fun e he => h e (act_lt he) he

/-- The failure of an access, if it fails. -/
def failure {α β : Type} (e : Except α β) : Option α := match e with
  | .ok _ => none
  | .error x => some x

/-! ## Scalar forms: results, and operands that meet the hypotheses -/

/-- Divisors 0, −1 and 3; −2^63. -/
def sDiv : State := st [(1, 0x8000000000000000), (2, 0xFFFFFFFFFFFFFFFF), (3, 3), (4, 0xFFFFFFFFFFFFFFF9)]

/-- R121. -/
theorem wit_scalarDivision : sDiv.g 0 = 0 ∧ ((sDiv.g 1).toInt = -2 ^ 63 ∧ (sDiv.g 2).toInt = -1)
    ∧ (sDiv.g 3 ≠ 0 ∧ ¬ ((sDiv.g 4).toInt = -2 ^ 63 ∧ (sDiv.g 3).toInt = -1)) := by decide +kernel

/-- −7 / 3 = −2 rest −1; −2^63 / −1 = −2^63; 3 / 0 is all ones (R121). -/
theorem test_div : after (exec (.div 5 4 3) sDiv) (fun t => t.g 5) = some 0xFFFFFFFFFFFFFFFE
    ∧ after (exec (.rem 5 4 3) sDiv) (fun t => t.g 5) = some 0xFFFFFFFFFFFFFFFF
    ∧ after (exec (.div 5 1 2) sDiv) (fun t => t.g 5) = some 0x8000000000000000
    ∧ after (exec (.divu 5 3 0) sDiv) (fun t => t.g 5) = some 0xFFFFFFFFFFFFFFFF := by decide +kernel

/-- −2^63 · −1 = 2^63, its upper word 0; unsigned, 2^127 − 2^63, its upper word 2^63 − 1; wraps, sign and order (R120). -/
theorem test_scalar : after (exec (.mulh 5 1 2) sDiv) (fun t => t.g 5) = some 0
    ∧ after (exec (.mulhu 5 1 2) sDiv) (fun t => t.g 5) = some 0x7FFFFFFFFFFFFFFF
    ∧ after (exec (.add 5 1 1) sDiv) (fun t => t.g 5) = some 0
    ∧ after (exec (.sub 5 0 3) sDiv) (fun t => t.g 5) = some 0xFFFFFFFFFFFFFFFD
    ∧ after (exec (.slt 5 1 3) sDiv) (fun t => t.g 5) = some 1 ∧ after (exec (.sltu 5 1 3) sDiv) (fun t => t.g 5) = some 0
    ∧ after (exec (.min 5 2 3) sDiv) (fun t => t.g 5) = some 0xFFFFFFFFFFFFFFFF ∧ after (exec (.minu 5 2 3) sDiv) (fun t => t.g 5) = some 3
    ∧ after (exec (.sra 5 1 3) sDiv) (fun t => t.g 5) = some 0xF000000000000000
    ∧ after (exec (.clz 5 3) sDiv) (fun t => t.g 5) = some 62 ∧ after (exec (.clz 5 0) sDiv) (fun t => t.g 5) = some 64
    ∧ after (exec (.popc 5 4) sDiv) (fun t => t.g 5) = some 62 := by decide +kernel

/-- Immediates: sign of addi, zero extension of xori, lui of −1 (R123 to R125). -/
theorem test_immediates : after (exec (.addi 5 3 0xFFFF) sDiv) (fun t => t.g 5) = some 2
    ∧ after (exec (.xori 5 3 0xFFFF) sDiv) (fun t => t.g 5) = some 0xFFFC
    ∧ after (exec (.lui 5 0x1FFFFF) sDiv) (fun t => t.g 5) = some 0xFFFFFFFFFFFF0000
    ∧ after (exec (.srai 5 1 63) sDiv) (fun t => t.g 5) = some 0xFFFFFFFFFFFFFFFF := by decide +kernel

/-- A form that names g0 as destination changes the pc alone (R122). -/
theorem test_g0 : after (exec (.addi 0 3 1) sDiv) (fun t => (t.g 0, t.core.g == sDiv.core.g, t.core.pc)) = some (0, true, 4) := by decide +kernel

/-- Targets at the limits of alignment. -/
def sJump : State := st [(1, 0x1000), (2, 0x1001)]

/-- R131. -/
theorem wit_branchesAndJumps : (sJump.g 1 + BitVec.ofInt 64 (0xFFFC : BitVec 16).toInt).toNat % 4 = 0
    ∧ (sJump.g 1 + BitVec.ofInt 64 (3 : BitVec 16).toInt).toNat % 4 ≠ 0 ∧ (sJump.g 2 + BitVec.ofInt 64 (0 : BitVec 16).toInt).toNat % 4 ≠ 0 := by
  decide +kernel

/-- jalr onto its own source; a branch backwards; a misaligned jalr traps with cause 0x0B (R130, R131). -/
theorem test_jumps : after (exec (.jalr 1 1 8) sJump) (fun t => (t.core.pc, t.g 1)) = some (0x1008, 4)
    ∧ after (exec (.beq 1 1 0xFFFF) sJump) (fun t => t.core.pc) = some 0xFFFFFFFFFFFFFFFC
    ∧ after (exec (.bne 1 1 0xFFFF) sJump) (fun t => t.core.pc) = some 4
    ∧ after (exec (.jalr 1 2 0) sJump) (fun t => (t.core.sys.cause, t.g 1)) = some (0x0B, 0x1000) := by decide +kernel

/-- Addresses of device memory's last word, of a scratchpad, of a hole, of control space and of another core's scratchpad. -/
def sMem : State :=
  { st [(1, 0xBFFFFFFFF8), (2, 0x210000000000), (3, 0xC000000000), (4, 0x300000005000), (5, 0x210000200000), (6, 0x0080000000000000), (8, 0x1234567890ABCDEF)]
    with mem := [(0xBFFFFFFFF8, 0x80), (0xBFFFFFFFF9, 0x7F)] }

/-- Control space is open at machine level alone: the firmware core of die 0. -/
def sFw : State := (sMem.onCore (fun c => { c with fw := true, sys := SysRegs.reset true }))

/-- A page with DT = 1 in the cache of the core, which is in deterministic mode: page 0x40000000, 64 KiB at 0x10000. -/
def sDt : State :=
  (sMem.onCore (fun c => { c with
    g := gs [(1, 0x40000010), (8, 0x1234567890ABCDEF)], tlb := [⟨0, 0, 4, 0x40000000, 0x005000000001000F⟩]
    vec := { c.vec with det := true } })).onCtx 0 (fun c => { c with atroot := 1 })

/-- R126: every load at the last word of device memory, and in a scratchpad. -/
theorem wit_scalarLoads :
    (∀ f ∈ Claims.scalarLoads sMem 9 1 0 0, (reach sMem sMem.core.cmds sMem.pl .sread f.2.2.1 f.2.1).toOption = some ⟨0xBFFFFFFFF8, none, none⟩)
    ∧ (∀ f ∈ Claims.scalarLoads sMem 9 2 0 0, (reach sMem sMem.core.cmds sMem.pl .sread f.2.2.1 f.2.1).toOption = some ⟨0x210000000000, none, none⟩)
    ∧ (⟨0xBFFFFFFFF8, none, none⟩ : Xl).plain = true := by decide +kernel

/-- The firmware core with an address in g1. -/
def sCtl (a : Word) : State := sFw.onCore (fun c => { c with g := gs [(1, a)] })

/-- R96, R126: every load of a control register, and of the checkpoint directory. -/
theorem wit_scalarLoads_elsewhere :
    (∀ f ∈ Claims.scalarLoads (sCtl 0x300000001000) 9 1 0 0, (reach (sCtl 0x300000001000) [] (sCtl 0).pl .sread f.2.2.1 f.2.1).toOption = some ⟨0x300000001000, none, none⟩)
    ∧ regionOf 0x300000001000 = .control ∧ ctlReg (0x300000001000 / 8 * 8) = some (.quadmap 0)
    ∧ (∀ f ∈ Claims.scalarLoads (sCtl 0x103E80000000) 9 1 0 0, (reach (sCtl 0x103E80000000) [] (sCtl 0).pl .sread f.2.2.1 f.2.1).toOption = some ⟨0x103E80000000, none, none⟩)
    ∧ regionOf 0x103E80000000 = .checkpoint ∧ (sCtl 0).ownByte 0x103E80000000 = none := by decide +kernel

/-- R126: every store. -/
theorem wit_scalarStores : sMem.memOk
    ∧ (∀ f ∈ Claims.scalarStores sMem 8 1 0 0, (reach sMem sMem.core.cmds sMem.pl .swrite f.2.2 f.2.1).toOption = some ⟨0xBFFFFFFFF8, none, none⟩)
    ∧ (⟨0xBFFFFFFFF8, none, none⟩ : Xl).plain = true := by unfold State.memOk; decide +kernel

/-- R338, R450: a store to a page with DT = 1, and to module control space. -/
theorem wit_storesElsewhere :
    (∀ f ∈ Claims.scalarStores sDt 8 1 0 0, (reach sDt sDt.core.cmds sDt.pl .swrite f.2.2 f.2.1).toOption = some ⟨0x10010, some 0x005000000001000F, none⟩)
    ∧ (⟨0x10010, some 0x005000000001000F, none⟩ : Xl).dt = true
    ∧ (∀ f ∈ Claims.scalarStores sFw 8 4 0 0, (reach sFw sFw.core.cmds sFw.pl .swrite f.2.2 f.2.1).toOption = some ⟨0x300000005000, none, none⟩)
    ∧ (⟨0x300000005000, none, none⟩ : Xl).dt = false ∧ regionOf 0x300000005000 = .control
    ∧ (reach sFw [] sFw.pl .swrite (0x300000001000 : Word) 8).toOption = some ⟨0x300000001000, none, none⟩
    ∧ ctlReg (0x300000001000 / 8 * 8) = some (.quadmap 0) ∧ CtlReg.quadmap 0 ≠ .dierst ∧ CtlReg.quadmap 0 ≠ .ckctl := by decide +kernel

/-- R127: each check of an access at its limit: an address that is not canonical, one that is not aligned, a hole, another
core's scratchpad. -/
theorem wit_accessChecks : canonical (sMem.g 6) = false ∧ canonical (sMem.g 6 + 0xFFFFFFFFFFFFFFFF) = true
    ∧ (sMem.g 1 + 7).toNat % 2 ≠ 0 ∧ (sMem.g 1 + 4).toNat % 8 ≠ 0
    ∧ failure (translate sMem sMem.pl .sread (sMem.g 3)) = some ⟨0x28, 0xC000000000, 1, 0xF, none, none⟩
    ∧ (translate sMem sMem.pl .swrite (sMem.g 5)).toOption = some ⟨0x210000200000, none, none⟩ ∧ sMem.foreignScratch 0x210000200000 = true := by
  decide +kernel

/-- Device memory's last word, the second tier's first and the host window's, with a frame of each quarantined or with bad data, or
the host link down. -/
def sEcc (quar bad : List Nat) (down : Bool) : State :=
  { st [(1, 0xBFFFFFFFF8), (2, 0x100000000000), (3, 0x8000000000000)] with
    dev := { base.dev with quarantine := quar, badBytes := bad, hostLinkDown := down } }

/-- R127: the checks of data: a quarantined frame, bad data that a load reads or a store of 4 bytes leaves in part, a host link that
is down. -/
theorem wit_accessChecks_data :
    (let s := sEcc [0xBFFFFF, 0x10000000, 0x800000000] [] false
     [(s.g 1, 0xBFFFFFFFF8), (s.g 2, 0x100000000000), (s.g 3, 0x8000000000000)].all (fun p =>
       canonical p.1 && p.1.toNat % 8 == 0 && (translate s s.pl .swrite p.1).toOption == some ⟨p.2, none, none⟩ && s.dev.quarantine.contains (p.2 / 65536)) = true
      ∧ s.core.cmds = [])
    ∧ (let s := sEcc [] [0xBFFFFFFFFF, 0x100000000007, 0x8000000000000] true
       [0xBFFFFFFFF8, 0x100000000000, 0x8000000000000].all (fun pa => s.dev.badBytes.any (fun y => y / 8 == pa / 8)) = true ∧ s.dev.quarantine = [])
    ∧ (let s := sEcc [] [] true
       s.dev.badBytes = [] ∧ s.dev.hostLinkDown = true ∧ regionOf 0x8000000000000 = .host)
    ∧ regionOf 0xBFFFFFFFF8 = .device ∧ regionOf 0x100000000000 = .tier ∧ (⟨0xBFFFFFFFF8, none, none⟩ : Xl).dt = false := by decide +kernel

/-- Causes 0xC4, 0xC1, 0xC2, 0xC3 and 0x2D; a store of 8 bytes over bad data goes through (R127). -/
theorem test_data_checks :
    after (exec (.ldD 9 1 0) (sEcc [0xBFFFFF] [0xBFFFFFFFFF] false)) (fun t => t.core.sys.cause) = some 0xC4
    ∧ after (exec (.ldD 9 1 0) (sEcc [] [0xBFFFFFFFFF] false)) (fun t => t.core.sys.cause) = some 0xC1
    ∧ after (exec (.stxW 9 2 0) (sEcc [] [0x100000000007] false)) (fun t => t.core.sys.cause) = some 0xC2
    ∧ after (exec (.ldD 9 3 0) (sEcc [] [0x8000000000000] true)) (fun t => t.core.sys.cause) = some 0xC3
    ∧ after (exec (.ldD 9 3 0) (sEcc [] [] true)) (fun t => t.core.sys.cause) = some 0x2D
    ∧ after (exec (.stD 9 1 0) (sEcc [] [0xBFFFFFFFFF] false)) (fun t => (t.core.pc, t.dev.badBytes)) = some (4, []) := by decide +kernel

/-- R103, R127: plain memory at both ends of its two ranges. -/
theorem wit_plainAccess : sMem.pl = plSup ∧ ((sMem.ctxAt sMem.ctxIx).atroot).getLsbD 0 = false ∧ sMem.core.cmds = [] ∧ sMem.core.tile.queue = []
    ∧ sMem.dev.badBytes = [] ∧ sMem.dev.quarantine = []
    ∧ [(0 : Word), 0xBFFFFFFFF8, 0x100000000000, 0x103E7FFFFFF8].all (fun va => decide
        ((va.toNat < 0x00C000000000 ∨ (0x100000000000 ≤ va.toNat ∧ va.toNat < 0x103E80000000)) ∧ va.toNat % 8 = 0)) = true := by decide +kernel

/-- ldx.h of bytes 80 7F is 0x7F80, ldx.b of 80 is −128, ldx.bu is 128; a store of 4 bytes; a read of a hole (R126, R127). -/
theorem test_memory : after (exec (.ldxH 9 1 0) sMem) (fun t => t.g 9) = some 0x7F80
    ∧ after (exec (.ldxB 9 1 0) sMem) (fun t => t.g 9) = some 0xFFFFFFFFFFFFFF80 ∧ after (exec (.ldxBu 9 1 0) sMem) (fun t => t.g 9) = some 0x80
    ∧ after (exec (.stxW 8 1 0) sMem) (fun t => t.mem) = some [(0xBFFFFFFFF8, 0xEF), (0xBFFFFFFFF9, 0xCD), (0xBFFFFFFFFA, 0xAB), (0xBFFFFFFFFB, 0x90)]
    ∧ after (exec (.ldD 9 3 0) sMem) (fun t => (t.core.sys.cause, t.core.sys.tval, t.core.sys.epc)) = some (0x28, 0xC000000000, 0) := by
  decide +kernel

/-- Two words at 0x1000 (addi g1, g1, 1 and the zero word), and the block buffer empty, suspended, and holding two words. -/
def sBlk (blk : Word) : State :=
  { st [(1, 0x1000), (2, 3)] (fun c => { c with blk := { c.blk with blk := blk } }) with
    mem := [(0x1000, 0x44), (0x1001, 0x08), (0x1002, 0x01)] }

/-- R134 to R136: a suspended run, an empty buffer, a count of 0, a new run in either mode. -/
theorem wit_blockBuffer : (sBlk 0x2001).core.blk.blk.getLsbD 0 = true
    ∧ ((sBlk 0).core.blk.blk.getLsbD 0 = false ∧ blkN (sBlk 0).core.blk.blk = 0)
    ∧ ((sBlk 0x2000).core.blk.blk.getLsbD 0 = false ∧ blkN (sBlk 0x2000).core.blk.blk = 2 ∧ ((sBlk 0x2000).g 0).setWidth 32 = (0 : BitVec 32)
        ∧ ((sBlk 0x2000).g 2).setWidth 32 ≠ (0 : BitVec 32))
    ∧ (sBlk 0x2000).core.blk.blk.getLsbD 1 = false ∧ (sBlk 0x2002).core.blk.blk.getLsbD 1 = true := by decide +kernel

/-- The empty buffer, and after one word. -/
def blkUs (i : Nat) : State := match i with
  | 0 => { sBlk 0x2000 with core := { (sBlk 0x2000).core with blk := { (sBlk 0x2000).core.blk with blk := (sBlk 0x2000).core.blk.blk &&& 0xFFFFFFFFFFFC0FFE } } }
  | _ => (blkUs0).putBody 0 0x00010844
where blkUs0 : State := { sBlk 0x2000 with core := { (sBlk 0x2000).core with blk := { (sBlk 0x2000).core.blk with blk := (sBlk 0x2000).core.blk.blk &&& 0xFFFFFFFFFFFC0FFE } } }

/-- R134: one word that may stand in a body, and one that may not. -/
theorem wit_blockCapture :
    fetchWord (blkUs 0) 0x1000 = .ok (0x00010844, blkUs 0) ∧ bodyWordBad plSup 0x00010844 = false ∧ blkUs 1 = (blkUs 0).putBody 0 0x00010844
    ∧ fetchWord (blkUs 1) 0x1004 = .ok (0, blkUs 1) ∧ bodyWordBad plSup 0 = true := by
  refine ⟨rfl, by decide +kernel, rfl, rfl, by decide +kernel⟩


/-- Counts past 0, an empty count on a body of two words, in either mode (R135, R192). -/
theorem wit_blockBuffer_counts : ((sBlk 0).core.blk.blk.getLsbD 0 = false ∧ blkN (sBlk 0).core.blk.blk = 0)
    ∧ (blkN (sBlk 0x2002).core.blk.blk ≠ 0 ∧ ((sBlk 0x2002).g 2).setWidth 32 ≠ (0 : BitVec 32) ∧ (sBlk 0x2002).core.blk.blk.getLsbD 1 = true) := by
  decide +kernel

/-- A run of two words stands at word `pos`, exit register 1, in a mode; REM and ITER. -/
def sRun (live : Bool) (pos rem : Nat) (g1 : Word) (loop : Bool) : State :=
  st [(1, g1)] (fun c => { c with
    pc := 0x400
    blk := { c.blk with
      live := live, blk := 0x2005 ||| BitVec.ofNat 64 (pos * 128) ||| (if loop then 2 else 0), blkcnt := BitVec.ofNat 64 (rem * 2 ^ 32 + 5) }
    vec := { c.vec with lrot := 15, k := (c.vec.k.set 4 7).set 5 9 } })

/-- R131, R135, R192: no run; within the body; its end with no iteration left, with an exit register that holds 0, and neither, in
either mode. -/
theorem wit_nextWord :
    ((sRun false 0 3 1 false).core.vp.live = false ∧ (sRun false 0 3 1 false).core.blk.live = false)
    ∧ ((sRun true 0 3 1 false).core.blk.live = true ∧ ((sRun true 0 3 1 false).core.blk.blk.extractLsb' 7 5).toNat + 1 ≠ ((sRun true 0 3 1 false).core.blk.blk.extractLsb' 12 6).toNat)
    ∧ [sRun true 1 0 1 false, sRun true 1 3 0 true, sRun true 1 3 1 true, sRun true 1 3 1 false].all (fun s =>
        s.core.blk.live && (s.core.blk.blk.extractLsb' 7 5).toNat + 1 == (s.core.blk.blk.extractLsb' 12 6).toNat && s.core.blk.blk.extractLsb' 2 5 == 1#5) = true
    ∧ (sRun true 1 0 1 false).core.blk.blkcnt.extractLsb' 32 32 = 0#32 ∧ (sRun true 1 3 0 true).g 1 = 0
    ∧ ((sRun true 1 3 1 true).core.blk.blkcnt.extractLsb' 32 32 ≠ 0#32 ∧ (sRun true 1 3 1 true).g 1 ≠ 0 ∧ (sRun true 1 3 1 true).core.blk.blk.getLsbD 1 = true)
    ∧ (sRun true 1 3 1 false).core.blk.blk.getLsbD 1 = false := by decide +kernel

/-- The pc, BLK, BLKCNT, LROT, k4 and k5 behind a word (R131, R135, R192): REM 3, then 2, fills the stage predicate of the first
stage with 0. -/
theorem test_nextWord : let r (s : State) := (s.next.core.pc, s.next.core.blk.blk, s.next.core.blk.blkcnt, s.next.core.vec.lrot)
    r (sRun false 0 3 1 false) = (0x404, 0x2005, 0x300000005, 15) ∧ r (sRun true 0 3 1 false) = (0x400, 0x2085, 0x300000005, 15)
    ∧ r (sRun true 1 0 1 false) = (0x404, 0x2004, 6, 15) ∧ r (sRun true 1 3 0 true) = (0x404, 0x2006, 0x300000006, 0)
    ∧ r (sRun true 1 3 1 true) = (0x400, 0x2007, 0x200000006, 0)
    ∧ rget (sRun true 1 3 1 true).next.core.vec.k (4 : BitVec 3) = 0 ∧ rget (sRun true 1 3 1 true).next.core.vec.k (5 : BitVec 3) = 7
    ∧ rget (sRun true 1 4 1 true).next.core.vec.k (4 : BitVec 3) = BitVec.allOnes 8192 := by decide +kernel

/-- Bytes of a word at an address that are not 0. -/
def cells (a : Nat) (w : Nat) : List (Nat × Byte) :=
  ((List.range 8).map (fun i => (a + i, BitVec.ofNat 8 (w / 256 ^ i)))).filter (fun p => p.2 != 0)

/-- The worked walk of R104, at user level, its last entry given, with a cache entry or none. -/
def sWalk (leaf : Nat) (root : Word := 0x0050000001000001) (tlb : List TlbEntry := []) : State :=
  let s := atLevel plUser { st [] (fun c => { c with tlb := tlb }) with
    mem := cells 0x1000090 0x1001001 ++ cells 0x1001340 0x1002001 ++ cells 0x1002AC8 0x1003001 ++ cells 0x1003E20 leaf }
  s.onCtx 0 (fun c => { c with atroot := root })

/-- Its address, tables and entries. -/
def wkVa : Word := 0x00123456789ABCDE
def wkT (i : Nat) : Nat := [0x1000000, 0x1001000, 0x1002000, 0x1003000].getD i 0
def wkE (leaf : Word) (i : Nat) : Word := [0x1001001, 0x1002001, 0x1003001, leaf].getD i 0

/-- R99 to R103: an address that is not canonical; translation off for a listed address and one that is not, on each level; EN = 0 at
user level; a table outside storage. -/
theorem wit_translation_off : (0x0080000000000000 : Word).getLsbD 56 ≠ (0x0080000000000000 : Word).getLsbD 55
    ∧ [wkVa, 0xBFFFFFFFFF, 0xC000000000, 0x300000000000].all (fun va => (List.range 8).all (fun i => va.getLsbD (56 + i) == va.getLsbD 55)) = true
    ∧ (Claims.openRanges.any (fun r => decide (r.1 ≤ 0xBFFFFFFFFF ∧ 0xBFFFFFFFFF < r.2)) && !Claims.openRanges.any (fun r => decide (r.1 ≤ 0xC000000000 ∧ 0xC000000000 < r.2))) = true
    ∧ (0x300000000000 : Word).extractLsb' 52 12 = 0#12 ∧ (0xFF80000000000000 : Word).extractLsb' 52 12 ≠ 0#12
    ∧ (((sWalk 0 0).ctxAt (sWalk 0 0).ctxIx).atroot).getLsbD 0 = false
    ∧ (let r : Word := ((sWalk 0 0xC000001).ctxAt 0).atroot
       r.getLsbD 0 = true ∧ Claims.tableStorage ((r.extractLsb' 12 40).toNat * 4096) = true)
    ∧ (let r : Word := ((sWalk 0 0xC000000001).ctxAt 0).atroot
       r.getLsbD 0 = true ∧ ¬ Claims.tableStorage ((r.extractLsb' 12 40).toNat * 4096) = true) := by decide +kernel

/-- R101 to R103, R109: the worked walk with a good leaf, an invalid entry and a leaf that may not be read; a cached page. -/
theorem wit_translation : [(0x001000567860000F : Word), 0, 0x0010005678600011].all (fun leaf =>
      let s := sWalk leaf.toNat
      (List.range 4).all (fun l => wkE leaf l == s.peek64 (wkT l + 8 * (wkVa.toNat % 2 ^ 56 / 2 ^ Claims.pageBits l % Claims.tableEntries l)))) = true
    ∧ (List.range 3).all (fun l => Claims.entryCause l (wkE 0 l) == none && !(wkE 0 l).getLsbD 1 && wkT (l + 1) == Claims.entryAddr (wkE 0 l)) = true
    ∧ wkT 0 = 0x1000 * 4096 := by decide +kernel

/-- No cache holds the page, and nothing is in error; the checks of the last entry and of the leaf; a cached page. -/
theorem wit_translation_leaf : (let s := sWalk 0
      s.core.pins ++ s.core.tlb ++ (s.clAt (clusterOf s.core.id)).tlb = [] ∧ s.dev.badBytes = [] ∧ s.dev.quarantine = [])
    ∧ Claims.entryCause 3 (wkE 0x001000567860000F 3) = none ∧ (wkE 0x001000567860000F 3).getLsbD 1 = true
    ∧ Claims.entryCause 3 0 = some 0x21 ∧ Claims.leafCause 0x001000567860000F plUser .sread = none ∧ Claims.leafCause 0x001000567860000F plUser .fetch = some 0x24
    ∧ (let x : TlbEntry := ⟨0, 5, 3, 0x12345678800000, 0x001000567860000F⟩
       let s := sWalk 0 0x0050000001000001 [x]
       s.core.tlb = [x] ∧ x.part = s.ctxIx ∧ x.asid = 5
        ∧ x.vbase = wkVa.toNat % 2 ^ 56 / 2 ^ Claims.pageBits 3 * 2 ^ Claims.pageBits 3) := by decide +kernel

/-- The address that R104 works out, by the walk and from the cache; a fetch takes 0x24, an invalid entry 0x21, both at level 3. -/
theorem test_translation :
    ((translate (sWalk 0x001000567860000F) plUser .sread wkVa).toOption.map Xl.pa) = some 0x0056787ABCDE
    ∧ ((translate (sWalk 0 0x0050000001000001 [⟨0, 5, 3, 0x12345678800000, 0x001000567860000F⟩]) plUser .sread wkVa).toOption.map Xl.pa) = some 0x0056787ABCDE
    ∧ ((failure (translate (sWalk 0x001000567860000F) plUser .fetch wkVa)).map (fun m => (m.cause, m.level))) = some (0x24, 3)
    ∧ ((failure (translate (sWalk 0) plUser .sread wkVa)).map (fun m => (m.cause, m.level))) = some (0x21, 3)
    ∧ ((failure (translate (sWalk 0 0xC000000001) plUser .sread wkVa)).map (fun m => (m.cause, m.level))) = some (0x27, 0) := by decide +kernel

/-- R108: an access with a walk and one without. -/
theorem wit_translationCaches : (⟨0, none, none⟩ : Xl).entry = none ∧ (⟨0, none, some ⟨0, 5, 3, 0, 0⟩⟩ : Xl).entry = some ⟨0, 5, 3, 0, 0⟩ ∧ base.dev.softBytes = [] := by
  decide +kernel

/-! ## Vector forms -/

/-- v1, v2 and v3 of one tag with two elements each; k1 holds element 0; VL of n; some g registers. -/
def sV (n : Nat) (t : Tag) (x y z : List Nat) (f : BitVec 5 := 0) : State :=
  st [(1, 1), (2, 0xFFFFFFFFFFFFFFFF), (4, 0x123456789ABCDEF0), (5, 0xFEDCBA9876543210)]
    (vec n [(1, vreg t x f), (2, vreg t y f), (3, vreg t z f)] [(1, 1), (2, 3), (3, 2)])

/-- R199 to R201, R211: three registers of one tag, VL at their capacity. -/
theorem wit_vectorArithmetic :
    (let s := sV 1024 .i32 [5] [7] [0]
     Claims.sameType s 3 1 ∧ Claims.fits s 3 ∧ Claims.fits s 1 ∧ Claims.sameType s 2 1 ∧ Claims.fits s 2
      ∧ Claims.arithTag (s.vop 1).tag ∧ Claims.linearTag (s.vop 1).tag ∧ (s.vop 1).tag.isInt = true)
    ∧ (let s := sV 2048 .f16 [5] [7] [0]
       Claims.sameType s 3 1 ∧ Claims.fits s 3 ∧ Claims.fits s 1 ∧ Claims.linearTag (s.vop 1).tag ∧ Claims.arithTag (s.vop 1).tag) := by
  simp only [Claims.sameType, Claims.fits, Claims.linearTag, Claims.arithTag]
  decide +kernel

/-- R72, R211: integers, fx and ang, an active element below VL. -/
theorem wit_vectorIntegerResults :
    (let s := sV 2 .i8 [0x7F, 1] [1, 0x80] [0, 0]
     Claims.sameType s 3 1 ∧ Claims.sameType s 2 1 ∧ Claims.fits s 3 ∧ Claims.fits s 1 ∧ Claims.fits s 2 ∧ s.act 2 1 = true
      ∧ 16 * s.startGroup clsV 3 ≤ 1 ∧ (s.vop 1).tag.isInt = true ∧ (s.vop 1).frac = 0)
    ∧ (let s := sV 2 .fx16 [0x7FFF, 1] [1, 0x8000] [0, 0] 15
       Claims.sameType s 3 1 ∧ Claims.sameType s 2 1 ∧ Claims.fits s 3 ∧ s.act 0 0 = true ∧ (s.vop 1).tag.isFx = true)
    ∧ (let s := sV 2 .ang16 [0xFFFF, 1] [1, 0x8000] [0, 0]
       Claims.sameType s 3 1 ∧ Claims.sameType s 2 1 ∧ Claims.fits s 3 ∧ s.act 0 1 = true ∧ (s.vop 1).tag.isAng = true) := by
  simp only [Claims.sameType, Claims.fits]
  decide +kernel

/-- i8: 127 + 1 saturates to 127 with SAT; −128 − … ; n8: 200 + 100 = 255; ang16 wraps; f16: 1.5 · 2 = 3 (R72, R211). -/
theorem test_vector_arithmetic :
    after (exec (.vAdd 3 1 2 0 false 0) (sV 2 .i8 [0x7F, 1] [1, 0x80] [0, 0])) (fun t => (t.vbits (t.vop 3) 0, t.vbits (t.vop 3) 1, t.core.vec.vstat))
      = some (0x7F, 0x81, 1)
    ∧ after (exec (.vAdd 3 1 2 0 false 0) (sV 1 .n8 [200] [100] [0])) (fun t => (t.vbits (t.vop 3) 0, t.core.vec.vstat)) = some (255, 1)
    ∧ after (exec (.vAdd 3 1 2 0 false 0) (sV 1 .ang16 [0xFFFF] [2] [0])) (fun t => (t.vbits (t.vop 3) 0, t.core.vec.vstat)) = some (1, 0)
    ∧ after (exec (.vMul 3 1 2 0 false 0) (sV 1 .f16 [0x3E00] [0x4000] [0])) (fun t => t.vbits (t.vop 3) 0) = some 0x4200
    ∧ after (exec (.vMadd 3 1 2 0 false 0) (sV 1 .i32 [3] [4] [5])) (fun t => t.vbits (t.vop 3) 0) = some 17
    ∧ after (exec (.vMulh 3 1 2 0 false 0) (sV 1 .i8 [0x80] [0x80] [0])) (fun t => t.vbits (t.vop 3) 0) = some 0x40 := by decide +kernel

/-- Merging keeps and zeroing clears an inactive element; elements past VL stay (R198). -/
theorem test_vector_masks :
    after (exec (.vAdd 3 1 2 1 false 0) (sV 2 .i8 [1, 1] [2, 2] [9, 9, 9])) (fun t => [0, 1, 2].map (t.vbits (t.vop 3))) = some [3, 9, 9]
    ∧ after (exec (.vAdd 3 1 2 1 true 0) (sV 2 .i8 [1, 1] [2, 2] [9, 9, 9])) (fun t => [0, 1, 2].map (t.vbits (t.vop 3))) = some [3, 0, 9]
    ∧ after (exec (.vSub 1 1 2 0 false 1) (sV 2 .i8 [7, 8] [2, 5] [0])) (fun t => [0, 1].map (t.vbits (t.vop 1))) = some [5, 6] := by
  decide +kernel

/-- R76, R80: the largest finite value of e4m3, its NaN, and the smallest of f32. -/
theorem wit_floatingFormats : (∃ f, Tag.e4m3.float = some f ∧ 0x7E < 2 ^ Tag.e4m3.width ∧ f.widen 0x7E ≠ .nan)
    ∧ (∃ f, Tag.f32.float = some f ∧ 1 < 2 ^ Tag.f32.width ∧ f.widen 1 ≠ .nan) := by
  refine ⟨⟨_, rfl, ?_, ?_⟩, ⟨_, rfl, ?_, ?_⟩⟩ <;> decide +kernel

/-- R212: an integer type, and a floating one for the forms that take every tag. -/
theorem wit_vectorLogic :
    (let s := sV 4096 .n8 [0xF0] [9] [0]
     Claims.sameType s 3 1 ∧ Claims.fits s 3 ∧ Claims.fits s 1 ∧ (s.vop 1).tag ≠ .e2m1x ∧ Claims.sameType s 2 1 ∧ Claims.fits s 2
      ∧ (s.vop 1).tag.isFloat = false)
    ∧ (let s := sV 1 .f32 [1] [2] [3]
       Claims.sameType s 3 1 ∧ Claims.fits s 3 ∧ Claims.fits s 1 ∧ (s.vop 1).tag ≠ .e2m1x ∧ Claims.sameType s 2 1 ∧ Claims.fits s 2) := by
  simp only [Claims.sameType, Claims.fits]
  decide +kernel

/-- A count of 9 on 8 bits is 1; v.sra keeps the sign (R212). -/
theorem test_vector_logic : after (exec (.vSll 3 1 2 0 false 0) (sV 1 .n8 [0xF1] [9] [0])) (fun t => t.vbits (t.vop 3) 0) = some 0xE2
    ∧ after (exec (.vSra 3 1 2 0 false 0) (sV 1 .i8 [0x80] [1] [0])) (fun t => t.vbits (t.vop 3) 0) = some 0xC0
    ∧ after (exec (.vNot 3 1 0 false) (sV 1 .n8 [0xF1] [9] [0])) (fun t => t.vbits (t.vop 3) 0) = some 0x0E := by decide +kernel

/-- R213. -/
theorem wit_vectorCompares : let s := sV 2 .f32 [0x80000000, 0x7FC00000] [0, 0] [0]
    (4 : BitVec 3) ≠ 0 ∧ (s.vop 1).tag ≠ .e2m1x ∧ Claims.sameType s 2 1 ∧ Claims.fits s 1 ∧ Claims.fits s 2 := by
  simp only [Claims.sameType, Claims.fits]
  decide +kernel

/-- −0 equals +0; a NaN is unequal and unordered (R213). -/
theorem test_vector_compares :
    after (exec (.vCeq 4 1 2 0 false 0) (sV 2 .f32 [0x80000000, 0x7FC00000] [0, 0] [0])) (fun t => (t.kreg 4).toNat) = some 1
    ∧ after (exec (.vCne 4 1 2 0 false 0) (sV 2 .f32 [0x80000000, 0x7FC00000] [0, 0] [0])) (fun t => (t.kreg 4).toNat) = some 2
    ∧ after (exec (.vCun 4 1 2 0 false 0) (sV 2 .f32 [0x80000000, 0x7FC00000] [0, 0] [0])) (fun t => (t.kreg 4).toNat) = some 2
    ∧ after (exec (.vClt 4 1 2 0 false 0) (sV 2 .i8 [0xFF, 1] [0, 0] [0])) (fun t => (t.kreg 4).toNat) = some 1
    ∧ after (exec (.vClt 4 1 2 0 false 0) (sV 2 .n8 [0xFF, 1] [0, 0] [0])) (fun t => (t.kreg 4).toNat) = some 0 := by decide +kernel

/-- A source of one tag, a destination of another, an n32 register, and an f32 group of g registers from v8. -/
def sCvt (n : Nat) (ta tb td : Tag) (g : BitVec 2) : State :=
  st [] (fun c => vec n [(1, vreg ta [0x42]), (2, vreg tb [0x38, 7])] [(2, 3)]
    (vec n ((List.range 8).map (fun i => (8 + i, { vreg td [] with grp := g }))) [] c))

/-- R214, R215. -/
theorem wit_vectorConversions :
    (let s := sCvt 2 .f32 .n32 .i8 0
     Claims.fits s 8 ∧ Claims.fits s 1 ∧ (s.vop 8).tag ≠ .e2m1x ∧ Claims.fits s 2 ∧ (s.vop 2).tag = .n32)
    ∧ (let s := sCvt 2 .e4m3 .e5m2 .f32 1
       Claims.fits s 8 ∧ Claims.fits s 1 ∧ Claims.fits s 2 ∧ (s.vop 1).tag = .e4m3 ∧ (s.vop 2).tag = .e5m2 ∧ (s.vop 8).regs = 4)
    ∧ (let s := sCvt 2 .e2m1x .e2m1x .f32 2
       Claims.fits s 8 ∧ Claims.fits s 1 ∧ Claims.fits s 2 ∧ (s.vop 1).tag = .e2m1x ∧ (s.vop 2).tag = .e2m1x ∧ (s.vop 8).regs = 8) := by
  simp only [Claims.fits]
  decide +kernel

/-- R83, R85: bytes of a block that pass, and that fail either check or both. -/
theorem wit_blockValues : ((31 : Byte).toNat < 32 ∧ (0xFE : Byte) ≠ 0xFF) ∧ 32 ≤ (0x20 : Byte).toNat ∧ ((5 : Byte).toNat < 32 ∧ (0xFF : Byte) = 0xFF) := by decide +kernel

/-- R86: members among which none counts, and members of which −7 is the first of greatest magnitude, behind a NaN. -/
theorem wit_blockEncoding : (∀ q ∈ [(0, XVal.nan, (0 : BitVec 32)), (1, .negZero, 0)], q.2.1.special = true ∨ q.2.1.isZero = true)
    ∧ (let A := (XVal.fin (-7) 0).abs
       (∀ q ∈ [(0, XVal.nan, (0 : BitVec 32)), (1, .fin 1 0, 0)], q.2.1.special = true ∨ q.2.1.abs.lt A = true)
        ∧ (∀ q ∈ [(3, XVal.fin 7 0, (0 : BitVec 32)), (4, .inf false, 0)], q.2.1.special = true ∨ A.lt q.2.1.abs = false)
        ∧ A.lt (.fin 1 2) = false ∧ A.lt (.fin 1 3) = true ∧ Claims.nearest (-7) (0 - max (-127) (min 127 (2 - 2)) + 1) (-14)) := by
  unfold Claims.nearest
  decide +kernel

/-- 1.0, −3.0 and 7.0: s = 0 and X = 7.0, so that b is 127, x8 14, and 7.0 takes the extra code; 5.0 lies between 4.0 and 6.0, and
the tie goes to 4.0, whose code is even (R83, R86). -/
theorem test_blocks : toE2m1x ctlRne [(0, .fin 1 0, 0), (1, .fin (-3) 0, 0), (2, .fin 7 0, 0)] = ⟨[(0, 2), (1, 13), (2, 8)], 0x7F, 0x0E, 0⟩
    ∧ (toE2m1x ctlRne [(0, .fin 5 0, 0), (1, .fin 7 0, 0), (2, .nan, 0)]).codes = [(0, 6), (1, 8), (2, 0)]
    ∧ (toE2m1x ctlRne [(2, .nan, 0)]) = ⟨[(2, 0)], 0, 0, flagInv⟩ ∧ widenE2m1 8 0x7F 0x0E = .fin 14 (-1) ∧ blockCause 0xFF 0x20 = some 0x40 := by decide +kernel

/-- R214: an e2m1x destination whose block a form writes, and one that stands at the block's second group. -/
theorem wit_vectorConversions_blocks : (let s := sCvt 2 .f32 .n32 .e2m1x 0
      Claims.fits s 8 ∧ Claims.fits s 1 ∧ (s.vop 8).tag = .e2m1x ∧ Claims.fits s 2 ∧ (s.vop 2).tag = .n32 ∧ s.startGroup clsV 8 = 0) := by
  simp only [Claims.fits]
  decide +kernel

/-- 2.5 to an integer: to even, toward zero, up, down (R73, R214); 300.0 to i8 saturates and sets SAT. -/
theorem test_vector_conversions :
    (let s := sV 1 .f32 [0x40200000] [] []
     let s := s.onVec (fun v => { v with v := rset v.v (3 : BitVec 5) (vreg .i8 []) })
     after (exec (.vCvt 3 1 false 0 false) s) (fun t => t.vbits (t.vop 3) 0) = some 2
      ∧ after (exec (.vCvtz 3 1 false 0 false) s) (fun t => t.vbits (t.vop 3) 0) = some 2
      ∧ after (exec (.vCvtp 3 1 false 0 false) s) (fun t => t.vbits (t.vop 3) 0) = some 3
      ∧ after (exec (.vCvtm 3 1 false 0 false) s) (fun t => t.vbits (t.vop 3) 0) = some 2)
    ∧ (let s := sV 1 .f32 [0x43960000] [] []
       let s := s.onVec (fun v => { v with v := rset v.v (3 : BitVec 5) (vreg .i8 []) })
       after (exec (.vCvt 3 1 false 0 false) s) (fun t => (t.vbits (t.vop 3) 0, t.core.vec.vstat)) = some (127, 1)) := by decide +kernel

/-- R216, R217. -/
theorem wit_vectorPermutations : let s := sV 2 .i8 [10, 20] [1, 0xFF] [0]
    Claims.sameType s 3 1 ∧ Claims.fits s 3 ∧ Claims.fits s 1 ∧ (s.vop 1).tag ≠ .e2m1x ∧ (s.vop 2).tag.isInt = true ∧ Claims.fits s 2
      ∧ s.core.vp.live = false ∧ Claims.sameType s 2 1 := by
  simp only [Claims.sameType, Claims.fits]
  decide +kernel

/-- An index of −1 reads zero and sets OOR; v.comp packs and writes VL; v.sldn past VL reads zero (R202, R216, R217). -/
theorem test_vector_permutations :
    after (exec (.vPerm 3 1 2 0 false 0) (sV 2 .i8 [10, 20] [1, 0xFF] [0])) (fun t => ([0, 1].map (t.vbits (t.vop 3)), t.core.vec.vstat)) = some ([20, 0], 8)
    ∧ after (exec (.vComp 3 1 3 false) (sV 2 .i8 [10, 20] [] [1, 2])) (fun t => ([0, 1].map (t.vbits (t.vop 3)), t.core.vec.n)) = some ([20, 2], 1)
    ∧ after (exec (.vSldn 3 1 1 0 false) (sV 2 .i8 [10, 20, 30] [] [0])) (fun t => [0, 1].map (t.vbits (t.vop 3))) = some [20, 0]
    ∧ after (exec (.vSlup 3 1 1 0 false) (sV 2 .i8 [10, 20] [] [7])) (fun t => [0, 1].map (t.vbits (t.vop 3))) = some [7, 10]
    ∧ after (exec (.vMrg 3 1 2 1 0) (sV 2 .i8 [10, 20] [30, 40] [])) (fun t => [0, 1].map (t.vbits (t.vop 3))) = some [30, 20] := by decide +kernel

/-- R218. -/
theorem wit_vectorGeneration :
    (let s := sCvt 2 .i8 .i8 .n32 0
     Claims.fits s 8 ∧ Claims.fits s 1 ∧ (s.vop 1).tag ≠ .e2m1x ∧ (s.vop 8).tag = .n32 ∧ Claims.linearTag (s.vop 8).tag ∧ (s.vop 8).tag ≠ .e2m1x)
    ∧ (let s := sCvt 2 .i8 .i8 .i32 0
       Claims.fits s 8 ∧ Claims.fits s 1 ∧ (s.vop 1).tag ≠ .e2m1x ∧ (s.vop 8).tag = .i32) := by
  simp only [Claims.fits, Claims.linearTag]
  decide +kernel

/-- Counts of earlier equal elements; iota from g1 = 1 and from −1; the element past VL reads zero with OOR (R218). -/
theorem test_vector_generation :
    (let s := sV 3 .i8 [5, 5, 5] [] []
     let s := s.onVec (fun v => { v with v := rset v.v (3 : BitVec 5) (vreg .n32 []) })
     after (exec (.vCdet 3 1 0 false) s) (fun t => [0, 1, 2].map (t.vbits (t.vop 3))) = some [0, 1, 2]
      ∧ after (exec (.vIota 3 2 0 false) s) (fun t => ([0, 1, 2].map (t.vbits (t.vop 3)), t.core.vec.vstat)) = some ([0, 0, 1], 1))
    ∧ after (exec (.vExtr 9 1 1) (sV 2 .i8 [10, 0x80] [] [])) (fun t => t.g 9) = some 0xFFFFFFFFFFFFFF80
    ∧ after (exec (.vExtr 9 1 1) (sV 1 .i8 [10, 20] [] [])) (fun t => (t.g 9, t.core.vec.vstat)) = some (0, 8) := by decide +kernel

/-- R219. -/
theorem wit_vectorMasks : let s := sV 8192 .i8 [] [] []
    (4 : BitVec 3) ≠ 0 ∧ (List.range s.core.vec.n).filter (s.act 4) = [] ∧ (List.range 2).filter ((sV 2 .i8 [] [] []).act 3) = [1] := by
  decide +kernel

/-- Mask operations below VL, count, first, and none (R219). -/
theorem test_vector_mask_forms : after (exec (.vKandn 4 2 1) (sV 2 .i8 [] [] [])) (fun t => (t.kreg 4).toNat) = some 2
    ∧ after (exec (.vKpop 9 2) (sV 2 .i8 [] [] [])) (fun t => t.g 9) = some 2
    ∧ after (exec (.vKfirst 9 3) (sV 2 .i8 [] [] [])) (fun t => t.g 9) = some 1
    ∧ after (exec (.vKfirst 9 3) (sV 1 .i8 [] [] [])) (fun t => t.g 9) = some 0xFFFFFFFFFFFFFFFF := by decide +kernel

/-- R199 to R201: a tag out of class, tags that differ, VL one above the capacity. -/
theorem wit_vectorOperandChecks :
    ((sV 1 .f32 [] [] []).vop 1).tag.isInt ≠ true ∧ ((sV 1 .e2m1x [] [] []).vop 1).tag = .e2m1x ∧ ¬ Claims.linearTag ((sV 1 .ang16 [] [] []).vop 1).tag
    ∧ (let s := sCvt 1 .i8 .n8 .i8 0
       (s.vop 1).tag.isInt = true ∧ ¬ (Claims.sameType s 8 1 ∧ Claims.sameType s 2 1))
    ∧ (let s := sV 4097 .i8 [] [] []
       Claims.sameType s 3 1 ∧ Claims.sameType s 2 1 ∧ ¬ (Claims.fits s 3 ∧ Claims.fits s 1 ∧ Claims.fits s 2)) := by
  simp only [Claims.sameType, Claims.fits, Claims.linearTag]
  decide +kernel

/-- R220: an integer and a floating register, some and no element active; a scan's operands. -/
theorem wit_vectorReductions :
    (let s := sV 2 .i8 [1, 2] [] []
     Claims.fits s 1 ∧ (s.vop 1).tag ≠ .e2m1x ∧ Claims.linearTag (s.vop 1).tag ∧ (s.vop 1).tag.isInt = true ∧ (s.vop 1).frac = 0
      ∧ (List.range s.core.vec.n).filter (s.act 4) = [] ∧ Claims.sameType s 3 1 ∧ Claims.fits s 3)
    ∧ (let s := sV 2 .f32 [1, 2] [] []
       Claims.fits s 1 ∧ (s.vop 1).tag ≠ .e2m1x ∧ Claims.linearTag (s.vop 1).tag) := by
  simp only [Claims.sameType, Claims.fits, Claims.linearTag]
  decide +kernel

/-- A sum that saturates once at the end; a maximum; no active element gives the identity and EMPTY; a scan (R220). -/
theorem test_vector_reductions :
    after (exec (.vRsum 9 1 0) (sV 3 .i8 [100, 100, 0xB0] [] [])) (fun t => (t.g 9, t.core.vec.vstat)) = some (120, 0)
    ∧ after (exec (.vRmax 9 1 0) (sV 2 .i8 [0x80, 0xFF] [] [])) (fun t => t.g 9) = some 0xFFFFFFFFFFFFFFFF
    ∧ after (exec (.vRsum 9 1 4) (sV 2 .i8 [1, 2] [] [])) (fun t => (t.g 9, t.core.vec.vstat)) = some (0, 4)
    ∧ after (exec (.vPsum 3 1 0 false) (sV 3 .i8 [1, 2, 3] [] [])) (fun t => [0, 1, 2].map (t.vbits (t.vop 3))) = some [1, 3, 6] := by decide +kernel

/-- R221, R222. -/
theorem wit_vectorDraws : let s := sCvt 5 .i8 .i8 .n32 0
    Claims.fits s 8 ∧ (s.vop 8).tag = .n32 ∧ ((sCvt 5 .i8 .i8 .f32 0).vop 8).tag = .f32 ∧ Claims.fits (sCvt 5 .i8 .i8 .f32 0) 8 := by
  simp only [Claims.fits]
  decide +kernel

/-- The spec's test vector: key 1, counter 0 (R221). -/
theorem test_vector_draws : after (exec (.vRng 3 1 6 0 false) (sV 4 .n32 [] [] [])) (fun t => [0, 1, 2, 3].map (t.vbits (t.vop 3)))
    = some [0x010FAF2B, 0xC2BBC090, 0x494216FC, 0x120C9528] := by decide +kernel

/-! ## Vector configuration and memory -/

/-- A stream command with all parameters 0 but those that a test names. -/
def cmd0 (p : BitVec 4) : StreamCmd :=
  { kind := .ld, port := p, op := 0, base := 0, src := 0, near := .queue, c0 := 4, c1 := 1, c2 := 1, s1 := 0, s2 := 0, b0 := 0, b1 := 0, sc := 0
    ctl := 0, ffmt := 2, nfmt := 2, exp := 4, pl := plSup, seq := 0, active := false, next := 0, srcCrc := 0, dstCrc := 0, moved := [], sends := []
    dcAddr := 0, dcMask := 0, slots := [], filled := 0, ahead := [], skip := [] }

/-- The words of vprof and vmfc that are admitted and refused, and a command on a load-data queue. -/
def sCfg (busy : Bool) : State :=
  st [(1, 0x1A), (2, 3), (3, 0x20), (4, 0x10), (5, 0x0000000000068001), (6, 2), (7, 0x0000000000400001), (8, 5000)]
    (fun c => { c with cmds := if busy then [.stream (cmd0 8)] else [] })

/-- No command at all, or none on a load-data queue. -/
theorem noQueue : ∀ c ∈ ([] : List Cmd), ∀ y, c = .stream y → ¬ (8 ≤ y.port.toNat ∧ y.port.toNat ≤ 11) := by simp

/-- R177 to R180, R190: each class of value for vprof and vmfc, idle and busy, and a change of MVLC. -/
theorem wit_vectorConfiguration :
    Tag.ofCode 0x0C = some .f32 ∧ Tag.ofCode 0x11 = some .e2m1x
    ∧ (let x := (sCfg false).g 1
       x.extractLsb' 5 59 = 0#59 ∧ x.extractLsb' 0 2 ≠ 3#2 ∧ x.extractLsb' 2 2 ≠ 3#2 ∧ (sCfg false).core.vec.vprof.extractLsb' 0 2 ≠ x.extractLsb' 0 2)
    ∧ (sCfg false).core.vec.vprof.extractLsb' 0 2 = ((sCfg false).g 4).extractLsb' 0 2
    ∧ ((sCfg false).g 2).extractLsb' 0 2 = 3#2 ∧ ((sCfg false).g 3).extractLsb' 5 59 ≠ 0#59
    ∧ (let x := (sCfg true).g 5
       x.extractLsb' 1 14 = 0#14 ∧ (Tag.ofCode (x.extractLsb' 15 5)).isSome = true ∧ (x.extractLsb' 20 3).toNat < 4)
    ∧ ((sCfg false).g 6).extractLsb' 1 14 ≠ 0#14 ∧ ¬ (((sCfg false).g 7).extractLsb' 20 3).toNat < 4 := by decide +kernel

/-- The core holds a command on a load-data queue, or none. -/
theorem wit_vectorConfiguration_queues :
    (∀ c ∈ (sCfg false).core.cmds, ∀ y, c = .stream y → ¬ (8 ≤ y.port.toNat ∧ y.port.toNat ≤ 11))
    ∧ ¬ (∀ c ∈ (sCfg true).core.cmds, ∀ y, c = .stream y → ¬ (8 ≤ y.port.toNat ∧ y.port.toNat ≤ 11)) :=
  ⟨noQueue, fun h => h (.stream (cmd0 8)) (List.mem_singleton.mpr rfl) (cmd0 8) rfl (by decide)⟩

/-- vsetvl of 5000 f32 elements grants 1024, of f16 2048; vprof returns the old value; a reserved value takes cause 0x48
(R177 to R180). -/
theorem test_vector_configuration :
    after (exec (.vsetvl 9 8 0x0C) (sCfg false)) (fun t => (t.g 9, t.core.vec.n, t.core.vec.w)) = some (1024, 1024, 3)
    ∧ after (exec (.vsetvl 9 8 0x0D) (sCfg false)) (fun t => (t.g 9, t.core.vec.w)) = some (2048, 2)
    ∧ after (exec (.vprof 9 1) (sCfg false)) (fun t => (t.g 9, t.core.vec.vprof)) = some (0, 0x1A)
    ∧ after (exec (.vprof 9 2) (sCfg false)) (fun t => (t.core.sys.cause, t.core.vec.vprof)) = some (0x48, 0)
    ∧ after (exec (.vmfc 9 5) (sCfg true)) (fun t => (t.core.sys.cause, t.core.vec.mfc)) = some (0x62, 0) := by decide +kernel

/-- R174, R195: a group of 4 at the last place, a register that keeps its width, and a register that a spill holds. -/
theorem wit_vectorTagsAndFrames : let s := sV 2 .i32 [5, 6] [] []
    Tag.ofCode 0x0C = some .f32 ∧ (s.physV 28).toNat + grpSize 1 ≤ 32 ∧ s.core.blk.loopMode = false ∧ (s.physReg 1).tag.width = Tag.f32.width
      ∧ (s.physReg 1).tag ≠ .e2m1x ∧ s.spillOver 1 = false := by decide +kernel

/-- An address without translation. -/
def at0 (a : Nat → Word) (e : Nat) : Xl := ⟨(a e).toNat, none, none⟩

/-- Accesses of active elements that go through. -/
theorem reachesAll {s : State} {k : BitVec 3} {kind : AccKind} {a : Nat → Word} {n : Nat} {x : Nat → Xl} {g : Nat}
    (h : ∀ e < s.core.vec.n, s.act k e = true → (reach s s.core.cmds s.pl kind (a e) n).toOption = some (x e) ∧ (x e).entry = none) :
    ∀ e, s.act k e = true → 16 * g ≤ e → Claims.reaches s kind (a e) n (x e) :=
  fun e he _ => ⟨okOf (h e (act_lt he) he).1, (h e (act_lt he) he).2⟩

/-- The same for accesses to plain memory. -/
theorem reachesPlain {s : State} {k : BitVec 3} {kind : AccKind} {a : Nat → Word} {n : Nat} {x : Nat → Xl} {g : Nat}
    (h : ∀ e < s.core.vec.n, s.act k e = true →
      (reach s s.core.cmds s.pl kind (a e) n).toOption = some (x e) ∧ (x e).entry = none ∧ (x e).plain = true) :
    ∀ e, s.act k e = true → 16 * g ≤ e → Claims.reaches s kind (a e) n (x e) ∧ (x e).plain = true :=
  fun e he _ => ⟨⟨okOf (h e (act_lt he) he).1, (h e (act_lt he) he).2.1⟩, (h e (act_lt he) he).2.2⟩

/-- v3 and the index register v2 of i32, base 0x1000 in g1, stride 8 in g2, two elements; words 1, 2 and 3 at 0x1000. -/
def sLd : State :=
  { st [(1, 0x1000), (2, 8)] (vec 2 [(2, vreg .i32 [2, 0]), (3, vreg .i32 [7, 9])] [(1, 2)]) with
    mem := [(0x1000, 1), (0x1004, 2), (0x1008, 3)] }

/-- R205: the five forms of address, unmasked and masked. -/
theorem wit_vectorLoads :
    (Claims.fits sLd 3 ∧ (sLd.vop 3).tag ≠ .e2m1x ∧ (memFmt sLd.core.vec (sLd.vop 3).tag).tag ≠ .e2m1x ∧ (sLd.vop 2).tag.isInt = true ∧ Claims.fits sLd 2)
    ∧ (∀ e, sLd.act 0 e = true → 16 * sLd.startGroup clsV 3 ≤ e → let a := fun e => (Claims.elemAddrs sLd 3 1 2 4 0 0 e).1; Claims.reaches sLd .vread (a e) 4 (at0 a e))
    ∧ (∀ e, sLd.act 0 e = true → 16 * sLd.startGroup clsV 3 ≤ e → let a := fun e => (Claims.elemAddrs sLd 3 1 2 4 0 0 e).2.1; Claims.reaches sLd .vread (a e) 4 (at0 a e))
    ∧ (∀ e, sLd.act 0 e = true → 16 * sLd.startGroup clsV 3 ≤ e → let a := fun e => (Claims.elemAddrs sLd 3 1 2 4 0 0 e).2.2.1; Claims.reaches sLd .vread (a e) 4 (at0 a e))
    ∧ (∀ e, sLd.act 1 e = true → 16 * sLd.startGroup clsV 3 ≤ e → let a := fun e => (Claims.elemAddrs sLd 3 1 2 4 1 0 e).2.2.2.1; Claims.reaches sLd .vread (a e) 4 (at0 a e))
    ∧ (∀ e, sLd.act 1 e = true → 16 * sLd.startGroup clsV 3 ≤ e → let a := fun e => (Claims.elemAddrs sLd 3 1 2 4 1 0 e).2.2.2.2; Claims.reaches sLd .vread (a e) 4 (at0 a e)) := by
  refine ⟨by simp only [Claims.fits]; decide +kernel, reachesAll ?_, reachesAll ?_, reachesAll ?_, reachesAll ?_, reachesAll ?_⟩ <;> decide +kernel

/-- v.ldx of v3 by its own replicated indices, standing at group 1: element 0 has been overwritten with 99, the index that it held
at issue was 2. Words at 0x1000. -/
def sRep : State :=
  { st [(1, 0x1000)] (fun c => vec 17 [(3, vreg .i32 ([99, 1] ++ List.replicate 15 0))] []
      { c with vec := { c.vec with pix := pixWord clsV 3 1, rep := [2, 1] } }) with
    mem := [(0x1000, 1), (0x1004, 2), (0x1008, 3)] }

/-- R185, R205: the indices of a form that stands at a group are those of its issue. -/
theorem wit_vectorLoads_replicated : Claims.fits sRep 3 ∧ sRep.startGroup clsV 3 = 1 ∧ sRep.act 0 16 = true
    ∧ Claims.index sRep 3 3 1 16 = 2 ∧ Claims.elemInt .i32 (sRep.vbits (sRep.vop 3) (repIx 1 16)) = 99
    ∧ (∀ e, sRep.act 0 e = true → 16 * sRep.startGroup clsV 3 ≤ e →
        let a := fun e => sRep.g 1 + BitVec.ofInt 64 (Claims.index sRep 3 3 1 e * 4); Claims.reaches sRep .vread (a e) 4 (at0 a e)) := by
  refine ⟨by simp only [Claims.fits]; decide +kernel, by decide +kernel, by decide +kernel, by decide +kernel, by decide +kernel, ?_⟩
  intro e he hg
  have h1 : e < 17 := Nat.lt_of_lt_of_eq (act_lt he) (by decide +kernel)
  have h2 : sRep.startGroup clsV 3 = 1 := by decide +kernel
  have h3 : e = 16 := by omega
  subst h3
  exact ⟨okOf (by decide +kernel), rfl⟩

/-- Element 16 takes word 2 (R185). -/
theorem test_vector_replicated : after (exec (.vLdx 3 1 3 0 false 1) sRep) (fun t => t.vbits (t.vop 3) 16) = some 3 := by decide +kernel

/-- R205 to R210: the loads and stores of sLd. -/
theorem test_vector_memory : after (exec (.vLd 3 1 4) sLd) (fun t => [0, 1].map (t.vbits (t.vop 3))) = some [2, 3]
    ∧ after (exec (.vLdx 3 1 2 0 false 0) sLd) (fun t => [0, 1].map (t.vbits (t.vop 3))) = some [3, 1]
    ∧ after (exec (.vLds 3 1 2 0 false) sLd) (fun t => [0, 1].map (t.vbits (t.vop 3))) = some [1, 3]
    ∧ after (exec (.vLdc 3 1 1 true) sLd) (fun t => [0, 1].map (t.vbits (t.vop 3))) = some [0, 1]
    ∧ after (exec (.vStx 3 1 2 0 0) sLd) (fun t => t.mem) = some [(0x1000, 9), (0x1004, 2), (0x1008, 7)]
    ∧ after (exec (.vSxadd 3 1 2 0 0) sLd) (fun t => t.mem) = some [(0x1000, 10), (0x1004, 2), (0x1008, 10)] := by decide +kernel

/-- R206, R208, R210: stores in plain memory, by the same addresses, and a scatter with a repeated index. -/
theorem wit_vectorStores : sLd.memOk ∧ Claims.fits sLd 3 ∧ (memFmt sLd.core.vec (sLd.vop 3).tag).tag ≠ .e2m1x
    ∧ (∀ e, sLd.act 0 e = true → 16 * sLd.startGroup clsMem 0 ≤ e → let a := fun e => (Claims.elemAddrs sLd 3 1 2 4 0 0 e).1
        Claims.reaches sLd .vwrite (a e) 4 (at0 a e) ∧ (at0 a e).plain = true)
    ∧ (∀ e, sLd.act 0 e = true → 16 * sLd.startGroup clsMem 0 ≤ e → let a := fun e => (Claims.elemAddrs sLd 3 1 2 4 0 0 e).2.1
        Claims.reaches sLd .vwrite (a e) 4 (at0 a e) ∧ (at0 a e).plain = true)
    ∧ (∀ e, sLd.act 1 e = true → 16 * sLd.startGroup clsMem 0 ≤ e → let a := fun e => (Claims.elemAddrs sLd 3 1 2 4 1 0 e).2.2.1
        Claims.reaches sLd .vwrite (a e) 4 (at0 a e) ∧ (at0 a e).plain = true)
    ∧ (∀ e, sLd.act 1 e = true → 16 * sLd.startGroup clsMem 0 ≤ e → let a := fun e => (Claims.elemAddrs sLd 3 1 2 4 1 0 e).2.2.2.2
        Claims.reaches sLd .vwrite (a e) 4 (at0 a e) ∧ (at0 a e).plain = true) := by
  refine ⟨by unfold State.memOk; decide +kernel, by simp only [Claims.fits]; decide +kernel, by decide +kernel, reachesPlain ?_, reachesPlain ?_, reachesPlain ?_, reachesPlain ?_⟩
    <;> decide +kernel

/-- Seventeen elements that end past device memory: the second group begins there. -/
def sFf : State := st [(1, 0xBFFFFFFFC0)] (vec 17 [(3, vreg .i32 [])] [(1, 0x1FFFF)])

/-- Load-data queue 9 holds three elements of 4 bytes, one of which VQRD has counted. -/
def sQ : State :=
  st [] (fun c => vec 2 [(3, vreg .i32 [])] [] { c with
    port := { c.port with xstat := rset c.port.xstat (9 : BitVec 4) 0x2080000400030000, ldq := c.port.ldq.set 1 [10, 20, 30] }
    vec := { c.vec with vqrd := 0x10000 } })

/-- R207, R209: bits of memory; a load that goes through, and one whose second group faults; a queue that holds enough. -/
theorem wit_vectorLoadsSpecial :
    ((2 : BitVec 3) ≠ 0 ∧ ∀ e, sLd.inPlay e = true → 16 * sLd.startGroup clsK 2 ≤ e →
        Claims.reaches sLd .vread (sLd.g 1 + BitVec.ofNat 64 (e / 8)) 1 ⟨0x1000, none, none⟩)
    ∧ (∀ e, sLd.act 0 e = true → 16 * sLd.startGroup clsV 3 ≤ e → let a := fun e => sLd.g 1 + BitVec.ofNat 64 (e * 4); Claims.reaches sLd .vread (a e) 4 (at0 a e))
    ∧ (Claims.fits sFf 3 ∧ sFf.startGroup clsV 3 ≤ 1 ∧ sFf.act 1 16 = true
        ∧ (∀ e < 16, sFf.act 1 e = true → (reach sFf sFf.core.cmds sFf.pl .vread (sFf.g 1 + BitVec.ofNat 64 (e * 4)) 4).toOption = some (at0 (fun e => sFf.g 1 + BitVec.ofNat 64 (e * 4)) e))
        ∧ failure (reach sFf sFf.core.cmds sFf.pl .vread (sFf.g 1 + BitVec.ofNat 64 (16 * 4)) 4) = some (.fault ⟨0x28, 0xC000000000, 3, 0xF, none, none⟩))
    ∧ (Claims.fits sQ 3 ∧ sQ.core.hasStream 9 false = false ∧ (memFmt sQ.core.vec (sQ.vop 3).tag).tag.width / 8 = 2 ^ (xNsz (sQ.xstat 9)).toNat
        ∧ (sQ.core.vec.vqrd.extractLsb' 16 16).toNat + sQ.core.vec.n ≤ xCnt (sQ.xstat 9)) := by
  refine ⟨⟨by decide, fun e he _ => ?_⟩, reachesAll (by decide +kernel), ?_, ?_⟩
  · simp only [State.inPlay, Bool.and_eq_true, decide_eq_true_eq] at he
    have h : e < 2 := Nat.lt_of_lt_of_eq he.1 (by decide +kernel)
    have h0 : e / 8 = 0 := by omega
    rw [h0]
    exact ⟨okOf (by decide +kernel), rfl⟩
  all_goals (simp only [Claims.fits]; decide +kernel)

/-- The queue of sQ with v3 of another tag. -/
def sQt (t : Tag) (f : BitVec 5) : State := sQ.onVec (fun v => { v with v := rset v.v (3 : BitVec 5) (vreg t [] f) })

/-- R209: a format that no stream delivers, and a size other than the stream's. -/
theorem wit_vectorLoadsSpecial_formats :
    (let s := sQt .fx32 15
     Claims.fits s 3 ∧ (memFmt s.core.vec (s.vop 3).tag).tag ≠ .e2m1x ∧ streamFmt (memFmt s.core.vec (s.vop 3).tag).tag.code = false)
    ∧ (let s := sQt .i16 0
       Claims.fits s 3 ∧ streamFmt (memFmt s.core.vec (s.vop 3).tag).tag.code = true
        ∧ (memFmt s.core.vec (s.vop 3).tag).tag.width / 8 ≠ 2 ^ (xNsz (s.xstat 9)).toNat)
    ∧ streamFmt (memFmt sQ.core.vec (sQ.vop 3).tag).tag.code = true ∧ (sQt .fx32 15).core.hasStream 9 false = false := by
  simp only [Claims.fits]
  decide +kernel

/-- Both take cause 0x6A (R209). -/
theorem test_vector_queue_formats : after (exec (.vLdq 3 9 0 false) (sQt .fx32 15)) (fun t => t.core.sys.cause) = some 0x6A
    ∧ after (exec (.vLdq 3 9 0 false) (sQt .i16 0)) (fun t => t.core.sys.cause) = some 0x6A := by decide +kernel

/-- v.ldff stops at element 16; v.ldq takes the next two of the queue (R207, R209). -/
theorem test_vector_loads_special : after (exec (.vLdff 3 1 5 1 false) sFf) (fun t => (t.g 5, t.core.pc)) = some (16, 4)
    ∧ after (exec (.vLdq 3 9 0 false) sQ) (fun t => ([0, 1].map (t.vbits (t.vop 3)), t.core.vec.vqrd)) = some ([20, 30], 0x30000) := by decide +kernel

/-- Nine bits of k1 and bytes FF at 0x2000. -/
def sStk : State := { st [(1, 0x2000)] (vec 9 [] [(1, 0x155)]) with mem := [(0x2000, 0xFF), (0x2001, 0xFF)] }

/-- R206: a store whose last byte is not whole. -/
theorem wit_maskStores : sStk.memOk ∧ sStk.startGroup clsMem 0 = 0 ∧ sStk.core.vp.live = false ∧ sStk.core.vec.n ≤ 8192
    ∧ (∀ i < 2, (reach sStk sStk.core.cmds sStk.pl .vwrite (sStk.g 1 + BitVec.ofNat 64 i) 1).toOption = some ⟨0x2000 + i, none, none⟩
        ∧ (reach sStk sStk.core.cmds sStk.pl .atomic (sStk.g 1 + BitVec.ofNat 64 i) 1).toOption = some ⟨0x2000 + i, none, none⟩
        ∧ (⟨0x2000 + i, none, none⟩ : Xl).plain = true)
    ∧ ∀ i j, 8 * i < 9 → 8 * j < 9 → (⟨0x2000 + i, none, none⟩ : Xl).pa = (⟨0x2000 + j, none, none⟩ : Xl).pa → i = j := by
  refine ⟨by unfold State.memOk; decide +kernel, by decide +kernel, by decide +kernel, by decide +kernel, by decide +kernel, fun i j _ _ h => ?_⟩
  simpa using h

/-- Bits at or above VL keep their values (R206). -/
theorem test_mask_stores : after (exec (.vStk 1 1) sStk) (fun t => t.mem) = some [(0x2000, 0x55), (0x2001, 0xFF)] := by decide +kernel

/-- R210: three active elements, two at one address. -/
def sSx : State :=
  { st [(1, 0x1000)] (vec 3 [(2, vreg .i8 [1, 1, 2]), (3, vreg .i8 [100, 100, 0xFF])] []) with mem := [(0x1001, 1), (0x1002, 5)] }

/-- R210. -/
theorem wit_scatterUpdates : let n : Nat := 1
    let va (e : Nat) : Word := sSx.g 1 + BitVec.ofInt 64 (Claims.elemInt (sSx.vop 2).tag (sSx.vbits (sSx.vop 2) (repIx 0 e)) * n)
    let act := (List.range sSx.core.vec.n).filter (sSx.act 0)
    sSx.memOk ∧ Claims.fits sSx 3 ∧ Claims.fits sSx 2 ∧ (sSx.vop 2).tag.isInt = true ∧ (sSx.vop 3).tag ≠ .e2m1x ∧ sSx.core.vec.mfc.getLsbD 0 = false
      ∧ (sSx.vop 3).tag.isInt = true ∧ (sSx.vop 3).frac = 0
      ∧ (∀ e ∈ act, (reach sSx sSx.core.cmds sSx.pl .atomic (va e) n).toOption = some (at0 va e) ∧ (at0 va e).entry = none ∧ (at0 va e).plain = true)
      ∧ (∀ e ∈ act, ∀ q ∈ act, (va e = va q ↔ (at0 va e).pa = (at0 va q).pa)
          ∧ ((at0 va e).pa ≠ (at0 va q).pa → (at0 va e).pa + n ≤ (at0 va q).pa ∨ (at0 va q).pa + n ≤ (at0 va e).pa)) := by
  simp only [Claims.fits, State.memOk]
  decide +kernel

/-- 1 + 100 + 100 saturates to 127; 5 − 1 = 4; the greatest of 1 and 100 (R210). -/
theorem test_scatter_updates : after (exec (.vSxadd 3 1 2 0 0) sSx) (fun t => t.mem) = some [(0x1001, 0x7F), (0x1002, 4)]
    ∧ after (exec (.vSxmax 3 1 2 0 0) sSx) (fun t => t.mem) = some [(0x1001, 100), (0x1002, 5)]
    ∧ after (exec (.vSxmin 3 1 2 0 0) sSx) (fun t => t.mem) = some [(0x1001, 1), (0x1002, 0xFF)] := by decide +kernel

/-- A span of plain memory from its aligned accesses. -/
theorem spanOf {s : State} {kind : AccKind} {base : Word} {len P : Nat}
    (h : ∀ o < len, ∀ n ∈ [1, 2, 4, 8], o + n ≤ len → (base + BitVec.ofNat 64 o).toNat % n = 0 →
      (reach s s.core.cmds s.pl kind (base + BitVec.ofNat 64 o) n).toOption = some ⟨P + o, none, none⟩ ∧ (⟨P + o, none, none⟩ : Xl).plain = true) :
    Claims.span s kind base len P := by
  intro o n hn ho ha
  have h1 : n ∈ [1, 2, 4, 8] := by simpa using hn
  have h2 : o < len := by omega
  obtain ⟨h3, h4⟩ := h o h2 n h1 ho ha
  exact ⟨⟨P + o, none, none⟩, ⟨okOf h3, rfl⟩, h4, rfl⟩

/-- An e2m1x register, MFC off (memory e2m1x), or on with e4m3. -/
def sBlkEl (mfc : Word) : State :=
  { st [(1, 0x1000), (2, 0x2000)] (fun c => vec 2 [(3, vreg .e2m1x [5, 0xF]), (2, vreg .i32 [1, 0])] []
      { c with vec := { c.vec with mfc := mfc } }) with mem := [(0x1000, 3), (0x1040, 0x7F)] }

/-- A queue of four i32 elements and an e2m1x register loaded through e4m3 memory's size from it. -/
def sQb : State :=
  st [] (fun c => vec 2 [(3, vreg .e2m1x [])] [] { c with
    port := { c.port with xstat := rset c.port.xstat (9 : BitVec 4) 0x0000000400030000, ldq := c.port.ldq.set 1 [0x38, 0x40, 0x38] }
    vec := { c.vec with mfc := 0x0000000000078001 } })

/-- R86, R209: an e2m1x register taken from a queue. -/
theorem wit_blockElements_queue : let m := memFmt sQb.core.vec (sQb.vop 3).tag
    Claims.fits sQb 3 ∧ (sQb.vop 3).tag = .e2m1x ∧ m.tag ≠ .e2m1x ∧ sQb.core.hasStream 9 false = false ∧ streamFmt m.tag.code = true
      ∧ m.tag.width / 8 = 2 ^ (xNsz (sQb.xstat 9)).toNat
      ∧ (sQb.core.vec.vqrd.extractLsb' 16 16).toNat + sQb.core.vec.n ≤ xCnt (sQb.xstat 9) := by
  simp only [Claims.fits]
  decide +kernel

/-- The address of element e of a load from g1. -/
def elAddr (e : Nat) : Word := (Claims.elemAddrs (sBlkEl 0x0000000000078001) 3 1 2 0 0 0 e).1

/-- R86, R191: an e2m1x register loaded from e4m3 memory. -/
theorem wit_blockElements : Claims.fits (sBlkEl 0x0000000000078001) 3 ∧ (memFmt (sBlkEl 0x0000000000078001).core.vec ((sBlkEl 0x0000000000078001).vop 3).tag).tag ≠ .e2m1x
    ∧ ((sBlkEl 0x0000000000078001).vop 3).tag = .e2m1x ∧ ((sBlkEl 0x0000000000078001).vop 2).tag.isInt = true ∧ Claims.fits (sBlkEl 0x0000000000078001) 2
    ∧ ∀ e, (sBlkEl 0x0000000000078001).act 0 e = true → 16 * 0 ≤ e → Claims.reaches (sBlkEl 0x0000000000078001) .vread (elAddr e) 1 (at0 elAddr e) := by
  refine ⟨?_, ?_, ?_, ?_, ?_, reachesAll ?_⟩
  all_goals (try simp only [Claims.fits])
  all_goals decide +kernel

/-- MFC off: memory of the register's tag, with SCD 64. -/
def sPl : State := sBlkEl 0x0000004000000000

/-- R84, R191: e2m1x memory, planes at 0x1000, scales at 0x1040, for a load and a store. -/
theorem wit_blockElements_planes : Claims.fits sPl 3 ∧ sPl.memOk ∧ (memFmt sPl.core.vec (sPl.vop 3).tag).tag = .e2m1x
    ∧ (memFmt sPl.core.vec (sPl.vop 3).tag).en = false ∧ sPl.startGroup clsV 3 = 0 ∧ sPl.startGroup clsMem 0 = 0 ∧ sPl.core.vp.live = false
    ∧ Claims.span sPl .vread (sPl.g 1 + BitVec.ofInt 64 0) 32 0x1000 ∧ Claims.span sPl .vread (sPl.g 1 + BitVec.ofInt 64 0 + (memFmt sPl.core.vec (sPl.vop 3).tag).scd) 2 0x1040
    ∧ Claims.span sPl .vwrite (sPl.g 1 + BitVec.ofInt 64 0) 32 0x1000 ∧ Claims.span sPl .vwrite (sPl.g 1 + BitVec.ofInt 64 0 + (memFmt sPl.core.vec (sPl.vop 3).tag).scd) 2 0x1040
    ∧ (sPl.g 1 + BitVec.ofInt 64 0).toNat % 8 = 0 ∧ (sPl.core.vec.n + 63) / 64 = 1 ∧ blockCause (sPl.byteAt 0x1040) (sPl.byteAt 0x1041) = none := by
  refine ⟨?_, ?_, ?_, ?_, ?_, ?_, ?_, spanOf ?_, spanOf ?_, spanOf ?_, spanOf ?_, ?_, ?_, ?_⟩
  all_goals (try simp only [Claims.fits, State.memOk, State.byteAt])
  all_goals decide +kernel

/-- An f32 register v3 and e2m1x memory through MFC: planes at 0x1000, the scale and extra bytes at 0x1040. -/
def sBm (b x8 : Byte) : State :=
  { st [(1, 0x1000)] (fun c => vec 3 [(3, vreg .f32 [0x3F800000, 0xC0400000, 0x40E00000])] [] { c with vec := { c.vec with mfc := 0x0000004000088001 } })
    with mem := [(0x1000, 5), (0x1008, 2), (0x1010, 4), (0x1040, b), (0x1041, x8)] }

/-- R84 to R86, R191: e2m1x memory of another register, a block that is admitted and one that fails each check. -/
theorem wit_blockElements_converted : [((0x80 : Byte), (3 : Byte)), (0xFF, 3), (0x80, 0x20)].all (fun p =>
      let s := sBm p.1 p.2
      (memFmt s.core.vec (s.vop 3).tag).tag == .e2m1x && (memFmt s.core.vec (s.vop 3).tag).en && s.startGroup clsV 3 == 4 * 0 && s.startGroup clsMem 0 == 0
        && !s.core.vp.live && (s.g 1 + BitVec.ofInt 64 (0 : BitVec 16).toInt).toNat % 8 == 0) = true
    ∧ Claims.fits (sBm 0x80 3) 3 ∧ (sBm 0x80 3).memOk ∧ 0 < ((sBm 0x80 3).core.vec.n + 63) / 64
    ∧ blockCause ((sBm 0x80 3).byteAt 0x1040) ((sBm 0x80 3).byteAt 0x1041) = none
    ∧ blockCause ((sBm 0xFF 3).byteAt 0x1040) ((sBm 0xFF 3).byteAt 0x1041) = some 0x41 := by
  simp only [Claims.fits, State.memOk, State.byteAt]
  decide +kernel

/-- Its planes and bytes are reached. -/
theorem wit_blockElements_reached : Claims.span (sBm 0x80 3) .vread 0x1000 32 0x1000 ∧ Claims.span (sBm 0x80 3) .vread 0x1040 2 0x1040
    ∧ Claims.span (sBm 0x80 3) .vwrite 0x1000 32 0x1000 ∧ Claims.span (sBm 0x80 3) .vwrite 0x1040 2 0x1040 := by
  refine ⟨spanOf ?_, spanOf ?_, spanOf ?_, spanOf ?_⟩ <;> decide +kernel

/-- Codes 1, 2 and 5 of scale 0x80 are 1.0, 2.0 and 6.0; the store encodes 1.0, −3.0 and 7.0, X being 7.0; extra byte 0x20 takes
0x40 and scale 0xFF 0x41, PIX naming the block (R83 to R86). -/
theorem test_block_elements : after (exec (.vLd 3 1 0) (sBm 0x80 3)) (fun t => [0, 1, 2].map (t.vbits (t.vop 3))) = some [0x3F800000, 0x40000000, 0x40C00000]
    ∧ after (exec (.vSt 3 1 0) (sBm 0x80 3)) (fun t => t.mem)
      = some [(0x1000, 2), (0x1008, 1), (0x1010, 2), (0x1018, 6), (0x1040, 0x7F), (0x1041, 0x0E)]
    ∧ after (exec (.vLd 3 1 0) (sBm 0xFF 0x20)) (fun t => (t.core.sys.cause, t.core.vec.pix)) = some (0x40, pixWord clsV 3 0)
    ∧ after (exec (.vLd 3 1 0) (sBm 0xFF 3)) (fun t => t.core.sys.cause) = some 0x41 := by decide +kernel

/-- Frames: v1 of two i32 elements at 0x1000, and the frame of an f16 register with one element at 0x2000. -/
def sFr : State :=
  { st [(1, 0x1000), (2, 0x2000)] (vec 2 [(1, vreg .i32 [5, 6])] []) with
    mem := [(0x2000, 0x0D), (0x2002, 1), (0x2010, 0x34), (0x2011, 0x12)] }

/-- R194 to R196. -/
theorem wit_spillAndFill : let x := sFr.vreg 1
    let w0 := wordOfBytes (Memory.read sFr.mem 0x2000 8)
    (sFr.memOk ∧ sFr.core.vp.live = false ∧ sFr.startGroup clsMem 0 = 0 ∧ sFr.spillOver 1 = false ∧ (sFr.g 1).toNat % 16 = 0
      ∧ x.tag ≠ .e2m1x ∧ Claims.span sFr .vwrite (sFr.g 1) (frameSize x.tag (sFr.spillCount 1)) 0x1000)
    ∧ (Tag.ofCode (w0.extractLsb' 0 5) = some .f16 ∧ sFr.startGroup clsV 3 = 0 ∧ (sFr.g 2).toNat % 16 = 0
      ∧ Claims.span sFr .vread (sFr.g 2) (frameSize .f16 (w0.extractLsb' 16 16).toNat) 0x2000 ∧ wordOfBytes (Memory.read sFr.mem 0x2008 8) = 0
      ∧ w0.extractLsb' 12 4 = 0#4 ∧ w0.extractLsb' 32 32 = 0#32 ∧ vcfgLitOk (w0.extractLsb' 0 5) (w0.extractLsb' 5 5) (w0.extractLsb' 10 2) = true
      ∧ (w0.extractLsb' 16 16).toNat ≤ sFr.core.vec.mvl Tag.f16.width ∧ sFr.fillGroupBad 3 (w0.extractLsb' 10 2) = false) := by
  refine ⟨⟨?_, ?_, ?_, ?_, ?_, ?_, spanOf ?_⟩, ⟨?_, ?_, ?_, spanOf ?_, ?_, ?_, ?_, ?_, ?_, ?_⟩⟩
  all_goals (try unfold State.memOk)
  all_goals decide +kernel

/-- The worked spill of R196: fx16.12, VL 5. -/
def sSpill : State := st [(9, 0x1000)] (vec 5 [(3, vreg .fx16 [0x3000, 0x4000, 0x1000, 0xF000, 0x0800] 12)] [])

/-- vlq returns 32, and vspill writes the 32 bytes that R196 lists; vfill of a frame gives its tag. -/
theorem test_spill_and_fill : after (exec (.vlq 5 3) sSpill) (fun t => t.g 5) = some 32
    ∧ after (exec (.vspill 3 9) sSpill) (fun t => Memory.read t.mem 0x1000 32) = some [0x88, 0x01, 0x05, 0, 0, 0, 0, 0, 0, 0, 0, 0, 0, 0, 0, 0,
        0x00, 0x30, 0x00, 0x40, 0x00, 0x10, 0x00, 0xF0, 0x00, 0x08, 0, 0, 0, 0, 0, 0]
    ∧ after (exec (.vfill 3 2) sFr) (fun t => (t.vreg 3).tag) = some .f16 := by decide +kernel

/-! ## Rotations and small matrices -/

/-- A pair v2, v3 of a tag and a third register v1. -/
def sRot (t u : Tag) (f : BitVec 5) (x y z : Nat) : State :=
  st [] (vec 1 [(2, vreg t [x] f), (3, vreg t [y] f), (1, vreg u [z])] [])

/-- R223 to R225: each class of angle operand, and the forms without one. -/
theorem wit_rotationForms :
    [(sRot .fx16 .ang16 12 0x1000 0 0x4000), (sRot .fx32 .ang32 30 1 2 3), (sRot .f32 .f32 0 0x3F800000 0 0), (sRot .fx16 .fx16 15 1 2 3)].all (fun s =>
      let p := s.vop 2
      let y := s.vop 3
      let q := s.vop 1
      p.regs == 1 && y.regs == 1 && q.regs == 1 && q.base != p.base && q.base != y.base && (p.tag == .fx16 || p.tag == .fx32 || p.tag == .f32)
        && p.tag == y.tag && p.frac == y.frac && decide (s.core.vec.n ≤ p.cap) && decide (s.core.vec.n ≤ q.cap)) = true
    ∧ (2 : BitVec 5).toNat % 2 = 0 ∧ ((sRot .fx16 .ang16 12 0 0 0).vop 1).tag = .ang16 ∧ ((sRot .fx32 .ang32 30 1 2 3).vop 1).tag = .ang32
    ∧ ((sRot .fx16 .fx16 15 1 2 3).vop 1).tag = .fx16 := by decide +kernel

/-- R75, R229, R232: an angle and a quadrant at the limits of their ranges, and vectors off the origin. -/
theorem wit_rotationSteps : (3 ≤ 3 ∧ 7 < 2 ^ 3 ∧ 0 < 2 ^ 32 ∧ 2 ^ 32 - 1 < 2 ^ 32) ∧ (0 < 4 ∧ 3 < 4) ∧ ((-1 : Int) ≠ 0 ∨ (0 : Int) ≠ 0) := by decide +kernel

/-- Operands of one element: a register of a tag. -/
def rop (t : Tag) (f : Nat := 0) : VOp := ⟨2, t, f, 1, 1024⟩

/-- R226: both kinds of pair, zero and not. -/
theorem wit_workingUnits : (rop .fx16 12).tag.isFx = true ∧ 0xFFFF < 2 ^ (rop .fx16 12).tag.width
    ∧ (Tag.f32.widen 0 0x3F800000).special = false ∧ (Tag.f32.widen 0 0).special = false
    ∧ pairUnit (rop .f32) (Tag.f32.widen 0 0) (Tag.f32.widen 0 0) = -149 ∧ pairUnit (rop .f32) (Tag.f32.widen 0 0x3F800000) (Tag.f32.widen 0 0) = -37
    ∧ toUnits (Tag.fx16.widen 12 0xFFFF) (pairUnit (rop .fx16 12) (Tag.fx16.widen 12 0xFFFF) (Tag.fx16.widen 12 0)) = -256 := by decide +kernel

/-- R231 to R236: a NaN, the gain form, foldings, a rotation that is skipped and one that runs, the shortcuts of a vector-to-axis
form and one that runs, with z of each class. -/
theorem wit_rotationElements : (1 ≤ 32 ∧ (rop .fx16 12).tag.isFx = true ∧ (rop .ang16).tag.isAng = true)
    ∧ rotElem .circ (.rotate true) 4 (rop .f32) (rop .f32) 0x7FC00000 0 0 = ⟨0x7FC00000, 0x7FC00000, 0x7FC00000, flagInv⟩
    ∧ rotElem .circ (.rotate true) 4 (rop .fx16 12) (rop .fx16 12) 0x1000 5 0 = ⟨0x1000, 5, 0, 0⟩
    ∧ (rotElem .circ (.rotate true) 4 (rop .fx16 12) (rop .ang16) 0x1000 5 0x4000).x = 0xFFFB
    ∧ rotElem .lin (.axis false) 4 (rop .fx16 12) (rop .fx16 12) 0 0 7 = ⟨0, 0, 7, 0⟩
    ∧ rotElem .circ (.axis true) 4 (rop .fx16 12) (rop .fx16 12) 0x1000 0 7 = ⟨0x1000, 0, 7, 0⟩
    ∧ (rotElem .lin (.rotate false) 16 (rop .fx16 12) (rop .fx16 12) 0x1000 0 0x3000).flags = flagRange
    ∧ (rotElem .hyp .gain 1 (rop .fx16 12) (rop .fx16 12) 0x1000 0 0).x = 0x127A := by decide +kernel

/-- Shapes of m1, m2 and m3, g registers of positions, VL of n, and MMCTL. -/
def sMat (n : Nat) (shapes : Word) (ctl : Word := 0) (grid : BitVec 73728 := 0x3F800000) : State :=
  st [(1, 0x1000), (2, 144), (4, 0), (5, 0x38), (6, 0x0D), (7, 0x40)] (fun c => vec n [(2, vreg .f32 []), (3, vreg .f32 [])] [(1, 1)]
    { c with mat := { c.mat with mshape := shapes, mmctl := ctl, m := (c.mat.m.set 1 ⟨grid, 0⟩).set 2 ⟨grid, 0⟩ } })

/-- R254: shapes that agree at the limits (6 × 6, and 2 × 6 by 6 × 3), shapes that do not, VL past 64. -/
theorem wit_matrixProducts :
    (let s := (sMat 64 0x36363636).captured clsM 3
     (sMat 64 0x36363636).core.vec.n ≤ 64 ∧ (shapeOf s 2).rows = (shapeOf s 1).cols ∧ (shapeOf s 3).rows = (shapeOf s 1).rows
      ∧ (shapeOf s 3).cols = (shapeOf s 2).cols ∧ (shapeOf s 1).rows ≤ 6 ∧ (shapeOf s 2).cols ≤ 6 ∧ 1 ≤ (shapeOf s 1).cols
      ∧ (shapeOf s 3).rows = (shapeOf s 1).cols ∧ (shapeOf s 3).cols = (shapeOf s 1).rows)
    ∧ (let s := (sMat 64 0x1A1E3209).captured clsM 3
       (shapeOf s 2).rows = (shapeOf s 1).cols ∧ (shapeOf s 3).rows = (shapeOf s 1).rows ∧ (shapeOf s 3).cols = (shapeOf s 2).cols)
    ∧ (let s := (sMat 64 0x36363009).captured clsM 3
       ¬ ((shapeOf s 2).rows = (shapeOf s 1).cols ∧ (shapeOf s 3).rows = (shapeOf s 1).rows ∧ (shapeOf s 3).cols = (shapeOf s 2).cols))
    ∧ 64 < (sMat 65 0x36363636).core.vec.n := by decide +kernel

/-- Shapes that do not agree take cause 0x4A; VL 65 takes cause 0x44; 1 · 1 = 1 (R254). -/
theorem test_matrix_products : after (exec (.mmMul 3 1 2 0) (sMat 1 0x36363009)) (fun t => t.core.sys.cause) = some 0x4A
    ∧ after (exec (.mmMul 3 1 2 0) (sMat 65 0x36363636)) (fun t => t.core.sys.cause) = some 0x44
    ∧ after (exec (.mmMul 3 1 2 0) (sMat 1 0x09090909)) (fun t => ((t.mreg 3).slot 0).at 0 0) = some 0x3F800000
    ∧ after (exec (.mmMsub 3 1 2 0) (sMat 1 0x09090909)) (fun t => ((t.mreg 3).slot 0).at 0 0) = some 0xBF800000 := by decide +kernel

/-- R249, R255 to R259: one-by-one slots; no failing pivot, a failing one with TE = 1, a factor of mm.lu with a good PERM. -/
theorem wit_matrixFactors :
    (let s := sMat 1 0x09090909
     let x := s.captured clsM 3
     s.core.vec.n ≤ 64 ∧ (shapeOf x 1).rows = (shapeOf x 1).cols ∧ (shapeOf x 3).rows = (shapeOf x 1).rows ∧ (shapeOf x 3).cols = (shapeOf x 1).rows
      ∧ (shapeOf x 2).rows = (shapeOf x 1).rows ∧ (shapeOf x 3).cols = (shapeOf x 2).cols ∧ (shapeOf x 1).rows ≤ 6 ∧ s.core.mat.mmctl.getLsbD 32 = false)
    ∧ (let s := sMat 1 0x09090909 0x100000000
       s.core.mat.mmctl.getLsbD 32 = true ∧ (∀ e < s.core.vec.n, s.act 0 e = true → (cholesky s.core.mat.pivot 1 ((s.mreg 1).slot e)).fail = none))
    ∧ (let s := sMat 1 0x09090909 0x100000000 0
       s.core.mat.mmctl.getLsbD 32 = true ∧ s.startGroup clsM 3 = 0 ∧ s.act 0 0 = true ∧ (cholesky s.core.mat.pivot 1 ((s.mreg 1).slot 0)).fail = some 0
        ∧ ∀ q < 0, s.act 0 q = true → (cholesky s.core.mat.pivot 1 ((s.mreg 1).slot q)).fail = none)
    ∧ (let s := sMat 1 0x09098909
       (shapeOf (s.captured clsM 3) 1).kind = 2#2 ∧ ∀ e < s.core.vec.n, s.act 0 e = true → permOk 1 ((s.mreg 1).permOf e) = true) := by decide +kernel

/-- The factor of a 1 × 1 matrix of 4 is 2; a pivot of 0 with TE = 1 traps with cause 0x4B (R249, R255). -/
theorem test_matrix_factors :
    after (exec (.mmChol 3 1 0) (sMat 1 0x09090909 0 0x40800000)) (fun t => (((t.mreg 3).slot 0).at 0 0, (shapeOf t.core.mat.mshape 3).kind)) = some (0x40000000, 1)
    ∧ after (exec (.mmChol 3 1 0) (sMat 1 0x09090909 0x100000000 0)) (fun t => (t.core.sys.cause, t.core.mat.mmflg)) = some (0x4B, 1) := by decide +kernel

/-- A grid of two by two values. -/
def grid2 (a b c d : Nat) : Grid := ((((Vector.replicate 36 0).set 0 a).set 1 b).set 6 c).set 7 d

/-- A pivot threshold of 0. -/
def thr0 : Pivot := ⟨.zero, false⟩

/-- R256 to R260: a pivot that fails and one that does not, rows that change places, factors of each KIND, a NaN, a zero and neither
on a diagonal. -/
theorem wit_matrixValues : (2 ≤ 6 ∧ 1 ≤ 2)
    ∧ (cholesky thr0 2 (grid2 0x40800000 0x40000000 0x40000000 0x40800000)).fail = none ∧ (cholesky thr0 2 (grid2 0x40800000 0x40000000 0x40000000 0)).fail = some 1
    ∧ (luFactor thr0 2 (grid2 0x3F800000 0x40000000 0x40400000 0x40800000)).perm.take 2 = [1, 0]
    ∧ (luFactor thr0 2 (grid2 0 0x40000000 0 0x40800000)).fail = some 0
    ∧ (trsl thr0 0 2 1 (grid2 0x40000000 0 0x3F800000 0x40000000) (grid2 0x40800000 0 0x40C00000 0)).w.at 1 0 = 0x40000000
    ∧ (trsu thr0 1 2 1 (grid2 0x40000000 0 0x3F800000 0x40000000) (grid2 0x40800000 0 0x40C00000 0)).w.at 0 0 = 0x3F000000
    ∧ (solveAny thr0 0 2 1 (grid2 0 0x3F800000 0x3F800000 0) [0, 1, 2, 3, 4, 5] (grid2 0x40000000 0 0x40400000 0)).w.at 0 0 = 0x40400000
    ∧ (detFactored 2 2 (grid2 0x40000000 0 0 0x40400000) [1, 0, 2, 3, 4, 5]).1 = 0xC0C00000
    ∧ (detFactored 1 2 (grid2 0x40000000 0 0 0x40400000) [0, 1, 2, 3, 4, 5]).1 = 0x42100000
    ∧ (detFactored 2 2 (grid2 0x40000000 0 0 0) [0, 1, 2, 3, 4, 5]).2.1 = 0x7F800000
    ∧ (detFactored 2 2 (grid2 0x7FC00000 0 0 0) [0, 1, 2, 3, 4, 5]).1 = 0x7FC00000 := by decide +kernel

/-- R251, R260: positions inside the shape, of PERM, and the determinant's pair. -/
theorem wit_matrixMoves : let s := sMat 1 0x36363636
    s.core.vec.n ≤ 64 ∧ (s.vop 2).tag = .f32 ∧ s.core.vec.n ≤ (s.vop 2).cap ∧ (s.g 4).extractLsb' 6 58 = 0#58 ∧ (s.g 5).extractLsb' 6 58 = 0#58
    ∧ ((s.g 4).extractLsb' 3 3).toNat < (shapeOf (s.captured clsV 2) 1).rows ∧ ((s.g 4).extractLsb' 0 3).toNat < (shapeOf (s.captured clsV 2) 1).cols
    ∧ ((s.g 5).extractLsb' 3 3).toNat = 7 ∧ ((s.g 5).extractLsb' 0 3).toNat ≤ 5
    ∧ ((s.g 6).extractLsb' 0 3).toNat < (shapeOf (s.captured clsM 3) 3).cols
    ∧ (s.vop 3).tag = .f32 ∧ (s.vop 2).regs = 1 ∧ (s.vop 3).regs = 1 ∧ (shapeOf (s.captured clsV 2) 1).rows = (shapeOf (s.captured clsV 2) 1).cols
    ∧ s.startGroup clsV 2 = 0 ∧ (shapeOf (s.captured clsV 2) 1).kind ≠ 2#2 ∧ s.core.mat.mmctl.getLsbD 32 = false := by decide +kernel

/-- mm.shape sets one byte; mm.ins and mm.ext move one value; det of a 1 × 1 matrix (R251, R260). -/
theorem test_matrix_moves : after (exec (.mmShape 3 6 5) (sMat 1 0x09090909)) (fun t => t.core.mat.mshape) = some 0x2E090909
    ∧ after (exec (.mmExt 2 1 4 0) (sMat 1 0x09090909)) (fun t => t.vbits (t.vop 2) 0) = some 0x3F800000
    ∧ after (exec (.mmMov 3 1 0) (sMat 1 0x09090909)) (fun t => ((t.mreg 3).slot 0).at 0 0) = some 0x3F800000 := by decide +kernel

/-- The address of word q of slot e from g1 by g2. -/
def matVa (e q : Nat) : Word := 0x1000 + BitVec.ofInt 64 (e * (144 : Word).toInt) + BitVec.ofNat 64 (4 * q)

/-- R252: 6 × 6 slots in plain memory. -/
theorem wit_matrixMemory : let s := sMat 2 0x36363636
    let h := shapeOf (s.captured clsM 3) 3
    s.core.vec.n ≤ 64 ∧ h.rows = 6 ∧ h.cols = 6 ∧ (shapeOf (s.captured clsMem 0) 3).rows = 6 ∧ (shapeOf (s.captured clsMem 0) 3).cols = 6
    ∧ (∀ e < 2, ∀ q < 36, (reach s s.core.cmds s.pl .vread (matVa e q) 4).toOption = some ⟨0x1000 + 144 * e + 4 * q, none, none⟩
        ∧ (reach s s.core.cmds s.pl .vwrite (matVa e q) 4).toOption = some ⟨0x1000 + 144 * e + 4 * q, none, none⟩
        ∧ (⟨0x1000 + 144 * e + 4 * q, none, none⟩ : Xl).plain = true) := by decide +kernel

/-- Their words lie apart. -/
theorem wit_matrixMemory_apart : ∀ e q e' q' : Nat, q < 36 → q' < 36 → (e, q) ≠ (e', q') →
    0x1000 + 144 * e + 4 * q + 4 ≤ 0x1000 + 144 * e' + 4 * q' ∨ 0x1000 + 144 * e' + 4 * q' + 4 ≤ 0x1000 + 144 * e + 4 * q := by
  intro e q e' q' h h' hne
  by_cases h1 : e = e'
  · have h2 : q ≠ q' := fun h2 => hne (by rw [h1, h2])
    omega
  · omega

/-! ## Tiles -/

/-- g registers of shapes, descriptors, widths and selectors; a tile form's queue; TSHAPE, and descriptors 1 and 2. -/
def sTile (tshape : Word) (queue : List TileCmd := []) (f : TileState → TileState := id) : State :=
  st [(1, 0x0001004000030002), (2, 0x0020000000000000), (3, 0x0002004000030002), (4, 0x0004040080000000), (5, 0x0001000400000003), (6, 2), (7, 16),
      (8, 1), (9, 17), (10, 15359), (11, 0xBBFF), (12, 0x0000000000010002), (13, 0x0000000000010003), (14, 15360), (16, 0x0000000100000000),
      (20, 0x0001000000000000), (24, 0x0001000000000002), (28, 0x0003000000000002)]
    (fun c => vec 2 [(2, vreg .f32 [])] [] { c with tile := f { c.tile with
      tshape := tshape, queue := queue
      tda := ((c.tile.tda.set 1 0x0004040080000000).set 2 0x0005040080000000), tdb := ((c.tile.tdb.set 1 0x0001000400000003).set 2 0x0001000500000003) } })

/-- M 2, N 3, K 64, widths 4 and 4. -/
def shape : Word := 0x0042004000030002

/-- A queue entry of a form, and what stood when it was issued at 0x40 with g16 = 7. -/
def oldForm : Journal := { base.core.journal with pc := 0x40, g := base.core.g.set 16 7 }
def entry (i : Instr) : TileCmd := ⟨i.word32, 0x1000, Vector.ofFn (fun j => if j.val = 0 then 2 else if j.val = 1 then 64 else 8), 0, oldForm⟩

/-- R264 to R269: each condition of the forms at its limits. -/
theorem wit_tileRegisters :
    (sTile shape [entry (.tlMma 0 1 2)]).core.tile.queue ≠ [] ∧ (sTile shape).core.tile.queue = [] ∧ (sTile shape).pl ≠ plUser
    ∧ (atLevel 0 (sTile shape)).pl = plUser
    ∧ (Claims.grid (((sTile shape).g 1).extractLsb' 48 5).toNat = some (1, 1) ∧ (((sTile shape).g 1).extractLsb' 48 5).toNat ≤ (sTile shape).gangSize
        ∧ ((sTile shape).g 1).extractLsb' 53 11 = 0#11)
    ∧ ((sTile shape).g 2).extractLsb' 53 11 ≠ 0#11 ∧ (sTile shape).gangSize < (((sTile shape).g 3).extractLsb' 48 5).toNat ∧ Claims.grid 3 = none
    ∧ (2 ≤ ((sTile shape).g 6).toNat ∧ ((sTile shape).g 7).toNat ≤ 16) ∧ ¬ 2 ≤ ((sTile shape).g 8).toNat ∧ ¬ ((sTile shape).g 9).toNat ≤ 16
    ∧ (let y := (sTile shape).g 10
       y.extractLsb' 16 48 = 0#48 ∧ y.getLsbD 14 = false ∧ (y.extractLsb' 0 14).toNat ≤ 15359 ∧ y.getLsbD 15 = false)
    ∧ ((sTile shape).g 11).getLsbD 15 = true ∧ ¬ (((sTile shape).g 14).extractLsb' 0 14).toNat ≤ 15359 := by decide +kernel

/-- A descriptor that R268 admits, at both limits of W, and ones that it does not. -/
theorem wit_tileDescriptors : Claims.goodDesc 0x0004040080000000 0x0001000400000003 ∧ Claims.goodDesc 0x0002040080000000 0x0001000400000003
    ∧ Claims.goodDesc 0x0010040080000000 0x0001001000000003 ∧ ¬ Claims.goodDesc 0x0001040080000000 0x0001000400000003
    ∧ ¬ Claims.goodDesc 0x0004040080000004 0x0001000400000003 ∧ ¬ Claims.goodDesc 0x0004040080000000 0x0001000300000003 := by
  refine ⟨?_, ?_, ?_, ?_, ?_, ?_⟩ <;> (unfold Claims.goodDesc; dsimp only; decide +kernel)

/-- TSHAPE of a grant: M 2, N 3, K 64 at rank 0; a request of two cores by one takes cause 0x6B; accumulators keep 58 bits
(R91, R264, R269). -/
theorem test_tile_registers : after (exec (.tlShape 21 1) (sTile shape)) (fun t => (t.g 21, t.core.tile.tshape)) = some (0x0042004000030002, 0x0042004000030002)
    ∧ after (exec (.tlShape 21 3) (sTile shape)) (fun t => t.core.sys.cause) = some 0x6B
    ∧ after (exec (.tlPrec 6 7) (sTile shape)) (fun t => (tsWa t.core.tile.tshape, tsWb t.core.tile.tshape)) = some (2, 16)
    ∧ after (exec (.tlDesc 3 4 5) (sTile shape)) (fun t => (rget t.core.tile.tda (3 : BitVec 4), rget t.core.tile.tdb (3 : BitVec 4))) = some (0x0004040080000000, 0x0001000400000003)
    ∧ after (exec (.tlAcc 3 1 14) (sTile shape)) (fun t => t.core.sys.cause) = some 0x6E := by decide +kernel

/-- R271 to R277: the forms at issue, each condition. -/
theorem wit_tileForms :
    (tsWa (sTile 0x4000030002).core.tile.tshape = 0) ∧ (tsWa shape ≠ 0 ∧ tsWb shape ≠ 0)
    ∧ tdW (rget (sTile shape).core.tile.tda (3 : BitVec 4)) = 0 ∧ tdW (rget (sTile shape).core.tile.tda (1 : BitVec 4)) ≠ 0
    ∧ (tsSub shape = (2, 3) ∧ (tsK shape + 63) / 64 = 1 ∧ tdLines (rget (sTile shape).core.tile.tdb (1 : BitVec 4)) = 3
        ∧ tdRuns (rget (sTile shape).core.tile.tda (2 : BitVec 4)) = 1)
    ∧ ¬ (tsSub 0x0042004000040002).2 ≤ 3
    ∧ ¬ (sTile shape (List.replicate 8 (entry (.tlMma 0 1 2)))).core.tile.queue.length < 8 ∧ (sTile shape).core.tile.queue.length < 8
    ∧ ((sTile shape).reachSpans ((sTile shape).core.tile.tdSpans 1 false ++ (sTile shape).core.tile.tdSpans 2 false) .vread 0).toOption = some ()
    ∧ ((sTile shape).reachSpans ((sTile shape).core.tile.tdSpans 1 true) .vwrite 0).toOption = some ()
    ∧ (((sTile shape).g 12).extractLsb' 32 32 = 0#32 ∧ (((sTile shape).g 12).extractLsb' 16 16).toNat + (((sTile shape).g 12).extractLsb' 0 16).toNat ≤ 3
        ∧ 3 < (((sTile shape).g 13).extractLsb' 16 16).toNat + (((sTile shape).g 13).extractLsb' 0 16).toNat)
    ∧ (sTile shape).core.wait ≠ some .tileLine
    ∧ (((sTile shape).g 20).extractLsb' 5 11 = 0#11 ∧ (((sTile shape).g 20).extractLsb' 0 5).toNat ∈ [0x00, 0x01, 0x0C, 0x0D, 0x0E, 0x0F, 0x10])
    ∧ (((sTile shape).g 24).extractLsb' 0 5).toNat ∉ [0x00, 0x01, 0x0C, 0x0D, 0x0E, 0x0F, 0x10]
    ∧ (let s := sTile shape
       s.share.bdone.find? (fun v => v.rank == s.core.rank) = none ∧ s.share.bcast.any (fun x => x.rank == s.core.rank) = false
        ∧ s.core.rank < (arrGrid (tsArr shape)).1 * (arrGrid (tsArr shape)).2)
    ∧ (let s := (sTile shape).onCore (fun c => { c with rank := 1 })
       (arrGrid (tsArr shape)).1 * (arrGrid (tsArr shape)).2 ≤ s.core.rank)
    ∧ ((sTile shape).core.cmds = [] ∧ (sTile shape).dev.badBytes = [] ∧ (sTile shape).dev.quarantine = []
        ∧ ∀ q : BitVec 3, xState ((sTile shape).xstat (0#1 ++ q)) = stIdle) := by decide +kernel

/-- R153, R277: a line form whose descriptor lies in the window of a fill that has not started, and whose queue has room;
one that lies outside it; a descriptor that is not set. -/
theorem wit_tileForms_held : (let s := (sTile shape).onCore (fun c => { c with cmds := [.stream { cmd0 1 with near := .window 0x10 }] })
      s.spansHeld (s.core.tile.tdSpans 1 true) = true ∧ s.core.tile.queue.length < 8)
    ∧ (let s := (sTile shape).onCore (fun c => { c with cmds := [.stream { cmd0 1 with near := .window 0x10000 }] })
      s.spansHeld (s.core.tile.tdSpans 1 true) = false ∧ s.core.tile.queue.length < 8)
    ∧ (sTile shape).spansHeld ((sTile shape).core.tile.tdSpans 1 true) = false
    ∧ rget (sTile shape).core.tile.tda (1 : BitVec 4) = 0x0004040080000000 ∧ rget (sTile shape).core.tile.tdb (1 : BitVec 4) = 0x0001000400000003
    ∧ ¬ Claims.goodDesc 0 0 := by
  unfold Claims.goodDesc
  decide +kernel

/-- R273: a meeting that has ended for a member, with and without a cause. -/
theorem wit_tileForms_ended : [none, some (0x6C : BitVec 8)].all (fun q =>
    ((sTile shape).onShare (fun h => { h with bdone := [⟨0, q, none⟩] })).share.bdone.find? (fun v => v.rank == 0) == some ⟨0, q, none⟩) = true := by decide +kernel

/-- R118, R397: a meeting that met data in error. -/
def sBad : State := (sTile shape).onShare (fun h => { h with bdone := [⟨0, some 0xC1, some ⟨0x210000000000, 3, 1⟩⟩] })
theorem wit_tileForms_ended_memory : sBad.share.bdone.find? (fun v => v.rank == 0) = some ⟨0, some 0xC1, some ⟨0x210000000000, 3, 1⟩⟩ := by decide +kernel

/-- A multiply form of undeclared widths takes cause 0x6D, of a descriptor that is not set 0x6F, of too few lines 0x6E; one
that passes is queued (R274). -/
theorem test_tile_forms : after (exec (.tlMma 0 1 2) (sTile 0x4000030002)) (fun t => t.core.sys.cause) = some 0x6D
    ∧ after (exec (.tlMma 0 1 3) (sTile shape)) (fun t => t.core.sys.cause) = some 0x6F
    ∧ after (exec (.tlMma 0 1 2) (sTile 0x0042004000040002)) (fun t => t.core.sys.cause) = some 0x6E
    ∧ after (exec (.tlMma 0 1 2) (sTile shape)) (fun t => (t.core.tile.queue.length, t.core.pc)) = some (1, 4) := by decide +kernel

/-- The engine at rest and at work on a multiply form, and at a line of a tl.ldp. -/
def sEng (i : Instr) (running : Bool) (tprog : Word) : State :=
  (sTile shape [entry i] (fun t => { t with running := running, tprog := tprog })).onCore (fun c => { c with wait := some .tileLine })

/-- R274, R275: a form begins, and a K step. -/
theorem wit_tileEngine_multiply : [Instr.tlMma 0 1 2, .tlMmz 0 1 2, .tlMms 0 1 2].all (fun i =>
    decode (entry i).word |>.toOption |> (· == some i)) = true
    ∧ (sEng (.tlMma 0 1 2) false 0).core.tile.queue = [entry (.tlMma 0 1 2)] ∧ (sEng (.tlMma 0 1 2) false 0).core.tile.tprog.getLsbD 63 = false
    ∧ 0 < (tsK shape + 63) / 64
    ∧ (sEng (.tlMma 0 1 2) true 0x8090000000000000).core.tile.running = true ∧ tpStep (sEng (.tlMma 0 1 2) true 0x8090000000000000).core.tile.tprog < (tsK shape + 63) / 64 := by
  decide +kernel

/-- R118, R274: a K step whose data can be read, and one of a quarantined frame outside a handler. -/
theorem wit_tileEngine_data : (sEng (.tlMma 0 1 2) true 0x8090000000000000).dev.badBytes = [] ∧ (sEng (.tlMma 0 1 2) true 0x8090000000000000).dev.quarantine = []
    ∧ (sEng (.tlMma 0 1 2) true 0x8090000000000000).dev.softBytes = []
    ∧ (let s := sEng (.tlMma 0 1 2) true 0x8090000000000000
       let t := { s with dev := { s.dev with quarantine := [0x21000000] } }
       (match t.touchSpans (Claims.stepSpans t.core.tile 1 2 0) .lread with
         | .error (.fault m) => m.cause == 0xC4
         | _ => false) = true ∧ t.core.sys.nest = false
        ∧ after (exec .tileKStepComplete t) (fun u => (u.core.sys.cause, u.core.tile.running)) = some (0xC4, false)) := by
  decide +kernel

/-- R274, R275: a form whose TPROG stands at step 0 of its own or of none, one of K = 0, and an accumulator in error that the
step reads, and that the first step of tl.mmz does not. -/
def sEng0 (i : Instr) (ts tprog : Word) (running : Bool) (lost : List RegName := []) : State :=
  (sTile ts [entry i] (fun t => { t with running := running, tprog := tprog, acc := t.acc.set 0 (BitVec.allOnes 983040) })).onCore
    (fun c => { c with regErr := lost })
theorem wit_tileEngine_starts :
    (let T := (sEng0 (.tlMms 0 1 2) shape 0xA090000000000000 false).core.tile
     T.tprog.getLsbD 63 = true ∧ T.tprog.extractLsb' 59 5 = (1#1 ++ BitVec.ofNat 3 2 ++ 0#1 : BitVec 5) ∧ T.tprog.extractLsb' 51 8 = (1#4 ++ 2#4 : BitVec 8)
      ∧ tpStep T.tprog < (tsK T.tshape + 63) / 64 ∧ T.running = false)
    ∧ (let s := sEng0 (.tlMmz 0 1 2) 0x0042000000030002 0 false
       (tsK s.core.tile.tshape + 63) / 64 = 0 ∧ (s.focus s.ev.c).exitBad = false ∧ s.core.tile.running = false)
    ∧ (let s := sEng0 (.tlMma 0 1 2) shape 0x8090000000000000 true [.acc 0]
       .acc 0 ∈ (s.focus s.ev.c).core.regErr ∧ tpStep s.core.tile.tprog = 0)
    ∧ (let s := sEng0 (.tlMmz 0 1 2) shape 0x9090000000000000 true [.acc 0]
       tpStep s.core.tile.tprog = 0 ∧ s.core.tile.running = true) := by decide +kernel

/-- With K = 0 tl.mmz clears the sub-block alone, of 2 by 3; an accumulator in error takes cause 0xC3 and counts (R119, R274). -/
theorem test_engine_starts : after (exec .tileFormExecute (sEng0 (.tlMmz 0 1 2) 0x0042000000030002 0 false)) (fun t =>
      [0, 2, 160, 3].map (fun q => ((getF 64 (rget t.core.tile.acc (0 : BitVec 1)) q : Word) == 0))) = some [true, true, true, false]
    ∧ after (exec .tileKStepComplete (sEng0 (.tlMma 0 1 2) shape 0x8090000000000000 true [.acc 0])) (fun t => (t.core.sys.cause, t.core.sys.epc, t.dev.ecccnt)) = some (0xC3, 0x40, 1)
    ∧ after (exec .tileKStepComplete (sEng0 (.tlMmz 0 1 2) shape 0x9090000000000000 true [.acc 0])) (fun t => t.core.sys.cause) = some 0 := by decide +kernel

/-- A K step in error traps at its form: EPC and g16 as they stood there, nothing queued (R275, R398). -/
theorem test_k_fault : (let s := sEng (.tlMma 0 1 2) true 0x8090000000000000
    after (exec .tileKStepComplete { s with dev := { s.dev with quarantine := [0x21000000] } }) (fun u => (u.core.sys.epc, u.g 16, u.core.tile.queue.length))) = some (0x40, 7, 0) := by
  decide +kernel

/-- R275, R276: a line that goes through, the last of a form and one before it, and a line that faults. -/
theorem wit_tileEngine_lines :
    (let s := sEng (.tlLdp 1 9 12 0) true 0xB080000000000000
     (decode (entry (.tlLdp 1 9 12 0)).word).toOption = some (.tlLdp 1 9 12 0) ∧ tileKey (.tlLdp 1 9 12 0) = some (3, 0, 1, 0) ∧ s.core.wait = some .tileLine
      ∧ (({ s with core := { s.core with tile := { s.core.tile with queue := [] } } } : State).tileLine (entry (.tlLdp 1 9 12 0)) (.tlLdp 1 9 12 0) 0).toOption.isSome = true
      ∧ 0 + 1 < ((entry (.tlLdp 1 9 12 0)).lines (.tlLdp 1 9 12 0)).2 ∧ ((entry (.tlLdp 1 9 12 0)).lines (.tlLdp 1 9 12 0)).2 ≤ 1 + 1)
    ∧ (let s := sEng (.tlLdp 1 9 12 0) true 0xB080000000000000
       match failure (({ s with core := { s.core with tile := { s.core.tile with queue := [] } } } : State).tileLine { entry (.tlLdp 1 9 12 0) with ga := 0xC000000000 } (.tlLdp 1 9 12 0) 0) with
       | some (.access _ (.fault _)) => true
       | _ => false) = true := by decide +kernel

/-- R276: the conditions of tl.ext and tl.extr. -/
theorem wit_tileEngine_extract : let s := sTile shape
    (s.vop 2).tag.isFloat = true ∧ s.core.vec.n ≤ (s.vop 2).cap ∧ 4 + s.core.vec.n ≤ (tsSub shape).1 * (tsSub shape).2 ∧ s.core.tile.queue = []
    ∧ (4 : Word).extractLsb' 16 48 = 0#48 ∧ (Ctl.ofCode ((0x1000000000000000 : Word).extractLsb' 60 4)).isSome = true
    ∧ (0x1000000000000000 : Word).getLsbD 62 = false ∧ (0x4000000000000000 : Word).getLsbD 62 = true := by decide +kernel

/-- Two members that stand in broadcasts: core 0 and core 1 of a gang, with word x and y. -/
def sBc (x y : Instr) (p q : BitVec 4 := 0) : State :=
  let t (c : Core) (r : Nat) : Core := { c with
    gang := some 0, rank := r, run := .running
    tile := { c.tile with
      tshape := 0x0242004000030002 ||| BitVec.ofNat 64 (r * 2 ^ 60), tda := c.tile.tda.set 1 0x0004040080000000, tdb := c.tile.tdb.set 1 0x0001000400000003 } }
  let s := (base.onCore (fun c => t c 0)).mapCore (numbered 1) (fun c => t c 1)
  { s with gangs := [⟨0, 0, 0, [0, 1], 0, 0, [], none,
    { GangShare.reset with
      bcast := [⟨0, x.word32, 1⟩, ⟨1, y.word32, 1⟩]
      bhist := (GangShare.reset.bhist.set 0 ⟨0, [(p, 0)], false⟩).set 1 ⟨0, [(q, 0)], false⟩ }⟩] }

/-- Members that agree, and members that do not. -/
def sBc1 : State := (sBc (.tlBcast 1 5 0) (.tlBcast 1 6 0)).focus 0
def sBc2 : State := (sBc (.tlBcast 1 5 0) (.tlBcast 2 6 0)).focus 0

/-- Members that name unlike p. -/
def sBc3 : State := (sBc (.tlBcast 1 5 1) (.tlBcast 1 6 0) 1 0).focus 0

/-- R273: a meeting whose members agree. -/
theorem wit_broadcastMeeting : sBc1.bcastDue = some (.meet [0, 1])
    ∧ [0, 1].all (fun q => (sBc1.share.bcast.find? (fun y => y.rank == q)).bind sBc1.bcastKey == some (1, 0, 1, 4, 1, 3)) = true
    ∧ [0, 1][(1 : Word).toNat]? = some 1 ∧ (sBc1.memberAt 1).isSome = true ∧ sBc1.memOk ∧ sBc1.dev.badBytes = [] ∧ sBc1.dev.quarantine = []
    ∧ [0, 1].all (fun q => match sBc1.memberAt q with
        | some c => rget c.tile.tda (1 : BitVec 4) == 0x0004040080000000 && rget c.tile.tdb (1 : BitVec 4) == 0x0001000400000003
        | none => false) = true := by
  unfold State.memOk
  decide +kernel

/-- R273: a meeting whose members do not agree. -/
theorem wit_broadcastMeeting_differs : sBc2.bcastDue = some (.meet [0, 1])
    ∧ ∀ k : BitVec 4 × BitVec 4 × Word × Nat × Nat × Nat,
        ¬ ((∀ q ∈ [0, 1], (sBc2.share.bcast.find? (fun y => y.rank == q)).bind sBc2.bcastKey = some k) ∧ k.2.2.1.toNat < [0, 1].length) := by
  refine ⟨by decide +kernel, fun k h => ?_⟩
  have h0 := h.1 0 (by simp)
  have h1 := h.1 1 (by simp)
  exact absurd (h0.trans h1.symm) (by decide +kernel)

/-- R273, R279: a group that has all come and names unlike p, and the ranks that fail; a group of one p. -/
theorem wit_broadcastMeeting_fails :
    (sBc3.share.bcast.find? (fun z => z.rank == sBc3.core.rank) = some ⟨0, (Instr.tlBcast 1 5 1).word32, 1⟩
      ∧ sBc3.bcastCome ⟨0, (Instr.tlBcast 1 5 1).word32, 1⟩ = true ∧ sBc3.bcastClash ⟨0, (Instr.tlBcast 1 5 1).word32, 1⟩ = true
      ∧ (sBc3.groupOf ⟨0, (Instr.tlBcast 1 5 1).word32, 1⟩).contains 0 = true ∧ sBc3.bcastDue = some (.fail [0, 1]))
    ∧ (sBc1.share.bcast.find? (fun z => z.rank == sBc1.core.rank) = some ⟨0, (Instr.tlBcast 1 5 0).word32, 1⟩
      ∧ (∀ z ∈ sBc1.share.bcast, sBc1.bcastClash z = false)
      ∧ (sBc1.groupOf ⟨0, (Instr.tlBcast 1 5 0).word32, 1⟩).all (fun q => sBc1.share.bcast.any (fun z => z.rank == q && z.p == 0)) = true) := by
  decide +kernel

/-- Both take cause 0x6C (R279). -/
theorem test_broadcast_fails : after (exec .tlBcastMeet sBc3) (fun t => t.share.bdone) = some [⟨0, some 0x6C, none⟩, ⟨1, some 0x6C, none⟩] := by
  decide +kernel

/-- The members' descriptor lies as R267 asks. -/
theorem wit_broadcastMeeting_layout : Claims.laidOut 0x0004040080000000 0x0001000400000003 := by
  unfold Claims.laidOut Claims.goodDesc
  dsimp only
  decide +kernel

/-! ## Streams, ports and circular buffers -/

/-- Operands of the stream forms: near operands g1 to g7, good parameters at g8 (4 elements of 4 bytes), a count of 0 at
g12, an unknown near format at g16; rings 3 (64-byte slots), 5 (not configured), 6 (slots of 65 bytes). -/
def sXs (n : Nat) (cmds : List Cmd := []) : State :=
  st [(1, 0x1FFFF0), (2, 0x1FFFF4), (3, 0x400000), (4, 0x8000000000000003), (5, 0x8000000000000005), (6, 0x0000000000010203),
      (7, 0xFF80000000001000), (8, 0x0000000100010004), (11, 0x10800), (12, 0x0000000100010000), (16, 0x0000000100010004), (19, 0x12C00),
      (20, 0x8000000000000006), (22, 0x8000000000001000)]
    (fun c => vec n [] [] { c with cmds := cmds, port := { c.port with cbcfg := (c.port.cbcfg.set 3 0x0000100000020040).set 6 0x0000100000020041 } })

/-- R141 to R148: each class of near operand at its limit, parameters that are not well formed, and a full order. -/
theorem wit_streamForms :
    [(.ld : StreamKind), .st, .gth, .sct, .cp].all (fun k => (Claims.streamForms (sXs 4) 1 1 8 0 2 3).any (fun f => f.2.1 == k)) = true
    ∧ (let s := sXs 4
       let g3 := s.g 11
       (s.g 8).extractLsb' 48 16 = 0#16 ∧ g3.extractLsb' 0 10 = 0#10 ∧ ((s.g 8).extractLsb' 0 16).toNat = 4 ∧ Claims.fmtBytes (g3.extractLsb' 15 5) = some 4
        ∧ Claims.fmtBytes (g3.extractLsb' 10 5) = some 4 ∧ g3.getLsbD 22 = false ∧ g3.extractLsb' 15 5 = g3.extractLsb' 10 5 ∧ g3.extractLsb' 24 8 = 0#8
        ∧ s.core.vec.n = 4 ∧ (s.g 1).toNat + 4 * 4 = 2 ^ 21 ∧ 2 ^ 21 < (s.g 2).toNat + 4 * 4 ∧ (s.g 3).extractLsb' 22 41 ≠ 0#41
        ∧ (s.g 4).extractLsb' 3 60 = 0#60 ∧ cbSlot (s.cbCfg 3) % 4 = 0 ∧ cbCount (s.cbCfg 3) ≠ 0 ∧ cbCount (s.cbCfg 5) = 0 ∧ cbSlot (s.cbCfg 6) % 4 ≠ 0
        ∧ (s.g 6).extractLsb' 32 31 = 0#31 ∧ (s.g 6).extractLsb' 11 5 = 0#5 ∧ (s.g 7).extractLsb' 56 7 = 0x7F#7 ∧ (s.g 22).extractLsb' 56 7 = 0#7
        ∧ ((s.g 12).extractLsb' 0 16).toNat = 0 ∧ Claims.fmtBytes ((s.g 19).extractLsb' 10 5) = none ∧ s.core.tile.queue = [] ∧ s.core.streams < 16)
    ∧ 16 ≤ (sXs 4 (List.replicate 16 (.stream (cmd0 1)))).core.streams ∧ ¬ (sXs 5).core.vec.n ≤ 4 := by decide +kernel

/-- A window at the end of the scratchpad is admitted, one word further takes cause 0x64; a ring that is not configured 0x67;
a count of 0 takes 0x60 (R144 to R146). -/
theorem test_stream_forms : after (exec (.xsLd 1 1 8 0 2) (sXs 4)) (fun t => (t.core.cmds.length, t.core.pc)) = some (1, 4)
    ∧ after (exec (.xsLd 2 1 8 0 2) (sXs 4)) (fun t => t.core.sys.cause) = some 0x64 ∧ after (exec (.xsSt 5 1 8 0 2) (sXs 4)) (fun t => t.core.sys.cause) = some 0x67
    ∧ after (exec (.xsLd 1 1 12 0 2) (sXs 4)) (fun t => t.core.sys.cause) = some 0x60 := by decide +kernel

/-- A command of port 1 alone in the order, and the port's registers. -/
def sEl (c : StreamCmd) (x w : Word) (b : Byte := 0x42) : State :=
  { st [] (fun k => { k with cmds := [.stream c], port := { k.port with xstat := k.port.xstat.set 1 x, chwin := k.port.chwin.set 1 w } })
    with mem := [(0x1000, b), (0x210000000040, 0x17)], ev := { base.ev with c := 0, p := 1 } }

/-- The command: 4 words from address 0x1000 into a window at 0x40. -/
def ldCmd : StreamCmd := { cmd0 1 with near := .window 0x40, base := 0x1000 }

/-- R152, R158: a command that starts, with E = 4 and E = 0, into a window and a ring. -/
theorem wit_streamStarts : [ldCmd, { ldCmd with exp := 0 }, { ldCmd with near := .ring 3 }].all (fun c =>
    let s := sEl c 0 0
    let f := s.focus s.ev.c
    f.core.cmds == [] ++ .stream c :: [] && c.port == s.ev.p && !c.active && xState (f.xstat c.port) != stError && xState (f.xstat c.port) != stOverfill
      && !(f.xstat c.port).getLsbD 51 && f.core.cmds.all (fun x => match x with
        | .stream z => !z.active
        | .sloe _ => true)) = true := by decide +kernel

/-- The command after its start: one element of four moved. -/
def actCmd (k : StreamKind) (far : Word) (op : BitVec 4 := 0) (b0 : BitVec 16 := 4) : StreamCmd :=
  { ldCmd with kind := k, active := true, next := 1, moved := [(0, 0)], base := far, op := op, b0 := b0, b1 := 1 }

/-- Element 1 of a load, of a load outside its bounds, of a store, and of a load from a hole. -/
def sE1 : State := sEl (actCmd .ld 0xFFC) 0x2080000400010000 (chWord 0x44 0x40)
def sE2 : State := sEl (actCmd .ld 0xFFC 8 1) 0x2080000400010000 (chWord 0x44 0x40)
def sE3 : State := sEl (actCmd .st 0xFFC) 0x3080000400010000 (chWord 0x44 0x40)
def sE4 : State := sEl (actCmd .ld 0xC000000000) 0x2080000400010000 (chWord 0x44 0x40)

/-- The conditions of every claim about an element. -/
def plain (s : State) (c : StreamCmd) : Prop := Claims.plainStream (s.focus s.ev.c) c [] [] 0x40 ∧ c.port = s.ev.p ∧ (s.focus s.ev.c).memOk

/-- R146 to R154: each kind of element. -/
theorem wit_streamElements : plain sE1 (actCmd .ld 0xFFC) ∧ plain sE2 (actCmd .ld 0xFFC 8 1) ∧ plain sE3 (actCmd .st 0xFFC)
    ∧ plain sE4 (actCmd .ld 0xC000000000) := by
  refine ⟨?_, ?_, ?_, ?_⟩ <;> (unfold plain Claims.plainStream State.memOk; refine ⟨⟨by rfl, by simp, ?_⟩, ?_⟩ <;> decide +kernel)

/-- Where the elements lie: inside and outside the bounds, reached and not. -/
theorem wit_streamElements_access :
    ((actCmd .ld 0xFFC).inside 1 0 = true ∧ (reach (sE1.focus 0) [] plSup .xread (BitVec.ofInt 64 ((actCmd .ld 0xFFC).farInt 1)) 4).toOption = some ⟨0x1000, none, none⟩)
    ∧ (actCmd .ld 0xFFC 8 1).inside 1 0 = false
    ∧ ((actCmd .st 0xFFC).inside 1 0 = true ∧ (sE3.focus 0).dataFault .xread 0x210000000044 4 = none
        ∧ (reach ((sE3.focus 0).correct 0x210000000044 4) [] plSup .xwrite (BitVec.ofInt 64 ((actCmd .st 0xFFC).farInt 1)) 4).toOption = some ⟨0x1000, none, none⟩)
    ∧ (match failure (reach (sE4.focus 0) [] plSup .xread (BitVec.ofInt 64 ((actCmd .ld 0xC000000000).farInt 1)) 4) with
        | some (.fault m) => m.cause == 0x28
        | _ => false) = true ∧ (⟨0x1000, none, none⟩ : Xl).plain = true ∧ (⟨0x1000, none, none⟩ : Xl).attr pteCS = false := by decide +kernel

/-- The start makes the port ACTIVE with EXP 4; element 1 lands at its place, and CNT is 2; a hole makes the port ERROR with
FELEM 1 and cause 0x28 (R152, R157). -/
theorem test_streams : after (exec .streamStart (sEl ldCmd 0 0)) (fun t => t.xstat 1) = some 0x2080000400000000
    ∧ after (exec .streamElementComplete sE1) (fun t => (t.xstat 1, t.chwin 1, t.byteAt 0x210000000044)) = some (0x2080000400020000, chWord 0x48 0x40, 0x42)
    ∧ after (exec .streamElementComplete sE4) (fun t => (xState (t.xstat 1), xFelem (t.xstat 1), t.xfault 1)) = some (stError, 1, 0x280000C000000004) := by decide +kernel

/-- The command of sE1 with element 3, of the same group of 16, performed before element 1 (R171): it lands in its place and CNT stays. -/
theorem test_stream_ahead : let s := { sE1 with ev := { sE1.ev with chunk := 2 } }
    (0 < 2 ∧ 1 + 2 < (4 : BitVec 16).toNat ∧ (1 + 2) / 16 = 1 / 16 ∧ (actCmd .ld 0xFFC).inside 3 0 = true
      ∧ (reach (s.focus 0) [] plSup .xread (BitVec.ofInt 64 ((actCmd .ld 0xFFC).farInt 3)) 4).toOption = some ⟨0x1008, none, none⟩
      ∧ (s.focus 0).dataFault .xwrite 0x21000000004C 4 = none)
    ∧ after (exec .streamElementComplete { s with mem := [(0x1008, 0x99), (0x210000000040, 0x17)] }) (fun t => (t.xstat 1, t.byteAt 0x21000000004C, t.byteAt 0x210000000044))
      = some (0x2080000400010000, 0x99, 0) := by decide +kernel

/-- A leaf for page 0x40000000, 64 KiB at a physical page, with bits of the caller, in the cache; translation on. -/
def paged (s : State) (leaf : Word) : State :=
  (s.onCore (fun c => { c with tlb := [⟨0, 0, 4, 0x40000000, leaf⟩] })).onCtx 0 (fun c => { c with atroot := 1 })

/-- What holds of a result, if there is one. -/
def okAnd {α β : Type} (e : Except α β) (f : β → Bool) : Bool := match e with
  | .ok x => f x
  | .error _ => false

/-- The stop of a far read, without the state that it leaves. -/
def stopped {σ β : Type} (e : Except (σ × Stop) β) : Except Stop β := e.mapError Prod.snd

/-- The cause of a fault of an access. -/
def causeOf {β : Type} (e : Except Stop β) : Option (BitVec 8) := match e with
  | .error (.fault m) => some m.cause
  | _ => none

/-- A gather: element 1 takes index 2, or 9 outside a bound of 4, from 0x2004; a copy from offset 0x100 of the core's own scratchpad. -/
def gthCmd : StreamCmd := { actCmd .gth 0x1000 8 4 with s1 := 0x2000, b1 := 0 }
def cpCmd (base : Word) : StreamCmd := { actCmd .cp base with near := .window 0x40, op := 0 }
def sGth (i : Byte) : State := { st [] with mem := [(0x1008, 0x55), (0x2004, i), (0x210000000104, 0x66)] }
def sCpW (x : Word) : State := (sGth 2).onCore (fun c => { c with port := { c.port with
  xstat := c.port.xstat.set 2 x, chwin := c.port.chwin.set 2 (chWord 0x100 0x100) } })

/-- R146, R147, R153: each kind of far read at an element inside and outside its bounds, what it gives, and each stop of a copy. -/
theorem wit_farReads :
    (gthCmd.kind = .gth ∧ gthCmd.dc = false ∧ gthCmd.inside 1 2 = true ∧ gthCmd.inside 1 9 = false
      ∧ (reach (sGth 2) [] plSup .xread (gthCmd.s1 + 4) 4).toOption = some ⟨0x2004, none, none⟩
      ∧ (reach (sGth 2) [] plSup .xread (gthCmd.base + BitVec.ofInt 64 (2 * 4)) 4).toOption = some ⟨0x1008, none, none⟩
      ∧ (⟨0x2004, none, none⟩ : Xl).plain = true ∧ (⟨0x2004, none, none⟩ : Xl).attr pteCS = false)
    ∧ (okAnd (farRead (sGth 2) [] gthCmd 1) (fun f => f.raw == 0x55 && f.inside && f.bytes == [0x55, 0, 0, 0] && f.c == gthCmd)
      && okAnd (farRead (sGth 9) [] gthCmd 1) (fun f => f.raw == 0 && !f.inside && f.bytes == [] && f.c == gthCmd)) = true
    ∧ ((cpCmd 0x100).farInt 1 = 0x104 ∧ (sGth 2).core.port.window 0x104 4 false = .ok ∧ (sGth 2).dataFault .xread 0x210000000104 4 = none
      ∧ okAnd (farRead (sGth 2) [] (cpCmd 0x100) 1) (fun f => f.raw == 0x66 && f.inside) = true)
    ∧ (causeOf (stopped (farRead (sGth 2) [] (cpCmd 0x102) 1)) = some 0x2A ∧ causeOf (stopped (farRead (sGth 2) [] (cpCmd 0x1FFFFC) 1)) = some 0x64)
    ∧ ((sCpW 0xA080000400000000).core.port.window 0x104 4 false = .failed 2 ∧ causeOf (stopped (farRead (sCpW 0xA080000400000000) [] (cpCmd 0x100) 1)) = some 0x63)
    ∧ ((sCpW 0x2080000400000000).core.port.window 0x104 4 false = .stall
      ∧ failure (stopped ((farRead (sCpW 0x2080000400000000) [] (cpCmd 0x100) 1).map (fun f => f.raw))) = some (.wait .watermark)) := by
  decide +kernel

/-- The order of a transposed element: element 1 of 2 by 2 goes to near index 2 (R146). -/
theorem test_near_index : ({ actCmd .ld 0x1000 4 with c0 := 2, c1 := 2 } : StreamCmd).nearIx 1 = 2
    ∧ ({ actCmd .ld 0x1000 with c0 := 2, c1 := 2, s1 := 0x100 } : StreamCmd).farInt 3 = 0x1104 := by decide +kernel

/-- Compressed rows of 64 elements at page 0x40000000, which has CS = 1: the mask names elements 0 and 63; the words stand at 8 and 12. -/
def dcCmd (e : Nat) (addr mask : Word) : StreamCmd :=
  { actCmd .ld 0x40000000 1 with c0 := 64, exp := 64, next := e, moved := (List.range e).map (fun i => (i, 0)), dcAddr := addr, dcMask := mask }
def sDc (mem : List (Nat × Byte)) (leaf : Word := 0x009000000001000F) : State := paged { st [] with mem := mem } leaf
def dcMem : List (Nat × Byte) := [(0x10000, 1), (0x10007, 0x80), (0x10008, 0x21), (0x1000C, 0x22)]

/-- R105, R150: the first element with its mask, one that is not stored, the last with and without padding, a byte of padding that is
not zero, a row that is not aligned, a page without CS. -/
theorem wit_sparseReads : (dcCmd 0 0 0).dc = true
    ∧ [(0x40000000, 8, 0x10000), (0x40000008, 4, 0x10008), (0x4000000C, 4, 0x1000C)].all (fun p =>
        (reach (sDc dcMem) [] plSup .xread (BitVec.ofNat 64 p.1) p.2.1).toOption == some ⟨p.2.2, some 0x009000000001000F, none⟩) = true
    ∧ (⟨0x10000, some 0x009000000001000F, none⟩ : Xl).plain = true ∧ (⟨0x10000, some 0x009000000001000F, none⟩ : Xl).attr pteCS = true
    ∧ okAnd (farRead (sDc dcMem) [] (dcCmd 0 0 0) 0) (fun f => f.raw == 0x21 && f.c.dcAddr == 0x4000000C && f.c.dcMask == 0x8000000000000001) = true
    ∧ okAnd (farRead (sDc dcMem) [] (dcCmd 1 0x4000000C 0x8000000000000001) 1) (fun f => f.raw == 0 && f.c.dcAddr == 0x4000000C) = true
    ∧ okAnd (farRead (sDc dcMem) [] (dcCmd 63 0x4000000C 0x8000000000000001) 63) (fun f => f.raw == 0x22 && f.c.dcAddr == 0x40000010) = true
    ∧ okAnd (farRead (sDc dcMem) [] (dcCmd 63 0x40000014 1) 63) (fun f => f.raw == 0 && f.c.dcAddr == 0x40000018) = true
    ∧ causeOf (stopped (farRead (sDc (dcMem ++ [(0x10016, 1)])) [] (dcCmd 63 0x40000014 1) 63)) = some 0x65
    ∧ causeOf (stopped (farRead (sDc dcMem) [] { dcCmd 0 0 0 with base := 0x40000004 } 0)) = some 0x2A
    ∧ causeOf (stopped (farRead (sDc dcMem 0x001000000001000F) [] (dcCmd 0 0 0) 0)) = some 0x2B := by decide +kernel

/-- Ring 2 of four slots of 8 bytes at offset 0x40, with counters; a load-data queue that holds one element. -/
def sNear (r : RingCnt) : State :=
  { st [] (fun c => { c with port := { c.port with
      cbcfg := c.port.cbcfg.set 2 0x0000004000040008, cbstat := c.port.cbstat.set 2 r.word
      xstat := rset c.port.xstat (9 : BitVec 4) 0x2080000400010000 } }) with mem := [(0x210000000044, 0x77), (0x21000000005C, 0x78)] }
def nearCmd (n : Near) (p : BitVec 4 := 1) : StreamCmd := { actCmd .ld 0x1000 with near := n, port := p, moved := [(0, 0xAA)] }

/-- R148, R164: a window, a slot that is held, one that is taken, a ring with none to give, a queue, a region, a message; each
written, and read where it can be. -/
theorem wit_nearSides :
    (let s := sNear ⟨4, 0, 0, 0, 3, 3⟩
     s.memOk ∧ cbSlot (s.cbCfg 2) = 8 ∧ (s.ringCnt 2).free = 4 ∧ (s.ringCnt 2).head = 3 ∧ s.dataFault .xwrite 0x21000000005C 4 = none
      ∧ (reach s [] plSup .xwrite (0x2004 : Word) 4).toOption = some ⟨0x2004, none, none⟩)
    ∧ (okAnd (nearWrite (sNear ⟨4, 0, 0, 0, 3, 3⟩) [] (nearCmd (.window 0x40)) 1 1 0x1234) (fun t => t.1.byteAt 0x210000000044 == 0x34 && t.1.byteAt 0x210000000045 == 0x12)
      && okAnd (nearRead (sNear ⟨4, 0, 0, 0, 3, 3⟩) [] (nearCmd (.window 0x40)) 1) (fun h => h.1 == 0x77)
      && okAnd (nearWrite (sNear ⟨4, 0, 0, 0, 3, 3⟩) [] (nearCmd (.ring 2)) 1 1 0x1234) (fun t => t.1.byteAt 0x21000000005C == 0x34 && t.2.slots == [3])
      && okAnd (nearWrite (sNear ⟨3, 0, 0, 1, 0, 3⟩) [] { nearCmd (.ring 2) with slots := [3] } 1 1 0x1234) (fun t => t.1.byteAt 0x21000000005C == 0x34 && t.2.slots == [3])
      && okAnd (nearRead (sNear ⟨0, 4, 0, 0, 3, 3⟩) [] { nearCmd (.ring 2) with kind := .st } 1) (fun h => h.1 == 0x78 && h.2.2.slots == [3])
      && okAnd (nearWrite (sNear ⟨4, 0, 0, 0, 0, 0⟩) [] (nearCmd .queue 9) 1 1 0xBB) (fun t => rget t.1.core.port.ldq (1 : BitVec 2) == [0xAA, 0xBB] && xCnt (t.1.xstat 9) == 2)
      && okAnd (nearWrite (sNear ⟨4, 0, 0, 0, 0, 0⟩) [] (nearCmd (.region 0x2000) 12) 1 1 0x1234) (fun t => t.1.byteAt 0x2004 == 0x34)
      && okAnd (nearRead (sNear ⟨4, 0, 0, 0, 0, 0⟩) [] (nearCmd (.region 0x210000000040) 12) 1) (fun h => h.1 == 0x77)
      && okAnd (nearWrite (sNear ⟨4, 0, 0, 0, 0, 0⟩) [] (nearCmd (.remote 1 2 0) 12) 1 1 0x1234) (fun t => t.2.sends == [(1, 0x1234)])) = true
    ∧ failure ((nearWrite (sNear ⟨0, 4, 0, 0, 0, 0⟩) [] (nearCmd (.ring 2)) 1 1 0).map (fun _ => ())) = some (.wait .cbAcq)
    ∧ failure ((nearRead (sNear ⟨4, 0, 0, 0, 0, 0⟩) [] { nearCmd (.ring 2) with kind := .st } 1).map (fun _ => ())) = some (.wait .cbAcq) := by
  unfold State.memOk
  decide +kernel

/-- The state that an event of an element leaves, where it goes on. -/
def doneAs (s : State) (c : StreamCmd) (t : State × StreamCmd) : Bool := match exec .streamElementComplete s with
  | .next u =>
    let v := if t.2.exp.toNat ≤ t.2.next ∧ t.2.sends = [] then t.1.finishStream t.2 else t.1.putCmd c.port (.stream t.2)
    u.mem == v.mem && u.core.cmds == v.core.cmds && u.xstat 1 == v.xstat 1
  | _ => false

/-- R149 to R151: a filling element, one that faults, an emptying one inside and outside its bounds. -/
theorem wit_elementSteps :
    (let f := sE1.focus 0
     let c := actCmd .ld 0xFFC
     f.core.cmds = [] ++ .stream c :: [] ∧ c.empties = false ∧ c.ahead = [] ∧ c.next < c.exp.toNat
      ∧ okAnd (farRead f [] c 1) (fun x => okAnd (nearWrite (x.s.portFlags 1 (c.convert c.ffmt c.nfmt c.sc.toInt x.raw).2) []
          { x.c with srcCrc := crcRun x.c.srcCrc x.bytes, next := 2 } 1 1 (BitVec.ofNat 64 (c.convert c.ffmt c.nfmt c.sc.toInt x.raw).1)) (fun t => t.2.ahead.isEmpty && doneAs sE1 c t)) = true)
    ∧ causeOf (stopped (farRead (sE4.focus 0) [] (actCmd .ld 0xC000000000) 1)) = some 0x28
    ∧ (let f := sE3.focus 0
       let c := actCmd .st 0xFFC
       c.empties = true ∧ okAnd (streamIndex f [] c 1) (fun g => okAnd (nearRead g.2 [] c 1) (fun h =>
        okAnd (store h.2.1 [] c.pl .xwrite c.seq 1 (c.far 1 g.1) 4 (BitVec.ofNat 64 h.1)) (fun w =>
          doneAs sE3 c ((w.portFlags 1 0).landed { h.2.2 with next := 2, dstCrc := crcRun h.2.2.dstCrc (toBytes 4 h.1) } 1 (BitVec.ofNat 64 h.1))))) = true)
    ∧ (let s := sEl (actCmd .st 0xFFC 8 1) 0x3080000400010000 (chWord 0x44 0x40)
       let c := actCmd .st 0xFFC 8 1
       c.inside 1 0 = false ∧ okAnd (nearRead (s.focus 0) [] c 1) (fun h => doneAs s c ((h.2.1.portFlags 1 0).landed { h.2.2 with next := 2 } 1 (BitVec.ofNat 64 h.1))) = true) := by
  decide +kernel

/-- A transposing stream of 2 by 2 words and a ring of four slots, of which element 0 has passed the first; the same with two
elements that wait for their turns. -/
def trCmd (k : StreamKind) (next : Nat := 1) (sends : List (Nat × Word) := []) : StreamCmd :=
  { actCmd k 0x1000 4 with near := .ring 2, c0 := 2, c1 := 2, s1 := 8, b1 := 4, next := next, moved := [(0, 1)], slots := [0], filled := 1, sends := sends }
def sTrr (c : StreamCmd) (cnt : RingCnt) (frame : List Nat := []) : State :=
  let s := st [] (fun k => { k with cmds := [.stream c], port := { k.port with
      cbcfg := k.port.cbcfg.set 2 0x0000004000040004, cbstat := k.port.cbstat.set 2 cnt.word
      xstat := k.port.xstat.set 1 0x2080000400010000 } })
  { s with mem := [(0x1000, 1), (0x1004, 2), (0x1008, 3), (0x100C, 4), (0x210000000044, 7)], ev := { base.ev with c := 0, p := 1 }, dev := { s.dev with quarantine := frame } }

/-- Counters of a ring that a producer, or a consumer, is using. -/
def cntP : RingCnt := ⟨3, 1, 0, 0, 1, 0⟩
def cntC : RingCnt := ⟨1, 3, 0, 0, 0, 1⟩

/-- R146, R164: what a transposing producer and consumer do next: the far element 1, whose near element is 2, is read; the near
element 1, whose turn it is, takes its slot, meets a quarantined frame, or finds no slot; a consumer reads near element 1, or
writes far element 1. -/
theorem wit_elementSteps_ring :
    (let c := trCmd .ld
     let f := (sTrr c cntP).focus 0
     c.nearIx 1 = 2 ∧ c.lead = 1 ∧ c.sends.find? (fun z => z.1 == c.lead) = none ∧ c.next < c.exp.toNat ∧ c.empties = false ∧ c.tr = true
      ∧ okAnd (farRead f [] c 1) (fun x => x.c.sends == c.sends && x.c.near == c.near && x.c.op == c.op && x.c.ahead.isEmpty && x.inside && x.raw == 2) = true
      ∧ causeOf (stopped (farRead f [] { c with base := 0xC000000000 } 1)) = some 0x28)
    ∧ (let c := trCmd .ld 3 [(2, 2), (1, 3)]
       c.sends.find? (fun z => z.1 == c.lead) = some (1, 3)
        ∧ ((sTrr c cntP).focus 0).dataFault .xwrite 0x210000000044 4 = none
        ∧ (((sTrr c cntP).focus 0).nearTurn c 2 c.lead 3).any (fun t => t.2.slots == [0, 1] && t.2.skip.isEmpty && t.1.byteAt 0x210000000044 == 3) = true
        ∧ ((sTrr c cntP [0x21000000]).focus 0).dataFault .xwrite 0x210000000044 4 = some (0xC4, none)
        ∧ (((sTrr c cntP [0x21000000]).focus 0).nearTurn c 2 c.lead 3).any (fun t => t.2.skip == [(1, 0xC4, 0x210000000044, none)]) = true
        ∧ ((sTrr c ⟨0, 4, 0, 0, 1, 1⟩).focus 0).nearTurn c 2 c.lead 3 = none)
    ∧ (let c := trCmd .st
       c.empties = true ∧ c.sends.find? (fun z => z.1 == c.nearIx c.next) = none
        ∧ (((sTrr c cntC).focus 0).nearTurn c 2 c.lead 0).any (fun t => t.2.sends == [(1, 7)] && t.2.slots == [0, 1]) = true
        ∧ ((sTrr c ⟨4, 0, 0, 0, 1, 1⟩).focus 0).nearTurn c 2 c.lead 0 = none)
    ∧ (let c := trCmd .st 1 [(1, 7), (2, 8)]
       let f := (sTrr c cntC).focus 0
       c.sends.find? (fun z => z.1 == c.nearIx c.next) = some (2, 8)
        ∧ okAnd (streamIndex f [] c 1) (fun x => c.inside 1 x.1 && okAnd (store x.2 [] c.pl .xwrite c.seq 1 (c.far 1 x.1) c.fsz 8) (fun w => w.byteAt 0x1004 == 8)) = true
        ∧ ({ c with op := 12, b0 := 1 } : StreamCmd).inside 1 0 = false) := by decide +kernel

/-- A producer's element that is not next waits; the one whose turn it is goes to the second slot. A consumer writes far element 1
from near element 2 (R146, R164). -/
theorem test_ring_turns :
    after (exec .streamElementComplete (sTrr (trCmd .ld) cntP)) (fun t => (t.ringCnt 2, t.core.cmds)) = some (cntP, [.stream { trCmd .ld 2 [(2, 2)] with srcCrc := crcRun 0 [2, 0, 0, 0] }])
    ∧ after (exec .streamElementComplete (sTrr (trCmd .ld 3 [(2, 2), (1, 3)]) cntP)) (fun t => (t.byteAt 0x210000000044, t.ringCnt 2)) = some (3, ⟨2, 2, 0, 0, 2, 0⟩)
    ∧ after (exec .streamElementComplete (sTrr (trCmd .st 1 [(1, 7), (2, 8)]) cntC)) (fun t => t.byteAt 0x1004) = some 8 := by decide +kernel

/-- A stream from a scratchpad page with WK to channel 2 of core 16, of another cluster, whose state is given. -/
def sFab (st' : Nat) (iso : Bool) (leaf : Word) : State :=
  let s := paged (sEl { actCmd .ld 0x40000FFC with near := .remote 16 2 0, port := 1, moved := [] } 0x2080000400000000 0) leaf
  { s with clusters := s.clusters.set 1 { s.clAt 1 with clpstat := BitVec.ofNat 64 st', isolated := iso } }

/-- R107, R148, R434: an open cluster, an isolated one, a gated one with and without WK. -/
theorem wit_fabricSends :
    clusterOf 16 = 1 ∧ [(0, false, 0), (0, true, 0), (3, false, 0), (3, false, 1)].all (fun p =>
      let leaf : Word := 0x0010210000000007 ||| BitVec.ofNat 64 (p.2.2 * 2 ^ 56)
      let s := sFab p.1 p.2.1 leaf
      let f := s.focus 0
      okAnd (farRead f [] { actCmd .ld 0x40000FFC with near := .remote 16 2 0, port := 1, moved := [] } 1) (fun x => x.wk == (p.2.2 == 1) && x.c == { actCmd .ld 0x40000FFC with near := .remote 16 2 0, port := 1, moved := [] })
        && (f.clAt 1).isolated == p.2.1 && (f.clAt 1).open == (p.1 == 0) && (f.clAt 1).held == []) = true := by decide +kernel

/-- On its way; refused with cause 0x2C; held, and the cluster wakes (R148, R434). -/
theorem test_fabric_sends :
    (let leaf : Word := 0x0010210000000007
     after (exec .streamElementComplete (sFab 0 false leaf)) (fun t => (xState (t.xstat 1), t.core.cmds.length)) = some (stActive, 1)
      ∧ after (exec .streamElementComplete (sFab 0 true leaf)) (fun t => (xState (t.xstat 1), (t.xfault 1).extractLsb' 56 8)) = some (stError, 0x2C#8)
      ∧ after (exec .streamElementComplete (sFab 3 false leaf)) (fun t => (t.xfault 1).extractLsb' 56 8) = some 0x2C#8)
    ∧ after (exec .streamElementComplete (sFab 3 false 0x0110210000000007)) (fun t => (t.clAt 1).held) = some [⟨0, 1⟩] := by decide +kernel

/-- A command with an element on its way to channel 2 of core 1, which is armed for 4 words, or for 1. -/
def sRem (exp : Word) : State :=
  let s := (sEl { cmd0 1 with near := .remote 1 2 0, active := true, next := 2, sends := [(1, 0xABCD)] } 0x2080000400000000 0)
  let s := s.mapCore (numbered 1) (fun c => { c with port := { c.port with xstat := c.port.xstat.set 2 (0x6088000000000000 ||| exp <<< 32) } })
  { s with dev := { s.dev with quadmap := s.dev.quadmap.set 0 0x4000000000000000 } }

/-- R148, R155: an element that lands, one that overfills, and a target that refuses. -/
theorem wit_remoteArrivals : [(sRem 4), (sRem 1)].all (fun s =>
      let f := s.focus s.ev.c
      decide (f.core.cmds = [] ++ .stream { cmd0 1 with near := .remote 1 2 0, active := true, next := 2, sends := [(1, 0xABCD)] } :: [])
        && (match f.coreAt (numbered 1) with
            | some y => y.id == 1
            | none => false) && f.core.id == 0 && (f.clAt (clusterOf 1)).admits && f.arrival 1 2 2 == .lands) = true
    ∧ ((sRem 4).focus 0).memOk ∧ ((sEl (cmd0 1) 0 0).focus 0).arrival 1 2 2 = .refused := by
  unfold State.memOk
  decide +kernel

/-- An element that lands, and one that overfills (R155). -/
theorem test_remote : after (exec .remoteArrival (sRem 4)) (fun t => t.byteAt 0x210000200004) = some 0xCD
    ∧ after (exec .remoteArrival (sRem 1)) (fun t => (t.coreAt (numbered 1)).map (fun c => xState (rget c.port.xstat (2 : BitVec 4)))) = some (some stOverfill) := by
  decide +kernel

/-- A port's XSTAT, with a held command or none. -/
def sPort (x : Word) (held : Bool := false) : State :=
  st [(1, 0x01FFFFC0), (2, 0x021FFFF0), (3, 0x0000000000800000), (4, 2)]
    (fun c => vec 4 [] [] { c with cmds := if held then [.stream (cmd0 1)] else [], port := { c.port with xstat := c.port.xstat.set 1 x } })

/-- R156, R157: each state of a port, waits that are met and not, and arming at the limits. -/
theorem wit_portForms : xState ((sPort 0xA000000000000000).xstat 1) = stError ∧ xState ((sPort 0x2080000400020000).xstat 1) = stActive
    ∧ xState ((sPort 0).xstat 1) = stIdle ∧ (2 ≤ xCnt ((sPort 0x2080000400020000).xstat 1) ∧ ¬ 2 ≤ xCnt ((sPort 0x2080000400010000).xstat 1))
    ∧ (sPort 0).core.cmds = [] ∧ ((sPort 0).g 4).extractLsb' 0 16 = 2
    ∧ (∃ c ∈ (sPort 0x2080000400010000 true).core.cmds, c.port = 1)
    ∧ (let y := (sPort 0).g 2
       y.extractLsb' 26 38 = 0#38 ∧ y.extractLsb' 22 2 = 0#2 ∧ (y.extractLsb' 24 2).toNat = 2 ∧ (y.extractLsb' 0 22).toNat + 4 * 2 ^ 2 = 2 ^ 21)
    ∧ (let y := (sPort 0).g 1
       y.extractLsb' 26 38 = 0#38 ∧ y.extractLsb' 22 2 ≠ 0#2) ∧ ((sPort 0).g 3).extractLsb' 22 2 ≠ 0#2 ∧ (0x0#1 ++ (1 : BitVec 3)) = (1 : BitVec 4)
    ∧ 8 ≤ (8 : BitVec 4).toNat := by
  refine ⟨?_, ?_, ?_, ?_, ?_, ?_, ⟨_, List.mem_singleton.mpr rfl, rfl⟩, ?_⟩ <;> decide +kernel

/-- R156, R157: a VL of 0, and a port that holds the XLINFO of its failure. -/
theorem wit_portForms_held : ((sPort 0).onCore (fun c => { c with vec := { c.vec with vl := 0x30000 } })).core.vec.n = 0
    ∧ rget ((sPort 0xA000000000000000).onCore (fun c => { c with port := { c.port with xinfo := c.port.xinfo.set 1 0x76F0000 } })).core.port.xinfo (1 : BitVec 4) ≠ 0 := by
  decide +kernel

/-- A wait for 2 elements is met by a CNT of 2 and not by 1; arming port 1 for 4 words; an active port stands (R156, R157). -/
theorem test_ports : after (exec (.xsWait 1 4) (sPort 0x2080000400020000 true)) (fun t => (t.core.pc, t.core.wait)) = some (4, none)
    ∧ after (exec (.xsWait 1 4) (sPort 0x2080000400010000 true)) (fun t => (t.core.pc, t.core.wait)) = some (0, some .xsWait)
    ∧ after (exec (.xsRst 1 2) (sPort 0)) (fun t => (xState (t.xstat 1), xExp (t.xstat 1), chBase (t.chwin 1))) = some (stRecv, 4, 0x1FFFF0)
    ∧ after (exec (.xsRst 9 2) (sPort 0)) (fun t => t.core.sys.cause) = some 0x07 := by decide +kernel

/-- Ring 2: 4 slots of 64 bytes, with counters; operands. -/
def sRing (r : RingCnt) : State :=
  st [(1, 0x1FFF00), (2, 0x00040040), (3, 0x00040041), (4, 4), (5, 0x10004), (6, 5), (7, 0x10001)]
    (fun c => { c with port := { c.port with cbcfg := c.port.cbcfg.set 2 0x001FFF0000040040, cbstat := c.port.cbstat.set 2 r.word } })

/-- R163 to R166: each class of operand and of counter at its limit. -/
theorem wit_ringForms : (let s := sRing ⟨4, 0, 0, 0, 0, 0⟩
      (s.ringCnt 2).free = cbCount (s.cbCfg 2) ∧ s.core.cmds = [] ∧ ((s.g 1).extractLsb' 0 22).toNat + 64 * 4 = 2 ^ 21
        ∧ ((s.g 2).extractLsb' 0 16).toNat = 64 ∧ ((s.g 2).extractLsb' 16 16).toNat = 4 ∧ ((s.g 3).extractLsb' 0 16).toNat % 64 ≠ 0
        ∧ cbCount (s.cbCfg 1) = 0 ∧ cbCount (s.cbCfg 2) = 4 ∧ (s.g 4).extractLsb' 17 47 = 0#47 ∧ ((s.g 4).extractLsb' 0 16).toNat = 4 ∧ (s.g 4).getLsbD 16 = false
        ∧ (s.g 5).getLsbD 16 = true ∧ ¬ ((s.g 6).extractLsb' 0 16).toNat ≤ 4 ∧ (s.ringCnt 2).filled < 4 ∧ 4 ≤ (s.ringCnt 2).free ∧ (s.ringCnt 2).heldP < 1)
    ∧ (let s := sRing ⟨0, 4, 0, 0, 1, 3⟩
       (s.ringCnt 2).free ≠ cbCount (s.cbCfg 2) ∧ 4 ≤ (s.ringCnt 2).filled ∧ (s.ringCnt 2).free < 1 ∧ (s.ringCnt 2).heldC < 4)
    ∧ (let s := sRing ⟨0, 0, 4, 0, 0, 0⟩
       4 ≤ (s.ringCnt 2).heldC) ∧ 4 ≤ ((sRing ⟨0, 0, 0, 4, 0, 0⟩).ringCnt 2).heldP := by decide +kernel

/-- A consumer takes 4 slots from slot 3: the offset of slot 3, and TAIL comes round to 3; a producer that finds none free
stands; more than it holds takes cause 0x67 (R163 to R166). -/
theorem test_rings : after (exec (.cbAcq 9 2 4) (sRing ⟨0, 4, 0, 0, 1, 3⟩)) (fun t => (t.g 9, t.ringCnt 2)) = some (0x1FFFC0, ⟨0, 0, 4, 0, 1, 3⟩)
    ∧ after (exec (.cbAcq 9 2 7) (sRing ⟨0, 4, 0, 0, 1, 3⟩)) (fun t => t.core.wait) = some (some .cbAcq)
    ∧ after (exec (.cbRel 2 4) (sRing ⟨0, 4, 0, 0, 1, 3⟩)) (fun t => t.core.sys.cause) = some 0x67
    ∧ after (exec (.cbCfg 2 1 2) (sRing ⟨4, 0, 0, 0, 0, 0⟩)) (fun t => t.cbCfg 2) = some 0x001FFF0000040040
    ∧ after (exec (.cbCfg 2 1 2) (sRing ⟨3, 1, 0, 0, 0, 0⟩)) (fun t => t.core.sys.cause) = some 0x68 := by decide +kernel

/-! ## Sloe -/

/-- A Sloe command of port 1. -/
def sloe0 (k : SloeKind) : SloeCmd :=
  { kind := k, port := 1, op := 0, base := 0x40, ga := 0x1000, gb := 1, chA := 2, baseA := 0x100, lenA := 4, chB := 3, baseB := 0x200, lenB := 4, prm0 := 0
    prm1 := 0, prm2 := 0, doc0 := 0, doc1 := 0, pair := [], exp := 4, pl := plSup, active := true, seq := 0, removed := false, stop := false
    chunks := [], posA := 0, posB := 0, lastA := none, lastB := none, out := 0, ended := false, pool := [], entries := [] }

/-- Operands: windows, lists of channels 2 and 3, pl.dec's counts, one that is malformed, k and d of pl.topk. -/
def sSl (cmds : List Cmd := []) : State :=
  st [(1, 0x40), (2, 0x0000000400000002), (3, 0x0000000400000003), (4, 0x1FFFF8), (5, 1), (6, 0x20), (7, 0x44), (8, 0x0000000000010000), (9, 0x0000000400000001),
      (10, 0x1000), (11, 0x0080000000000000), (12, 0x0000000100000000), (13, 4), (14, 0xC000000000000000)]
    (fun c => vec 2 [(8, vreg .n32 [3, 5]), (9, vreg .f32 [0x3F800000, 0])] [] { c with cmds := cmds })

/-- R286 to R288: operands of every form, each condition at its limit. -/
theorem wit_sloeForms :
    (Claims.sloeNeeds .dec ((sSl).g 10) ((sSl).g 5) 2 = some (2048, []) ∧ Claims.sloeNeeds .isect ((sSl).g 2) ((sSl).g 3) 2 = some (4, [(2, 4), (3, 4)])
      ∧ Claims.sloeNeeds .unite ((sSl).g 2) ((sSl).g 3) 2 = some (8, [(2, 4), (3, 4)]) ∧ Claims.sloeNeeds .bm25 ((sSl).g 2) ((sSl).g 5) 2 = some (4, [(2, 4)])
      ∧ Claims.sloeNeeds .fuse ((sSl).g 2) 0 2 = some (6, [(2, 4)]) ∧ Claims.sloeNeeds .topk ((sSl).g 2) ((sSl).g 13) 2 = some (4, [(2, 4)])
      ∧ Claims.sloeNeeds .dec ((sSl).g 10) ((sSl).g 6) 2 = none) := by
  refine ⟨?_, ?_, ?_, ?_, ?_, ?_, ?_⟩ <;> decide +kernel

/-- The conditions of the forms, each at its limit. -/
theorem wit_sloeForms_limits : (((sSl).g 1).extractLsb' 22 42 = 0#42 ∧ ((sSl).g 1).extractLsb' 0 3 = 0#3 ∧ ((sSl).g 7).extractLsb' 0 3 ≠ 0#3)
    ∧ ((1 : BitVec 4) ≠ (0#1 ++ (2 : BitVec 3) : BitVec 4) ∧ (1 : BitVec 4) = (0#1 ++ (1 : BitVec 3) : BitVec 4) ∧ Claims.listOf ((sSl).g 9) = some (1, 4))
    ∧ (0x40 + 8 * 2048 ≤ 2 ^ 21 ∧ ¬ ((sSl).g 4).toNat + 8 * 2048 ≤ 2 ^ 21 ∧ chBase ((sSl).chwin 2) + 8 * 4 ≤ 2 ^ 21)
    ∧ ((sSl).vop 8).tag = .n32 ∧ ((sSl).vop 9).tag = .f32 ∧ ((sSl).vop 9).tag ≠ .n32
    ∧ (sSl).core.sloes < 8 ∧ (sSl).core.tile.queue = [] ∧ 8 ≤ (sSl (List.replicate 8 (.sloe (sloe0 .dec)))).core.sloes := by decide +kernel

/-- The pair of pl.fuse. -/
theorem wit_sloeForms_fuse : Claims.fits (sSl) 8 ∧ Claims.fits (sSl) 9 := by simp only [Claims.fits]; decide +kernel

/-- pl.dec of one chunk is held; a window that is not aligned takes cause 0x71, one beyond the scratchpad 0x64 (R286, R287). -/
theorem test_sloe_forms : after (exec (.plDec 1 10 5 0 1) (sSl)) (fun t => (t.core.cmds.length, t.core.pc)) = some (1, 4)
    ∧ after (exec (.plDec 7 10 5 0 1) (sSl)) (fun t => t.core.sys.cause) = some 0x71 ∧ after (exec (.plDec 4 10 5 0 1) (sSl)) (fun t => t.core.sys.cause) = some 0x64
    ∧ after (exec (.plIsect 1 9 3 0 1) (sSl)) (fun t => t.core.sys.cause) = some 0x71 := by decide +kernel

/-- A core with no command but two failures, issued out of the order of their ports. -/
def sSf : State := (sSl).onCore (fun c => { c with
  sloe := { c.sloe with failed := [(4, 1), (3, 2)] }, port := { c.port with
    xstat := (c.port.xstat.set 2 0xA000000000000000).set 1 0xA000000000000000
    xfault := (c.port.xfault.set 2 0x7200000000000000).set 1 0x7400000000000000 } })

/-- R296 to R299: documents that are canonical and not, words with reserved bits and without, commands held, active and none. -/
theorem wit_sloeControl : (canonical ((sSl).g 11) = false ∧ canonical ((sSl).g 10) = true ∧ ((sSl).g 12).extractLsb' 32 32 ≠ 0#32 ∧ ((sSl).g 5).extractLsb' 32 32 = 0#32)
    ∧ (sSl).core.cmds = [] ∧ (sSl).core.sloe.failed = [] ∧ sSf.core.cmds = [] ∧ sSf.core.sloe.failed ≠ []
    ∧ (∃ c, Cmd.sloe c ∈ (sSl [.sloe (sloe0 .dec)]).core.cmds ∧ c.active = true)
    ∧ ¬ (∃ c, Cmd.sloe c ∈ (sSl).core.cmds ∧ c.active = true) :=
  ⟨by decide +kernel, rfl, rfl, rfl, by decide +kernel, ⟨_, List.mem_singleton.mpr rfl, rfl⟩, fun ⟨_, h, _⟩ => absurd h List.not_mem_nil⟩

/-- pl.wait stands while a command is held, and traps with the failure issued first; pl.abort of a pending command leaves it to
fail in its place (R297, R298). -/
theorem test_sloe_control : after (exec .plWait (sSl [.sloe (sloe0 .dec)])) (fun t => t.core.wait) = some (some .plWait)
    ∧ after (exec .plWait sSf) (fun t => t.core.sys.cause) = some 0x72
    ∧ after (exec .plAbort (sSl [.sloe { sloe0 .dec with active := false }])) (fun t => (t.core.pc, t.core.cmds == [.sloe { sloe0 .dec with active := false, removed := true }])) = some (4, true) := by
  decide +kernel

/-- R297, R298: a failure that a port still holds in ERROR, one of a command removed behind a port in OVERFILL, and one that no port holds. -/
theorem wit_sloeControl_failed : let ov := sSf.onCore (fun c => { c with port := { c.port with xstat := (c.port.xstat.set 1 0x8000000000000000).set 2 0 } })
    xState (ov.xstat 1) = stOverfill ∧ ov.core.sloe.failed.filter (fun y => xState (ov.xstat y.2) == stError || xState (ov.xstat y.2) == stOverfill) = [(4, 1)]
    ∧ sSf.core.sloe.failed.filter (fun y => xState (sSf.xstat y.2) == stError || xState (sSf.xstat y.2) == stOverfill) = [(4, 1), (3, 2)]
    ∧ after (exec .plWait ov) (fun t => t.core.sys.cause) = some 0x74 := by decide +kernel

/-- A chunk at 0x2000 of the worked block of R284, found from the offset 0x1000 at 0x1000; MAGIC is m. -/
def chunkMem (m : Nat) : List (Nat × Byte) :=
  (toBytes 4 0x1000).zipIdx.filterMap (fun x => if x.1 = 0 then none else some (0x1000 + x.2, x.1))
    ++ (toBytes 56 (m + 2 ^ 32 * 0x00040001 + 2 ^ 96 * 56 + 2 ^ 256 * (1000 + 2 ^ 32 * 0x00300203) + 2 ^ 384 * 0x1B182)).zipIdx.filterMap
      (fun x => if x.1 = 0 then none else some (0x2000 + x.2, x.1))

/-- The active command of a Sloe event. -/
def sSe (c : SloeCmd) (m : Nat := 0x534C4F45) : State :=
  { sSl [.sloe c] with mem := chunkMem m, ev := { base.ev with c := 0, p := 1, chunk := 0 } }

/-- The command pl.dec of one chunk. -/
def decCmd : SloeCmd := { sloe0 .dec with gb := 1, exp := 2048 }

/-- R281 to R285, R298: a command that starts, one taken out, chunks that pass and fail, a command that is to stop. -/
theorem wit_sloeEngine : (sSe decCmd).core.cmds = [] ++ .sloe decCmd :: [] ∧ decCmd.port = (sSe decCmd).ev.p
    ∧ (xState ((sSe decCmd).xstat 1) = stIdle ∧ ((sSe decCmd).xstat 1).getLsbD 51 = false)
    ∧ decCmd.inLane 0 = true ∧ (sSe decCmd).memOk ∧ decCmd.nc = 1 ∧ decCmd.firstFailed = none
    ∧ (match readChunk ((sSe decCmd).focus 0) [] decCmd 0 with
        | .ok (.bytes _, _) => true
        | _ => false) = true
    ∧ (match readChunk ((sSe decCmd 0x534C4F46).focus 0) [] decCmd 0 with
        | .ok (.why w, _) => w == 1
        | _ => false) = true := by
  unfold State.memOk
  decide +kernel

/-- The worked chunk, its header alone, and a change of one byte. -/
def chunkBytes (i : Nat := 0) (x : Byte := 0x45) : List Byte := (Memory.read (chunkMem 0x534C4F45) 0x2000 56).set i x

/-- R281, R285: the table entry, the header and the rest of a chunk are reached; a header and a body of each kind: one that passes, one
that fails a check of its own. -/
theorem wit_chunks : (match load ((sSe decCmd).focus 0) [] decCmd.pl .xread 0 (decCmd.ga + BitVec.ofNat 64 (4 * 0)) 4 with
      | .ok (off, t) => off == 0x1000 && (match sloeWords [] decCmd.pl (decCmd.ga + BitVec.ofNat 64 (off.toNat % 2 ^ 32)) 4 t with
        | .ok (hd, u) => hd == (chunkBytes).take 32 && (match sloeWords [] decCmd.pl (decCmd.ga + BitVec.ofNat 64 (off.toNat % 2 ^ 32) + 32) ((Claims.chunkField hd 12 4 - 32) / 8) u with
          | .ok (tl, _) => hd ++ tl == chunkBytes
          | .error _ => false)
        | .error _ => false)
      | .error _ => false) = true
    ∧ (match load ((sSe decCmd).focus 0) [] decCmd.pl .xread 0 0xC000000000 4 with
        | .error (.fault m) => m.cause == 0x28
        | _ => false) = true
    ∧ Claims.chunkField chunkBytes 4 2 = 1 ∧ Claims.chunkField chunkBytes 6 2 = 4 ∧ Claims.blockDocs chunkBytes 0 = 4 ∧ Claims.blockSize chunkBytes 0 = 8
    ∧ XVal.cmp (Claims.wid (Claims.chunkField chunkBytes 40 4)) (Claims.wid 0x40000000) < 0 ∧ (Claims.wid 0x7FC00000).isNan = true := by decide +kernel

/-- Each check of the header, which the worked chunk passes, and that of its checksum: MAGIC, NB, LEN, reserved bytes, CRC. -/
theorem wit_chunks_checks : (¬ Claims.chunkFails chunkBytes 1 ∧ ¬ Claims.chunkFails chunkBytes 2 ∧ ¬ Claims.chunkFails chunkBytes 3 ∧ ¬ Claims.chunkFails chunkBytes 4)
    ∧ Claims.chunkFails (chunkBytes 0 0x46) 1 ∧ Claims.chunkFails (chunkBytes 4 17) 2 ∧ Claims.chunkFails (chunkBytes 12 57) 3 ∧ Claims.chunkFails (chunkBytes 24 1) 4
    ∧ Claims.chunkFails (chunkBytes 20 1) 5 := by
  refine ⟨⟨?_, ?_, ?_, ?_⟩, ?_, ?_, ?_, ?_, ?_⟩ <;> (unfold Claims.chunkFails; simp only []; decide +kernel)

/-- What the engine says of each: FWHY 1 to 6, 8, and a chunk that passes; its documents and frequencies (R283, R285). -/
theorem test_chunks : [(0, 0x46, 1), (4, 17, 2), (12, 57, 3), (24, 1, 4), (20, 1, 5), (36, 33, 6), (50, 3, 8), (0, 0x45, 0)].all (fun (p : Nat × Byte × BitVec 4) =>
      let l := chunkBytes p.1 p.2.1
      (((headerWhy (ofBytes (l.take 32))).orElse (fun _ => bodyWhy (ofBytes l))).getD 0) == p.2.2) = true
    ∧ [0, 1, 2, 3].map (Claims.document chunkBytes 0) = [1000, 1003, 1004, 1011] ∧ [0, 1, 2, 3].map (Claims.frequency chunkBytes 0) = [1, 3, 2, 4] := by
  decide +kernel

/-- R288 to R295: batches that go on, end and fail. -/
theorem wit_sloeEngine_batches :
    (let b := runBatch [] 64 ((sSe { sloe0 .topk with gb := 4, lenA := 100 }).focus 0) { sloe0 .topk with gb := 4, lenA := 100 }
     b.2.2.isNone && decide (b.2.1.out < 4)) = true
    ∧ (let b := runBatch [] 64 ((sSe (sloe0 .unite)).focus 0) { sloe0 .unite with ended := true }
       b.2.2.isNone && decide (4 ≤ b.2.1.out)) = true
    ∧ (match (runBatch [] 64 ((sSe (sloe0 .unite)).focus 0) (sloe0 .unite)).2.2 with
        | some (.fail q _ _ _) => q == 0x73
        | _ => false) = true := by decide +kernel

/-- Entries at 0x100 of the scratchpad, and a port that covers them: none, an active one, a failed one. -/
def sEnt (x : Word) : State := { (sSl).onCore (fun c => { c with port := { c.port with
  xstat := c.port.xstat.set 2 x, chwin := c.port.chwin.set 2 (chWord 0x100 0x100) } }) with
    mem := [(0x210000000100, 3), (0x210000000108, 3), (0x210000000110, 0xFF), (0x210000000111, 0xFF), (0x210000000112, 0xFF), (0x210000000113, 0xFF)] }

/-- R289 to R292: an entry that stalls, one of a failed port, and ones whose identifiers rise, do not, and stand for nothing. -/
theorem wit_sloeSteps : (sEnt 0x2080000400000000).core.port.window 0x100 8 false = .stall ∧ (sEnt 0xA080000400000000).core.port.window 0x100 8 false = .failed 2
    ∧ (sEnt 0).core.port.window 0x100 8 false = .ok ∧ (sEnt 0).dataFault .xread 0x210000000108 8 = none
    ∧ (sEnt 0).memOk ∧ (sEnt 0).dev.badBytes = [] ∧ (sEnt 0).dev.quarantine = []
    ∧ okAnd (nextHead (fun i s => readEntry s 0x100 i) (some 2) 3 0 (sEnt 0)) (fun h => h.1 == some ⟨0, 3, 0⟩) = true
    ∧ (match nextHead (fun i s => readEntry s 0x100 i) (some 3) 3 1 (sEnt 0) with
        | .error (_, .fail q _ _ _) => q == 0x73
        | _ => false) = true
    ∧ (match nextHead (fun i s => readEntry s 0x100 i) (some 3) 1 2 (sEnt 0), nextHead (fun i s => readEntry s 0x100 i) (some 3) 0 3 (sEnt 0) with
        | .ok x, .ok y => x.1 == y.1
        | .error x, .error y => x.1 == y.1
        | _, _ => false) = true
    ∧ (match readEntry (sEnt 0x2080000400000000) 0x100 0, readEntry (sEnt 0xA080000400000000) 0x100 0 with
        | .error (_, .wait), .error (_, .fail q _ _ _) => q == 0x63
        | _, _ => false) = true
    ∧ okAnd ((sEnt 0).emit { sloe0 .topk with base := 0x200 } 0x1234 0) (fun t => Memory.read t.1.mem 0x210000000200 8 == toBytes 8 0x1234 && t.2.out == 1) = true := by
  unfold State.memOk
  decide +kernel

/-- R293 to R295: a score, a fused value, and the order of a number, a greater one and a NaN. -/
theorem wit_scores : (bm25Val { sloe0 .bm25 with prm0 := 0x4000000000000000, gb := 0x3F800000 } 5 0x3F800000).1 = 0x40000000
    ∧ (fuseVal 0x400000003F800000 0x3F800000 0x3F800000).1 = 0x40400000
    ∧ (Claims.wid 0x3F800000).isNan = false ∧ (Claims.wid 0x7FC00000).isNan = true
    ∧ ranksBefore 0x3F80000000000001 0x7FC0000000000000 = true ∧ ranksBefore 0x4000000000000009 0x3F80000000000001 = true
    ∧ ranksBefore 0x3F80000000000001 0x3F80000000000002 = true ∧ ranksBefore 0x7FC0000000000001 0x7FC0000000000002 = true := by decide +kernel

/-- R295: two equal values of one identifier, +0 and −0, stand in one order whichever comes first. -/
theorem wit_scores_ties : XVal.cmp (Claims.wid 0) (Claims.wid 0x80000000) = 0 ∧ (Claims.wid 0x80000000).isNan = false
    ∧ ranksBefore 0x0000000000000007 0x8000000000000007 = true ∧ ranksBefore 0x8000000000000007 0x0000000000000007 = false := by decide +kernel

/-- The worked block of R284. -/
theorem test_sloe_block : (chunkEntries (ofBytes (Memory.read (chunkMem 0x534C4F45) 0x2000 56)) false 0).take 5
      = [0x3F800000000003E8, 0x40400000000003EB, 0x40000000000003EC, 0x40800000000003F3, 0x00000000FFFFFFFF] := by decide +kernel

/-- A chunk of another MAGIC makes the command fail with cause 0x72 (R285); two lists of entry 0 twice take 0x73 (R292). -/
theorem test_sloe_engine : after (exec .sloeBatchComplete (sSe (sloe0 .unite))) (fun t => (xState (t.xstat 1), (t.xfault 1).extractLsb' 56 8)) = some (stError, 0x73#8)
    ∧ (sloe0 .isect).merge (some ⟨0, 3, 0x3F800000⟩) (some ⟨0, 3, 0x40000000⟩) = (some (3, 0x40400000, 0), true, true)
    ∧ (sloe0 .isect).merge (some ⟨0, 3, 1⟩) (some ⟨0, 5, 1⟩) = (none, true, false)
    ∧ ((sloe0 .unite).merge (some ⟨0, 7, 1⟩) (some ⟨0, 5, 2⟩)).1.map (fun x => (x.1, x.2.1)) = some (5, 2) := by decide +kernel

/-! ## Reserving loops -/

/-- A core in a gang of one, in cluster 0, with operands, k1, indices v3, and sessions of its cluster. -/
def sRs (q : List Session) (f : GangShare → GangShare := id) (cores : List (BitVec 8) := [0]) (cmds : List Cmd := []) : State :=
  let s := st [(1, 2), (2, 0x1000), (3, 0), (4, 2049), (5, 1), (6, 2048), (7, 2046)]
    (fun c => vec 2 [(3, vreg .i32 [0, 4])] [(1, 3)] { c with gang := some 0, rank := 0, rsvstat := 2, cmds := cmds })
  let s := { s with gangs := [⟨0, 0, 0, cores, 0, 0, [], none, f GangShare.reset⟩] }
  s.onCl 0 (fun cl => { cl with quince := q })

/-- Two live items, which claim granule 1 alike, or nothing. -/
def item (i : Nat) (g : List Word) : RsvItem := g.foldl (fun x a => x.claim a) ⟨i, 0, [], 0, true, false⟩
def sess (g : List Word) : Session := ⟨.gang 0, 2, [item 0 g, item 1 g], false, 2, 0, [], []⟩

/-- R307: signatures hold what the items claim. -/
theorem wit_waves : [item 0 [0x20], item 1 [0x20], item 0 []].all (fun x => x.granules.all (fun g =>
      let h := rsvHash (g.setWidth 64 <<< 5)
      x.sig.getLsbD h.1 && x.sig.getLsbD h.2.1 && x.sig.getLsbD h.2.2)) = true ∧ (∃ i ∈ (sess [0x20]).items, i.live = true) := by
  exact ⟨by decide +kernel, _, List.mem_cons_self, by decide +kernel⟩

/-- R307: an item without claims is signed. -/
theorem wit_waves_signed : Claims.signed (item 0 []) := fun _ h => absurd h List.not_mem_nil

/-- R309: items before, at and behind which a signature meets: admitted, refused and not live. -/
theorem wit_waves_items : (sess [0x20]).items = [] ++ item 0 [0x20] :: [item 1 [0x20]] ∧ (sess [0x20]).items = [item 0 [0x20]] ++ item 1 [0x20] :: []
    ∧ (sess [0x20]).form.items.map (fun i => i.admitted) = [true, false] ∧ (sess []).form.items.map (fun i => i.admitted) = [true, true]
    ∧ ({ sess [] with items := [{ item 0 [0x20] with live := false }, item 1 [0x20]] } : Session).form.items.map (fun i => i.admitted) = [false, true] := by
  decide +kernel

/-- R312 to R316: no session and one, operands at the limits, claims of active elements, and room in the Quince. -/
theorem wit_reservingForms :
    (let s := sRs []
     s.share.rdone = [] ∧ s.share.rendez = [] ∧ s.gangSize = 1 ∧ s.session.isNone = true ∧ (s.g 1).toNat = 2 ∧ (s.g 3).toNat + s.core.vec.n ≤ 2
      ∧ (s.g 6).toNat ≤ 2048 ∧ (s.g 7).toNat + s.core.vec.n ≤ (s.g 6).toNat
      ∧ (s.g 3).toNat = 0 ∧ 2048 < (s.g 4).toNat ∧ (s.g 1).toNat < (s.g 5).toNat + s.core.vec.n ∧ (s.clAt (clusterOf s.core.id)).quince.length < 4
      ∧ ((s.clAt (clusterOf s.core.id)).quince.map (fun q => q.ni)).sum + 2048 ≤ 2048)
    ∧ (let s := sRs [sess [0x20]]
       s.share.rdone = [] ∧ s.share.rendez = [] ∧ s.gangSize = 1 ∧ s.session == some (sess [0x20]) ∧ s.core.cmds = [] ∧ (sess [0x20]).waved = false
        ∧ (s.vop 3).tag.isInt = true ∧ (∀ i ∈ (sess [0x20]).items, i.live = true → i.count < 16) ∧ ((sess [0x20]).items.map (fun i => i.idx)).Pairwise (fun p q => p < q)) := by
  decide +kernel

/-- The claims' operand. -/
theorem wit_reservingForms_claim : Claims.fits (sRs [sess [0x20]]) 3 ∧ (∀ e < (sRs [sess [0x20]]).core.vec.n, (sRs [sess [0x20]]).act 1 e = true →
    e < (sRs [sess [0x20]]).core.rsvNloc) := by
  simp only [Claims.fits]
  decide +kernel

/-- Two items that claim one granule: the wave admits item 0 alone (R309); too many items take cause 0x76; no session 0x77. -/
theorem test_reserving : after (exec (.rsvWave 1) (sRs [sess [0x20]])) (fun t => (t.kreg 1).extractLsb' 0 2) = some 1#2
    ∧ after (exec (.rsvWave 1) (sRs [sess []])) (fun t => (t.kreg 1).extractLsb' 0 2) = some 3#2
    ∧ after (exec (.rsvOpen 4 3 1) (sRs [])) (fun t => t.core.sys.cause) = some 0x76 ∧ after (exec (.rsvRetire 1) (sRs [])) (fun t => t.core.sys.cause) = some 0x77 := by
  decide +kernel

/-- rsv.open of two items, both live, leaves OPEN, NI 2, LIVE 2, waves 0, FIRST 0 and NLOC 2 in RSVSTAT (R316). -/
theorem test_reserving_open : after (exec (.rsvOpen 1 3 1) (sRs [])) (fun t => t.core.rsvstat) = some 0x8002002000000002 := by decide +kernel

/-- R312, R313: a form that arrives in a gang of two, meetings that agree and differ, and a meeting that has ended. -/
theorem wit_rendezvous :
    (let s := sRs [sess []] id [0, 1]
     s.gangSize ≠ 1 ∧ s.share.rdone.find? (fun v => v.rank == s.core.rank) = none ∧ s.share.rendez.any (fun y => y.rank == s.core.rank) = false ∧ s.session.isSome = true)
    ∧ (let s := sRs [] id [0, 1]
       s.session.isNone = true ∧ 1 ≤ (s.g 1).toNat ∧ (s.g 1).toNat ≤ 2048 ∧ (s.g 3).toNat + s.core.vec.n ≤ (s.g 1).toNat)
    ∧ [[(⟨0, .wave, 0, 0, 0, 0⟩ : RsvArrival), ⟨1, .close, 0, 0, 0, 0⟩], [⟨0, .wave, 0, 0, 0, 0⟩, ⟨1, .wave, 0, 0, 0, 0⟩]].all (fun l =>
        let f := (sRs [sess []] (fun h => { h with rendez := l }) [0, 1]).focus 0
        f.share.rendez == l && decide (f.gangSize ≤ l.length)) = true
    ∧ (let s := sRs [sess []] (fun h => { h with rdone := [⟨0, none, none⟩] }) [0, 1]
       s.share.rdone.find? (fun v => v.rank == s.core.rank) = some ⟨0, none, none⟩ ∧ s.session.isSome = true) := by decide +kernel


/-! ## Lines and runs of tiles -/

/-- Memory, tile and window of a line of each form: planes at 0x1040 and exponents at 0x2010, or a block's planes and bytes;
line 2 of t1 and of t2; f32 1.0 and −2.0 in the window of ch1 at 0x8000. -/
def sLine : State :=
  { (sTile shape).onCore (fun c => { c with port := { c.port with chwin := c.port.chwin.set 1 (chWord 0x8000 0x8000) } }) with
    mem := [(0x1040, 0xA5), (0x1041, 0x03), (0x105F, 0x80), (0x2010, 0x7C), (0x2011, 0x0D), (0x210000000040, 0x11), (0x210000000402, 0x22),
      (0x210000008002, 0x80), (0x210000008003, 0x3F), (0x210000008007, 0xC0)] }
def cLine (i : Instr) : TileCmd := ⟨i.word32, 0x1000, Vector.ofFn (fun j => [0x00010001, 0x40, 0x2000, 0x10].getD j.val 0), 0, oldForm⟩
def cLdsc : TileCmd := ⟨(Instr.tlLdsc 1 9 12 0 1).word32, 0, Vector.ofFn (fun j => if j.val = 0 then 0x000100010000000C else 0), 0, oldForm⟩

/-- R89, R271, R272: each form's line goes through, its memory lies away from the scratchpad, and its window from the line. -/
theorem wit_lineContents : sLine.memOk
    ∧ ((sLine.tileLine (cLine (.tlLdp 1 9 12 0)) (.tlLdp 1 9 12 0) 1).toOption.isSome && (sLine.tileLine (cLine (.tlLdp 2 9 12 1)) (.tlLdp 2 9 12 1) 1).toOption.isSome
        && (sLine.tileLine (cLine (.tlStp 1 9 12)) (.tlStp 1 9 12) 1).toOption.isSome && (sLine.tileLine cLdsc (.tlLdsc 1 9 12 0 1) 0).toOption.isSome) = true
    ∧ Claims.span sLine .lread (0x1000 + BitVec.ofNat 64 1 * 0x40) 32 0x1040 ∧ Claims.span sLine .lread (0x2000 + BitVec.ofNat 64 1 * 0x10) 2 0x2010
    ∧ Claims.span sLine .lwrite (0x1000 + BitVec.ofNat 64 1 * 0x40) 32 0x1040 ∧ Claims.span sLine .lwrite (0x2000 + BitVec.ofNat 64 1 * 0x10) 2 0x2010
    ∧ tdW (0x0005040080000000 : Word) = 5 ∧ (2 < tdLines 0x0001000400000003 ∧ 0x2010 + 2 ≤ scratchBase 0)
    ∧ (((sLine.chwin 1).extractLsb' 0 22).toNat = 0x8000 ∧ Tag.ofCode ((cLdsc.gb[0]).extractLsb' 0 5) = some .f32 ∧ Ctl.ofCode 0 = some ctlRne) := by
  refine ⟨?_, ?_, spanOf ?_, spanOf ?_, spanOf ?_, spanOf ?_, ?_, ?_, ?_⟩
  all_goals (try unfold State.memOk)
  all_goals decide +kernel

/-- Both tiles lie as R267 asks. -/
theorem wit_lineContents_layout : Claims.laidOut 0x0004040080000000 0x0001000400000003 ∧ Claims.laidOut 0x0005040080000000 0x0001000500000003 := by
  unfold Claims.laidOut Claims.goodDesc
  dsimp only
  decide +kernel

/-- A line that tl.ldp moves, tl.stp returns, and tl.ldsc makes of 1.0 and −2.0: with W = 4 the integers 2 and −4 over 2^−1
(R90, R271, R272). -/
theorem test_lines :
    okAnd (sLine.tileLine (cLine (.tlLdp 1 9 12 0)) (.tlLdp 1 9 12 0) 1) (fun t => [t.byteAt 0x210000000040, t.byteAt 0x21000000005F, t.byteAt 0x210000000402] == [0xA5, 0x80, 0x7C]) = true
    ∧ okAnd (sLine.tileLine (cLine (.tlStp 1 9 12)) (.tlStp 1 9 12) 1) (fun t => [t.byteAt 0x1040, t.byteAt 0x1041, t.byteAt 0x2010] == [0x11, 0, 0x22]) = true
    ∧ okAnd (sLine.tileLine cLdsc (.tlLdsc 1 9 12 0 1) 0) (fun t => (t.readRun 1 1 0 4).q.take 3 == [2, -4, 0] && (t.readRun 1 1 0 4).e == 127) = true := by decide +kernel

/-- R88, R90: the widths, values and lines at their limits; all zero, and not. -/
theorem wit_runs : (2 ≤ 2 ∧ 16 ≤ 16) ∧ (∀ j < 64, -(2 ^ 3 : Int) ≤ (if j = 0 then -8 else 7 : Int) ∧ (if j = 0 then -8 else 7 : Int) < 2 ^ 3)
    ∧ [XVal.nan, .fin 1 0].any XVal.special = true ∧ ([XVal.negZero, .fin 0 0].all XVal.isZero) = true ∧ (XVal.fin 5 200).isZero = false := by
  decide +kernel

/-- A run of −8 and sevens in four planes stands where R267 says. -/
theorem wit_runs_stand : Claims.runStands ((base.scrPut 0 0 ([0x01, 0, 0, 0, 0, 0, 0, 0] ++ (List.replicate 3 ([0xFE] ++ List.replicate 7 0xFF)).flatten)).scrPut 0 0x400 [77])
    0x0004040080000000 0x0001000400000003 0 0 (fun j => if j = 0 then -8 else 7) 77 := by
  unfold Claims.runStands
  decide +kernel

/-- Worked runs (R90): the magnitude 255/32 does not fit three bits at 2^0, so that the exponent is one more; SAT past the last exponent. -/
theorem test_runs : toBfp [.fin 3 0, .fin (-3) 0] 3 ctlRne = ([3, -3], 128, 0) ∧ (toBfp [.fin (-255) (-5)] 4 ctlRne).2.1 = 129
    ∧ (toBfp [.fin 5 200] 4 ctlRne).2.2 = flagSat ∧ toBfp [.nan, .negZero] 4 ctlRne = ([0, 0], 0, flagInv) := by decide +kernel

/-- R92: zero, the least and greatest exponents, a significand that carries into the next. -/
theorem wit_accumulatorRounding : (XVal.fin 3 (-1)).abs.lt (.fin 1 0) = false ∧ (XVal.fin 3 (-1)).abs.lt (.fin 1 1) = true
    ∧ Claims.nearest 3 (-1 - (466 - 512)) (3 * 2 ^ 45) ∧ Claims.nearest (2 ^ 48 - 1) (-1) (2 ^ 47) := by
  unfold Claims.nearest
  decide +kernel

/-- 2^48 − 1 rounds to 2^47, and so to 2^46 over the next exponent; beyond the last exponent it saturates (R92). -/
theorem test_accumulators : roundAcc (2 ^ 48 - 1) 0 = (accWord (2 ^ 46) 514, 0) ∧ roundAcc 1 600 = (accWord (2 ^ 47 - 1) 1023, flagSat)
    ∧ roundAcc 0 5 = (0, 0) := by decide +kernel

/-! ## Atomics, barriers, fences and deterministic steps -/

/-- A word at 0x1000, a counter record at 0x1010, addresses and operands. -/
def sAm (det : Bool := false) : State :=
  { st [(1, if det then 0x40000010 else 0x1000), (2, 3), (3, 0x1010), (4, 0x1008), (5, 0xFFFFFFFFFFFFFFFF), (6, 100), (7, 0x40000020)]
      (fun c => vec 2 [(1, vreg .f32 [])] [] { c with tlb := if det then [⟨0, 0, 4, 0x40000000, 0x005000000001000F⟩] else [], vec := { c.vec with det := det } })
    with mem := [(0x1000, 0x05), (0x1010, 0x02), (0x1018, 0x0A)] }.onCtx 0 (fun c => { c with atroot := if det then 1 else 0 })

/-- R329, R339: every atomic, in plain memory and on a page with DT = 1. -/
theorem wit_atomicForms : sAm.memOk ∧ sAm.core.vp.live = false
    ∧ (Claims.atomics 9 1 2).all (fun f => (reach sAm sAm.core.cmds sAm.pl .atomic (sAm.g 1) f.2.1).toOption == some ⟨0x1000, none, none⟩
        && (reach (sAm true) (sAm true).core.cmds (sAm true).pl .atomic ((sAm true).g 1) f.2.1).toOption == some ⟨0x10010, some 0x005000000001000F, none⟩) = true
    ∧ (⟨0x1000, none, none⟩ : Xl).plain = true ∧ (⟨0x10010, some 0x005000000001000F, none⟩ : Xl).dt = true
    ∧ (let s := sAm.onCore (fun c => { c with vp := { c.vp with live := true } })
       s.core.vp.live = true ∧ ¬ ((s.vop 1).tag = .i64 ∨ (s.vop 1).tag = .n64)) := by
  unfold State.memOk
  decide +kernel

/-- amo.add gives 5 and leaves 8; amo.cas that differs leaves memory; amo.max is signed; a swap on a DT page takes cause 0xA3. -/
theorem test_atomics : after (exec (.amoAdd 9 1 2) sAm) (fun t => (t.g 9, t.byteAt 0x1000)) = some (5, 8)
    ∧ after (exec (.amoCas 9 1 2) sAm) (fun t => (t.g 9, t.byteAt 0x1000)) = some (5, 5)
    ∧ after (exec (.amoMax 9 1 5) sAm) (fun t => t.byteAt 0x1000) = some 5 ∧ after (exec (.amoMin 9 1 5) sAm) (fun t => t.byteAt 0x1007) = some 0xFF
    ∧ after (exec (.amoSwap 9 1 2) (sAm true)) (fun t => t.core.sys.cause) = some 0xA3
    ∧ after (exec (.amoAdd 9 1 2) (sAm true)) (fun t => ((t.ctxAt 0).stepUpds.length, t.byteAt 0x10010)) = some (1, 0) := by decide +kernel

/-- VPs 0 and 1 of one group name the word at 0x1000, or two words of a page with DT = 1; the other operands have tag t. -/
def sVa (t : Tag) (det : Bool := false) : State :=
  { st [] (fun c => vec 2 [(1, vreg .i64 (if det then [0x40000010, 0x40000018] else [0x1000, 0x1000])), (2, vreg t [3, 4]), (9, vreg t [5, 6])] [] { c with
      tlb := if det then [⟨0, 0, 4, 0x40000000, 0x005000000001000F⟩] else []
      vec := { c.vec with det := det }, vp := ⟨0x8000000000000002, [(0, 0x100), (1, 0x100)], true, 3⟩ })
    with mem := [(0x1000, 0x05)] }.onCtx 0 (fun c => { c with atroot := if det then 1 else 0 })

/-- R331: the tags of every atomic, ones that it does not take, and two VPs that name one word, or two of a DT page. -/
theorem wit_atomicsOfVps : (sVa .i64).memOk ∧ (sVa .i64).core.cmds = [] ∧ ((sVa .f32).vop 2).tag = .f32 ∧ ((sVa .f32).vop 9).tag = .f32 ∧ ((sVa .f32).vop 1).tag = .i64
    ∧ ((sVa .i64).vop 2).tag = .i64 ∧ ((sVa .i64).vop 9).tag = .i64
    ∧ (Claims.atomics 9 1 2).all (fun f => [false, true].all (fun det => [Tag.i64, .f32].all (fun t => (List.range 2).all (fun e =>
        let s := sVa t det
        let x : Xl := if det then ⟨0x10010 + 8 * e, some 0x005000000001000F, none⟩ else ⟨0x1000, none, none⟩
        s.core.vp.live && s.inPlay e && s.startGroup clsV 9 == 0 && x.plain == !det && x.dt == det
          && (reach s s.core.cmds s.pl .atomic (BitVec.ofNat 64 (s.vbits (s.vop 1) e)) f.2.1).toOption == some x)))) = true
    ∧ (∀ e, (sVa .i64).inPlay e = true → e < 2) := by
  refine ⟨by unfold State.memOk; decide +kernel, rfl, ?_, ?_, ?_, ?_, ?_, ?_, ?_⟩
  case' refine_7 => intro e h; simp only [State.inPlay, Bool.and_eq_true, decide_eq_true_eq] at h; exact h.1
  all_goals decide +kernel

/-- The registers fit VL. -/
theorem wit_atomicsOfVps_fits : ∀ t ∈ [Tag.i64, .f32], ∀ r ∈ [(1 : BitVec 5), 2, 9], Claims.fits (sVa t) r := by
  simp only [Claims.fits]
  decide +kernel

/-- Two additions to one word, in ascending order; a comparison that meets the word as the first has left it (R331). -/
theorem test_atomics_vp : after (exec (.amoAdd 9 1 2) (sVa .i64)) (fun t => (t.vbits (t.vop 9) 0, t.vbits (t.vop 9) 1, t.byteAt 0x1000)) = some (5, 8, 12)
    ∧ after (exec (.amoCas 9 1 2) (sVa .i64)) (fun t => (t.vbits (t.vop 9) 0, t.vbits (t.vop 9) 1, t.byteAt 0x1000)) = some (5, 3, 3)
    ∧ after (exec (.amoAdd 9 1 2) (sVa .f32)) (fun t => t.core.sys.cause) = some 0x42 := by decide +kernel

/-- R336: a record in plain memory, one on a DT page, one that is not aligned. -/
theorem wit_claimElements : (canonical (sAm.g 4) = true ∧ (sAm.g 4).toNat % 16 ≠ 0) ∧ (sAm.g 3).toNat % 16 = 0 ∧ sAm.memOk
    ∧ (reach sAm sAm.core.cmds sAm.pl .atomic (sAm.g 3) 8).toOption = some ⟨0x1010, none, none⟩
    ∧ (reach sAm sAm.core.cmds sAm.pl .atomic (sAm.g 3 + 8) 8).toOption = some ⟨0x1018, none, none⟩ ∧ (⟨0x1018, none, none⟩ : Xl).plain = true
    ∧ (reach (sAm true) (sAm true).core.cmds (sAm true).pl .atomic ((sAm true).g 7) 8).toOption = some ⟨0x10020, some 0x005000000001000F, none⟩
    ∧ (reach (sAm true) (sAm true).core.cmds (sAm true).pl .atomic ((sAm true).g 7 + 8) 8).toOption = some ⟨0x10028, some 0x005000000001000F, none⟩ := by
  unfold State.memOk
  decide +kernel

/-- NEXT 2, LIMIT 10: 3 elements, and then with 100 asked the 8 that are left (R336). -/
theorem test_claim : after (exec (.claimEl 9 3 2) sAm) (fun t => (t.g 9, t.core.vec.n, t.byteAt 0x1010)) = some (2, 3, 5)
    ∧ after (exec (.claimEl 9 3 6) sAm) (fun t => (t.g 9, t.core.vec.n, t.byteAt 0x1010)) = some (2, 8, 10) := by decide +kernel

/-- Barrier 2 holds x. -/
def sGb (x : Word) : State :=
  st [(1, 16), (2, 17), (3, 0xFFFFFFFF), (4, 7), (5, 8)] (fun c => { c with solo := { c.solo with gb := c.solo.gb.set 2 x } })

/-- R334, R335: counts at both limits, a barrier not set, at its last arrival and before it, phases passed and not. -/
theorem wit_barriers : ((sGb 0).g 1).extractLsb' 0 5 = 16#5 ∧ 16 < (((sGb 0).g 2).extractLsb' 0 5).toNat ∧ (((sGb 0).g 0).extractLsb' 0 5).toNat = 0
    ∧ (rget (sGb 0).share.gb (2 : BitVec 4)).extractLsb' 16 5 = 0#5 ∧ (sGb 0).core.cmds = []
    ∧ (let x := rget (sGb 0x0000000700020001).share.gb (2 : BitVec 4)
       (x.extractLsb' 16 5).toNat ≤ (x.extractLsb' 0 5).toNat + 1 ∧ (x.extractLsb' 0 5).toNat ≠ 0)
    ∧ ¬ (((rget (sGb 0x0000000700030001).share.gb (2 : BitVec 4)).extractLsb' 16 5).toNat ≤ 2)
    ∧ (1 ≤ ((8 : Int) - 7) % 2 ^ 32 ∧ ((8 : Int) - 7) % 2 ^ 32 ≤ 2 ^ 31) ∧ ¬ (1 ≤ ((7 : Int) - 7) % 2 ^ 32)
    ∧ gbCount 0x0000000700020000 ≠ 0 ∧ gbArrived 0x0000000700020000 = 0 := by decide +kernel

/-- The last of two arrivals moves the phase; a wait for the phase before goes on, for the present one stands (R334, R335). -/
theorem test_barriers : after (exec (.gbArr 9 2) (sGb 0x0000000700020001)) (fun t => (t.g 9, rget t.share.gb (2 : BitVec 4))) = some (7, 0x0000000800020000)
    ∧ after (exec (.gbWait 2 4) (sGb 0x0000000800020000)) (fun t => t.core.pc) = some 4
    ∧ after (exec (.gbWait 2 5) (sGb 0x0000000800020000)) (fun t => t.core.wait) = some (some .gbWait)
    ∧ after (exec (.gbInit 2 2) (sGb 0)) (fun t => t.core.sys.cause) = some 0xA6 := by decide +kernel

/-- Commands: a store, a load, a store held behind a failed port. -/
def sFe (l : List Cmd) (x : Word := 0) : State := st [] (fun c => { c with cmds := l, port := { c.port with xstat := c.port.xstat.set 1 x } })

/-- The commands that an acquire waits for: those that may still read memory, but for ones held behind a failed port. -/
def readers (s : State) : List Cmd := s.core.cmds.filter (fun c => (match c with
    | .stream c => c.kind != .st || (match c.near with
        | .region _ => true
        | _ => false)
    | .sloe c => c.kind == .dec || c.kind == .bm25)
  && !(!c.active && (xState (s.xstat c.port) == stOverfill || xState (s.xstat c.port) == stError)))

/-- R326, R327: no writer, a writer that may still write, one that is held; readers of memory and none. -/
theorem wit_fences : (readers (sFe [.stream { cmd0 1 with kind := .st }]) = [] ∧ readers (sFe []) = [] ∧ readers (sFe [.stream (cmd0 1)]) ≠ []
      ∧ readers (sFe [.stream { cmd0 12 with kind := .st, near := .region 0x1000 }]) ≠ [] ∧ readers (sFe [.stream (cmd0 1)] 0xA000000000000000) = [])
    ∧ ((sFe [.stream (cmd0 1)]).core.cmds.filter (Cmd.writesAt 1)) = []
    ∧ ((sFe [.stream { cmd0 1 with kind := .st }]).core.cmds.filter (Cmd.writesAt 1)) ≠ []
    ∧ xState ((sFe [.stream { cmd0 1 with kind := .st }]).xstat 1) = stIdle
    ∧ ((sFe [.stream { cmd0 1 with kind := .st }] 0xA000000000000000).core.cmds.filter (Cmd.writesAt 1)) ≠ []
    ∧ xState ((sFe [.stream { cmd0 1 with kind := .st }] 0xA000000000000000).xstat 1) = stError ∧ (cmd0 1).active = false := by decide +kernel

/-- A release stands before a store, and passes a load; an acquire passes a store, and stands before a load; a fence of both kinds
before either (R326, R327; log 88). -/
theorem test_fences : after (exec (.fenceRel 1) (sFe [.stream { cmd0 1 with kind := .st }])) (fun t => t.core.wait) = some (some .fence)
    ∧ after (exec (.fenceRel 1) (sFe [.stream (cmd0 1)])) (fun t => t.core.pc) = some 4
    ∧ after (exec (.fenceAcq 1) (sFe [.stream { cmd0 1 with kind := .st }])) (fun t => t.core.pc) = some 4
    ∧ after (exec (.fenceAcq 1) (sFe [.stream (cmd0 1)])) (fun t => t.core.wait) = some (some .fence)
    ∧ after (exec (.fenceAr 1) (sFe [.stream (cmd0 1)])) (fun t => t.core.wait) = some (some .fence)
    ∧ after (exec (.fenceAr 1) (sFe [.stream { cmd0 1 with kind := .st }] 0xA000000000000000)) (fun t => t.core.sys.nest) = some true := by decide +kernel

/-- A core of context 0 with DETCFG, in deterministic mode or not. -/
def sDs (det : Bool) (cfg : Word) (f : Core → Core := id) (g : Context → Context := id) : State :=
  (st [] (fun c => f { c with vec := { c.vec with det := det } })).onCtx 0 (fun c => g { c with detcfg := cfg })

/-- R341, R342: each condition of det.step. -/
theorem wit_stepForms : (sDs true 1 (fun c => { c with fw := true })).core.fw = true
    ∧ [((none, none) : Option (BitVec 8) × Option BadAccess), (some 0xA0, none)].all (fun v => (((sDs true 1 (fun c => { c with detDone := [(8, some 0xA4, none), (0, v)] })).core.detDone.find? (fun x => x.1 == 0)).map (fun x => x.2)) == some v) = true
    ∧ ((sDs true 1).core.detDone = [] ∧ (sDs true 1).core.pc = 0)
    ∧ (((sDs true 2).ctxAt 0).arrivals.length + 1 < 2 ∧ 1 ≤ ((sDs true 1).ctxAt 0).arrivals.length + 1)
    ∧ (sDs true 1 id (fun c => { c with arrivals := [⟨none, 0, 0, 0, 0⟩] })).arrivedStep = true ∧ (sDs true 1).arrivedStep = false
    ∧ ((sDs false 1).core.vec.det = false ∧ (sDs false 1).core.vec.vprof.getLsbD 4 = false) ∧ (sDs true 1).session.isNone = true
    ∧ ((sDs true 0).ctxAt (sDs true 0).ctxIx).detcfg.extractLsb' 0 16 = 0#16 ∧ ((sDs true 1).ctxAt (sDs true 1).ctxIx).detcfg.extractLsb' 0 16 ≠ 0#16
    ∧ (sDs true 1).core.cmds = [] := by decide +kernel

/-- det.step in a session takes cause 0x77 (R342): a core with a session. -/
theorem wit_stepForms_session : (sRs [sess []]).session.isSome = true ∧ ((sRs [sess []]).onCore (fun c => { c with vec := { c.vec with det := true } })).core.vec.det = true := by
  decide +kernel

/-- R118, R397: a step that met data in error. -/
def sDe : State := sDs true 1 (fun c => { c with detDone := [(0, some 0xC1, some ⟨0x40000000, 2, 3⟩)] })
theorem wit_stepForms_memory : (sDe.core.detDone.find? (fun x => x.1 == sDe.core.pc)).map (fun x => x.2) = some (some 0xC1, some ⟨0x40000000, 2, 3⟩) := by decide +kernel

/-- Its cause, address, KIND and element (R114, R397). -/
theorem test_step_memory : after (exec (.detStep 9) sDe) (fun t => (t.core.sys.cause, t.core.sys.tval, t.core.sys.xlinfo)) = some (0xC1, 0x40000000, 0x3002F00C1) := by
  decide +kernel

/-- The context at the end of a step: NP members, arrivals, bytes held. -/
def sEnd (a : List DetArrival) (b : List StepByte) (np : Word := 1) : State :=
  { sDs true np id (fun c => { c with arrivals := a, stepBytes := b }) with dev := { base.dev with quadmap := base.dev.quadmap.set 0 0x4000000000000000 } }

/-- Two writes of byte 0x2000 by one LCORE, and by two. -/
def endOk : State := sEnd [⟨none, 0, 0, 0, 0⟩] [⟨0, 0, 0, 0x2000, 0x40002000, 7, false, 2⟩, ⟨0, 1, 0, 0x2000, 0x40002000, 9, false, 2⟩]
def endClash : State := sEnd [⟨none, 0, 0, 0, 0⟩, ⟨none, 0, 1, 0, 1⟩] [⟨0, 0, 0, 0x2000, 0x40002000, 7, false, 2⟩, ⟨1, 0, 0, 0x2000, 0x40002000, 9, false, 2⟩] 2
def endTwins : State := sEnd [⟨none, 0, 0, 0, 0⟩, ⟨none, 0, 1, 0, 0⟩] [] 2

/-- R340 to R342: a step that ends well. -/
theorem wit_stepEnds : let c := endOk.ctxAt endOk.ev.ctx
    (c.detcfg.extractLsb' 0 16).toNat = 1 ∧ c.arrivals.length = 1 ∧ c.stepUpds.isEmpty = true
      ∧ c.arrivals.all (fun a => c.arrivals.all (fun b => a.lcore != b.lcore || a.key == b.key)) = true
      ∧ c.stepBytes.all (fun a => c.stepBytes.all (fun b => a.lcore == b.lcore)) = true ∧ endOk.core.fw = false ∧ endOk.inPart endOk.core.id 0 = true
      ∧ c.arrivals.any (fun a => a.key == endOk.core.detKey) = true ∧ Memory.wf endOk.mem = true := by decide +kernel

/-- A step with a conflict, and one with an LCORE twice. -/
theorem wit_stepEnds_fails : (let c := endClash.ctxAt endClash.ev.ctx
     (c.detcfg.extractLsb' 0 16).toNat = 2 ∧ c.arrivals.length = 2 ∧ c.detcfg.extractLsb' 16 16 = 0#16
      ∧ c.arrivals.all (fun a => c.arrivals.all (fun b => a.lcore != b.lcore || a.key == b.key)) = true
      ∧ c.stepBytes.any (fun a => c.stepBytes.any (fun b => !a.covered && !b.covered && a.pa == b.pa && a.lcore != b.lcore)) = true)
    ∧ (let c := endTwins.ctxAt endTwins.ev.ctx
       c.arrivals.any (fun a => c.arrivals.any (fun b => a.lcore == b.lcore && a.key != b.key)) = true) := by decide +kernel

/-- The later write of one LCORE stands; a conflict leaves memory and gives cause 0xA0 (R341, R342). -/
theorem test_steps : after (exec .detStepResolve endOk) (fun t => t.byteAt 0x2000 == 9 && t.core.detDone == [(0, none, none)]) = some true
    ∧ after (exec .detStepResolve endClash) (fun t => t.byteAt 0x2000 == 0 && t.core.detDone == [(0, some 0xA0, none)]) = some true
    ∧ after (exec .detStepResolve endTwins) (fun t => t.core.detDone == [(0, some 0xA4, none)]) = some true
    ∧ after (exec (.detStep 9) (sDs true 1 (fun c => { c with detDone := [(0, some 0xA0, none)] }))) (fun t => t.core.sys.cause == 0xA0 && t.core.detDone == []) = some true := by decide +kernel

/-- Held updates of two cores, out of the order of their keys: two float sums at 0x2000, which holds 1.0, and one at 0x2008, which its own
core also writes. -/
def upd (lc : BitVec 16) (seq pa : Nat) (op : UpdOp) (n : Nat) (v : Int) : StepUpd := ⟨lc, seq, 0, pa, 0x40000000 + pa, n, op, .f32, 0, true, v⟩
def updates : List StepUpd := [upd 1 0 0x2000 .fadd 4 0xCB800000, upd 0 2 0x2000 .fadd 4 0x4B800000, upd 0 1 0x2008 .add 8 3]
def endUpd : State :=
  let s := sEnd [⟨none, 0, 0, 0, 0⟩, ⟨none, 0, 1, 0, 1⟩] [⟨0, 0, 0, 0x2008, 0x40002008, 5, false, 2⟩] 2
  { s.onCtx 0 (fun c => { c with stepUpds := updates }) with mem := [(0x2002, 0x80), (0x2003, 0x3F)] }

/-- R339, R340: those updates in the order of their keys; no two cores' writes meet. -/
theorem wit_stepEnds_updates : updates.reverse.Perm updates
    ∧ updates.reverse.Pairwise (fun x y => Claims.keyBefore (x.lcore, x.seq, x.elem) (y.lcore, y.seq, y.elem))
    ∧ (∀ h ∈ updates, h.atomic = true) ∧ (∀ h ∈ updates, h.tag ≠ .e2m1x)
    ∧ (∀ x ∈ Claims.stepWrites (endUpd.ctxAt endUpd.ev.ctx), ∀ y ∈ Claims.stepWrites (endUpd.ctxAt endUpd.ev.ctx),
        ¬ (x.2.1 = y.2.1 ∧ x.1.2.1 ≠ y.1.2.1 ∧ ¬ (x.1.2.2.2.2 = true ∧ y.1.2.2.2.2 = true)))
    ∧ Memory.wf endUpd.mem = true := by
  unfold Claims.keyBefore
  decide +kernel

/-- 1 + 2^24 rounds to 2^24, and − 2^24 gives +0, as R353 works it out; 5 and 3 make 8 (R339). -/
theorem test_step_updates : after (exec .detStepResolve endUpd) (fun t => t.mem) = some [(0x2008, 8)] := by decide +kernel

/-- Two cores write byte 0x2000, and byte 0x2009 in another element; the log lies at an address, and CAP is given. -/
def endLog (at' : Word) (cap : Nat) : State :=
  let s := sEnd [⟨none, 0, 0, 0, 0⟩, ⟨none, 0, 1, 0, 1⟩] [⟨1, 3, 2, 0x2009, 0x40002009, 2, false, 2⟩, ⟨1, 0, 0, 0x2000, 0x40002000, 9, false, 2⟩,
    ⟨0, 0, 0, 0x2000, 0x40002000, 7, false, 2⟩, ⟨0, 0, 0, 0x2009, 0x40002009, 1, false, 2⟩] (BitVec.ofNat 64 (2 + cap * 2 ^ 16))
  s.onCtx 0 (fun c => { c with dlog := at' })

/-- R343: writes that conflict, and a place for the log in any memory. -/
theorem wit_conflictLog : (let c := (endLog 0x3000 8).ctxAt 0
      (∃ x ∈ Claims.stepWrites c, ∃ y ∈ Claims.stepWrites c, x.2.1 = y.2.1 ∧ x.1.2.1 ≠ y.1.2.1 ∧ ¬ (x.1.2.2.2.2 = true ∧ y.1.2.2.2.2 = true))
        ∧ c.stepUpds = [] ∧ (∀ a ∈ c.arrivals, ∀ b ∈ c.arrivals, a.lcore = b.lcore → a.key = b.key))
    ∧ (endLog 0x3000 8).dev.softBytes = [] ∧ (endLog 0x3000 8).dev.badBytes = [] ∧ (endLog 0x3000 8).dev.quarantine = []
    ∧ (endLog 0x3000 8).core.fw = false ∧ (endLog 0x3000 8).inPart (endLog 0x3000 8).core.id 0 = true
    ∧ ((0x3000 : Word).extractLsb' 4 52 ++ 0#4).signExtend 64 = (0x3000 : Word) ∧ inScratch 0x3000 = false
    ∧ (0xC000000000 : Word).toNat = 0xC000000000 ∧ (endLog 0xC000000000 1).unitPlace 0 .swrite 0xC000000000 16 = none := by decide +kernel

/-- Where the unit places a write with translation off, nothing quarantined or bad, below the host region. -/
theorem unitPlace_off (s : State) (va : Word) (n : Nat) (hc : canonical va = true) (hr : (s.ctxAt 0).atroot.getLsbD 0 = false)
    (ho : fld va 52 12 = 0 ∧ (regionOf va.toNat).open = true) (hh : regionOf va.toNat ≠ .host) (hb : s.dev.badBytes = [])
    (hq : s.quarantined va.toNat n = false) : s.unitPlace 0 .swrite va n = some va.toNat := by
  have ht : translateCtx s 0 .swrite va = .ok va.toNat := by simp only [translateCtx, hc, hr]; simp [ho]
  simp only [State.unitPlace, ht]
  simp [State.unitRefused, AccKind.reads, hq, State.narrowBad, hb, hh]

/-- With translation off the log is placed whatever memory holds. -/
theorem wit_conflictLog_placed (m : List Host.Cell) : ∀ i < 4,
    ({ endLog 0x3000 8 with mem := m } : State).unitPlace 0 .swrite (BitVec.ofNat 64 (0x3000 + 16 * i)) 16 = some (0x3000 + 16 * i) := by
  intro i hi
  have hr : (({ endLog 0x3000 8 with mem := m } : State).ctxAt 0).atroot.getLsbD 0 = false := by
    show ((endLog 0x3000 8).ctxAt 0).atroot.getLsbD 0 = false
    decide +kernel
  have hv : ∀ i < 4, canonical (BitVec.ofNat 64 (0x3000 + 16 * i)) = true ∧ fld (BitVec.ofNat 64 (0x3000 + 16 * i)) 52 12 = 0
      ∧ (regionOf (BitVec.ofNat 64 (0x3000 + 16 * i)).toNat).open = true ∧ regionOf (BitVec.ofNat 64 (0x3000 + 16 * i)).toNat ≠ .host
      ∧ (BitVec.ofNat 64 (0x3000 + 16 * i)).toNat = 0x3000 + 16 * i := by decide +kernel
  obtain ⟨h1, h2, h3, h4, h5⟩ := hv i hi
  rw [unitPlace_off _ _ _ h1 hr ⟨h2, h3⟩ h4 rfl rfl, h5]

/-- R343, R352: the first entry is that of LCORE 0 for the lower word, byte 0; the third is byte 1 of the word after; DSTAT counts
four, with CAP 1 it has OVF, and where the log has no place LFLT. -/
theorem test_conflict_log : after (exec .detStepResolve (endLog 0x3000 8)) (fun t =>
      ([0x3000, 0x3008, 0x3010, 0x3018, 0x3020, 0x3030, 0x3038].map (fun a => ofBytes (Memory.read t.mem a 8)), t.core.dstat))
      = some ([0x4000200001, 0, 0x4000200001, 0x1000000000000, 0x4000200802, 0x4000200802, 0x1000200000003], 0x40000004)
    ∧ after (exec .detStepResolve (endLog 0x3000 1)) (fun t => (t.mem.length, t.core.dstat)) = some (3, 0xC0000004)
    ∧ after (exec .detStepResolve (endLog 0xC000000000 1)) (fun t => (t.mem, t.core.dstat)) = some ([], 0xE0000004) := by decide +kernel

/-- The NP-th arrival ends the step at once, and the form then goes on; an earlier arrival stands (R342). -/
theorem test_step_arrivals : after (exec (.detStep 9) { sDs true 1 with dev := { base.dev with quadmap := base.dev.quadmap.set 0 0x4000000000000000 } })
      (fun t => (t.ctxAt 0).arrivals.length == 0 && t.core.detDone == [(0, none, none)] && t.core.wait == some .detStep) = some true
    ∧ after (exec (.detStep 9) (sDs true 2)) (fun t => (t.ctxAt 0).arrivals.length == 1 && t.core.detDone == [] && t.core.wait == some .detStep) = some true
    ∧ after (exec (.detStep 9) ((sDs true 1).onCore (fun c => { c with detDone := [(0, none, none)], dstat := 0x500000000 }))) (fun t => (t.g 9, t.core.pc)) = some (5, 4) := by
  decide +kernel

/-! ## Tasks and queues -/

/-- Cores 0 to 3 in partition 0; queue 0 as given, the record of CTL at 0x1000, its CODE 0x4000. -/
def sTk (ctl : Byte) (q : Queue) (f : Core → Core := id) (hi : Byte := 0) (mem : List Host.Cell := []) : State :=
  { (st [(1, 0x1000), (2, 1), (3, 65), (4, 0x1008), (5, 0x1040), (6, 16), (7, 2)] f).onCtx 0 (fun c => { c with queues := c.queues.set 0 q }) with
    mem := [(0x1001, 0x40)] ++ (if ctl = 0 then [] else [(0x1018, ctl)]) ++ (if hi = 0 then [] else [(0x101A, hi)]) ++ mem
    dev := { base.dev with quadmap := base.dev.quadmap.set 0 0x4000000000000000 } }

/-- A queue of two records at 0x2000, with n of them held. -/
def queue2 (n : BitVec 32) : Queue := { Queue.reset with state := .mapped, ring := 0x2000, cap := 2, tail := n }

/-- R366, R375: counts, a record that passes, ones that fail each check, a queue with room and without. -/
theorem wit_taskSpawn : (((sTk 1 (queue2 0)).g 0).toNat = 0 ∧ 64 < ((sTk 1 (queue2 0)).g 3).toNat ∧ ((sTk 1 (queue2 0)).g 4).toNat % 32 ≠ 0 ∧ ((sTk 1 (queue2 0)).g 2).toNat = 1)
    ∧ [(sTk 1 (queue2 0), (1 : Word)), (sTk 0 (queue2 0), 0), (sTk 1 (queue2 0) id 1, 0x10001), (sTk 1 Queue.reset, 1), (sTk 16 (queue2 0), 16), (sTk 1 (queue2 2), 1)].all
        (fun x => (readRecords 0x1000 1 1 x.1).toOption.map (fun y => y.1) == some [⟨0x4000, 0, 0, x.2⟩]) = true
    ∧ (⟨0x4000, 0, 0, 1⟩ : Record).queue = 0 ∧ (sTk 1 (queue2 0)).core.cmds = []
    ∧ (∃ base, base % 1 = 0 ∧ base + 1 ≤ 256 ∧ ∀ j < 1, (sTk 1 (queue2 0)).inPart (BitVec.ofNat 8 (base + j)) 0 = true)
    ∧ ((sTk 1 (queue2 0)).unitPlace 0 .xwrite 0x2000 32 = some 0x2000) ∧ (sTk 1 (queue2 0)).memOk
    ∧ (1 + ((queue2 0).tail - (queue2 0).head).toNat ≤ 2 ∧ ¬ 1 + ((queue2 2).tail - (queue2 2).head).toNat ≤ 2) := by
  refine ⟨?_, ?_, ?_, ?_, ⟨0, ?_⟩, ?_, ?_, ?_⟩
  all_goals (try unfold State.memOk)
  all_goals decide +kernel

/-- A size of 0, a HOST record; a record that is good in every field (R366). -/
theorem wit_taskSpawn_records : Claims.malformed ⟨0x4000, 0, 0, 0⟩ ∧ (⟨0x4000, 0, 0, 0x10001⟩ : Record).ctl.getLsbD 16 = true
    ∧ ¬ Claims.malformed ⟨0x4000, 0, 0, 1⟩ ∧ ¬ Claims.malformed ⟨0x4000, 0, 0, 16⟩ := by
  unfold Claims.malformed
  decide +kernel

/-- A gang of 16 finds no place among four cores (R375). -/
theorem wit_taskSpawn_places : ¬ ∃ base, base % 16 = 0 ∧ base + 16 ≤ 256 ∧ ∀ j < 16, (sTk 16 (queue2 0)).inPart (BitVec.ofNat 8 (base + j)) 0 = true := by
  rintro ⟨base, h, h1, h2⟩
  have h3 : ∀ i < 16, ∃ j < 16, (sTk 16 (queue2 0)).inPart (BitVec.ofNat 8 (16 * i + j)) 0 = false := by decide +kernel
  obtain ⟨j, hj, h4⟩ := h3 (base / 16) (by omega)
  have h5 := h2 j hj
  rw [show base = 16 * (base / 16) by omega] at h5
  rw [h4] at h5
  exact absurd h5 (by decide)

/-- A record goes to TAIL; a malformed one takes cause 0x88, a queue that is not mapped 0x89, no place 0x8A; a full queue
stands (R375). -/
theorem test_spawn : after (exec (.taskSpawn 1 2) (sTk 1 (queue2 1))) (fun t => ((t.queueRaw 0 0).tail, t.byteAt 0x2021, t.core.pc)) = some (2, 0x40, 4)
    ∧ after (exec (.taskSpawn 1 2) (sTk 3 (queue2 0))) (fun t => t.core.sys.cause) = some 0x88
    ∧ after (exec (.taskSpawn 1 2) (sTk 1 Queue.reset)) (fun t => t.core.sys.cause) = some 0x89
    ∧ after (exec (.taskSpawn 1 2) (sTk 16 (queue2 0))) (fun t => t.core.sys.cause) = some 0x8A
    ∧ after (exec (.taskSpawn 1 2) (sTk 1 (queue2 2))) (fun t => t.core.wait) = some (some .spawn) := by decide +kernel

/-- A task.spawn that stands with its record copied; memory holds other bytes by now (R375). -/
def sCo : State := { (sTk 1 (queue2 0)).onCore (fun c => { c with spawned := (⟨0x4000, 0, 0, 1⟩ : Record).words }) with mem := [] }
theorem wit_taskSpawn_copied : [(⟨0x4000, 0, 0, 1⟩ : Record)] ≠ [] ∧ sCo.core.spawned = [(⟨0x4000, 0, 0, 1⟩ : Record)].flatMap Record.words ∧ sCo.core.cmds = []
    ∧ sCo.core.spawnLost = false ∧ sCo.dev.badBytes = [] ∧ ((sCo.g 2).toNat = 1 ∧ (sCo.g 1).toNat % 32 = 0)
    ∧ (sCo.onCore (fun c => { c with spawnLost := true })).core.spawnLost = true := by
  decide +kernel

/-- The copy is pushed; cause 0x89 once its queue has left MAPPED, be it mapped again. -/
theorem test_spawn_copied : after (exec (.taskSpawn 1 2) sCo) (fun t => ((t.queueRaw 0 0).tail, t.byteAt 0x2001, t.core.spawned)) = some (1, 0x40, [])
    ∧ after (exec (.taskSpawn 1 2) (sCo.onCore (fun c => { c with spawnLost := true }))) (fun t => t.core.sys.cause) = some 0x89 := by
  decide +kernel

/-- Core 0 in a gang of the given cores, with JOIN. -/
def sGn (cores : List (BitVec 8)) (join : Word) : State :=
  { sTk 1 (queue2 0) (fun c => { c with gang := some 0 }) with gangs := [⟨0, 0, 0, cores, 0, join, [], none, GangShare.reset⟩] }

/-- R374 to R377: no task, a member that is not the last, the last with JOIN and without. -/
theorem wit_taskExit : (sTk 1 (queue2 0)).myGang.isNone = true ∧ [sGn [0, 1] 0, sGn [0] 0, sGn [0] 0x1040].all (fun s =>
    match s.myGang with
    | some g => s.core.cmds.isEmpty && s.core.tile.queue.isEmpty && (List.range 16).all (fun p => s.xstat (BitVec.ofNat 4 p) == 0)
        && g.exited.isEmpty && g.join.toNat % 64 == 0
    | none => false) = true := by decide +kernel

/-- The last member frees its core; one before it waits as exited; outside a task cause 0x8D (R374, R376). -/
theorem test_exit : after (exec .taskExit (sGn [0] 0)) (fun t => (t.core.run, t.core.gang, t.gangs.length)) = some (.idle, none, 0)
    ∧ after (exec .taskExit (sGn [0, 1] 0)) (fun t => (t.core.run, t.gangs.map (fun g => g.exited))) = some (.exited, [[0]])
    ∧ after (exec .taskExit (sTk 1 (queue2 0))) (fun t => t.core.sys.cause) = some 0x8D := by decide +kernel

/-- R378, R379: a join block with COUNT 1 and with COUNT 0, and notifications of each kind of queue. -/
theorem wit_taskSignals : (let s := sTk 1 (queue2 0) id 0 [(0x1040, 1)]
      (s.g 4).toNat % 64 ≠ 0 ∧ (s.g 5).toNat % 64 = 0 ∧ s.core.cmds = []
      ∧ (reach s s.core.cmds s.pl .atomic (s.g 5) 8).toOption = some ⟨0x1040, none, none⟩ ∧ wordOfBytes (s.readAt ⟨0x1040, none, none⟩ .atomic 0 (s.g 5) 8) = 1
      ∧ (s.g 0).extractLsb' 4 60 = 0#60 ∧ (s.g 7).toNat ≤ (s.queue s.ctxIx 0).cap.toNat ∧ (s.g 6).extractLsb' 4 60 ≠ 0#60 ∧ (s.queue s.ctxIx 0).state = .mapped
      ∧ (s.queue s.ctxIx 1).state = .unmapped ∧ (s.queue s.ctxIx 1).desc.isNone = true ∧ (s.g 2).extractLsb' 0 4 = 1#4)
    ∧ wordOfBytes ((sTk 1 (queue2 0)).readAt ⟨0x1040, none, none⟩ .atomic 0 ((sTk 1 (queue2 0)).g 5) 8) = 0
    ∧ ((sTk 1 { queue2 0 with state := .draining }).queue 0 0).state = .draining := by decide +kernel

/-- A join gives COUNT and takes one from it; a notification moves TAIL by n, and for a queue never mapped is held (R378, R379). -/
theorem test_signals : after (exec (.taskJoin 9 5) (sTk 1 (queue2 0) id 0 [(0x1040, 2)])) (fun t => (t.g 9, t.byteAt 0x1040)) = some (2, 1)
    ∧ after (exec (.taskJoin 9 5) (sTk 1 (queue2 0))) (fun t => t.core.sys.cause) = some 0x8B
    ∧ after (exec (.taskNotify 0 7) (sTk 1 (queue2 0))) (fun t => (t.queueRaw 0 0).tail) = some 2
    ∧ after (exec (.taskNotify 2 7) (sTk 1 (queue2 0))) (fun t => (t.queueRaw 0 1).heldCount) = some 2 := by decide +kernel

/-- Queue 0 UNMAPPED with its descriptor at 0x1040, TAIL 1. -/
def sNo : State := sTk 1 { queue2 1 with state := .unmapped, desc := some 0x1040 } id 0 [(0x1041, 0x20), (0x1048, 2), (0x1054, 1)]

/-- R379: a notification of a queue that is UNMAPPED, with a descriptor that the unit reaches. -/
theorem wit_taskSignals_unmapped : sNo.memOk ∧ sNo.unitScrub sNo.ctxIx 0x1040 64 = sNo ∧ sNo.unitPlace sNo.ctxIx .xread 0x1040 64 = some 0x1040
    ∧ sNo.unitPlace sNo.ctxIx .xwrite 0x1040 64 = some 0x1040
    ∧ ((sNo.queue sNo.ctxIx 0).state = .unmapped ∧ (sNo.queue sNo.ctxIx 0).desc = some 0x1040 ∧ (sNo.g 2).toNat ≤ (sNo.queue sNo.ctxIx 0).cap.toNat) := by
  refine ⟨by unfold State.memOk; decide +kernel, rfl, ?_, ?_, ?_⟩ <;> decide +kernel

/-- TAIL and PNOTIFY in the descriptor (R379). -/
theorem test_notify_unmapped : after (exec (.taskNotify 0 2) sNo) (fun t => (t.peek64 0x1050, (t.peek64 0x1070).getLsbD 2, (t.queueRaw 0 0).tail)) = some (0x0000000200000000, true, 2) := by
  decide +kernel

/-- A join block at 0x1040 of COUNT n, STATUS, and a record of CTL and its byte 2. -/
def sJn (n st ctl hi : Byte) : State :=
  sTk 1 (queue2 0) id 0 ((if n = 0 then [] else [(0x1040, n)]) ++ (if st = 0 then [] else [(0x1048, st)]) ++ [(0x1078, ctl)] ++ (if hi = 0 then [] else [(0x107A, hi)]))

/-- R368: COUNT 0, 2 and 1; at 1 a record for its queue, one for the host, and an aborted one. -/
theorem wit_signals : [sJn 0 0 1 0, sJn 2 0 1 0, sJn 1 0 1 0, sJn 1 0 1 1, sJn 1 1 1 0].all (fun s =>
      s.unitPlace 0 .atomic 0x1040 64 == some 0x1040 && Memory.wf s.mem && (s.queueRaw 0 0).state == .mapped && !s.core.fw && s.inPart s.core.id 0) = true
    ∧ (sJn 0 0 1 0).peek64 0x1040 = 0 ∧ (sJn 2 0 1 0).peek64 0x1040 = 2 ∧ (sJn 1 0 1 0).peek64 0x1040 = 1 ∧ (sJn 1 1 1 0).peek64 0x1048 = 1
    ∧ ((sJn 1 0 1 1).recordAt 0x1060).ctl.getLsbD 16 = true ∧ ((sJn 1 0 1 0).recordAt 0x1060).ctl.getLsbD 16 = false ∧ ((sJn 1 1 1 0).recordAt 0x1060).join = 0 := by decide +kernel

/-- No byte of them is bad. -/
theorem wit_signals_clean : (sJn 0 0 1 0).unitScrub 0 0x1040 64 = sJn 0 0 1 0 ∧ (sJn 2 0 1 0).unitScrub 0 0x1040 64 = sJn 2 0 1 0
    ∧ (sJn 1 0 1 0).unitScrub 0 0x1040 64 = sJn 1 0 1 0 ∧ (sJn 1 0 1 1).unitScrub 0 0x1040 64 = sJn 1 0 1 1 ∧ (sJn 1 1 1 0).unitScrub 0 0x1040 64 = sJn 1 1 1 0 :=
  ⟨rfl, rfl, rfl, rfl, rfl⟩

/-- Queue 0 of context 0 for an event, with a descriptor at 0x1040 of CAP 2 and RING 0x2000, TAIL 1. -/
def sQc (q : Queue) (desc : BitVec 50) (cap : Byte := 2) : State :=
  { sTk 1 q id 0 [(0x1041, 0x20), (0x1048, cap), (0x1054, 1)] with ev := { EventArg.none with desc := desc } }

/-- R370, R381: every state of a queue, descriptors that are good, bad and not reached. -/
theorem wit_queueCommands : [QState.unmapped, .mapped, .draining, .aborting].all (fun x => ((sQc { queue2 0 with state := x } 0x41).queueRaw 0 0).state == x) = true
    ∧ (sQc Queue.reset 0x3000000000).unitPlace 0 .xwrite (((0x3000000000#50 ++ 0#6 : BitVec 56)).signExtend 64) 64 = none
    ∧ (let s := sQc Queue.reset 0x41
       s.unitPlace 0 .xwrite (((0x41#50 ++ 0#6 : BitVec 56)).signExtend 64) 64 = some 0x1040 ∧ ((s.peek64 0x1048).extractLsb' 0 16).toNat = 2 ^ 1 ∧ (s.peek64 0x1040).toNat % 32 = 0
        ∧ ((s.peek64 0x1050).extractLsb' 32 32 - (s.peek64 0x1050).extractLsb' 0 32).toNat ≤ 2 ∧ Queue.reset.heldH = 0 ∧ Queue.reset.heldCount = 0 ∧ Queue.reset.heldCpl = []) := by
  decide +kernel

/-- A queue never mapped for which n records were notified and a join block at 0x3000 is held; its descriptor has a chain that ends
at 0x3040, or none. -/
def sHeld (n : Nat) (chain : Bool) : State :=
  sTk 1 { Queue.reset with heldCount := n, heldH := 0x3000, heldT := 0x3000 } id 0 ([(0x1041, 0x20), (0x1048, 2), (0x1054, 1)]
    ++ if chain then [(0x1058, 0x40), (0x1059, 0x30), (0x1060, 0x40), (0x1061, 0x30)] else []) |> fun s => { s with ev := { EventArg.none with desc := 0x41 } }

/-- R370: held notifications that fit and that do not, a held join block with a chain before it and without. -/
theorem wit_queueCommands_held : (sHeld 1 true).unitScrub 0 0x1040 64 = sHeld 1 true
    ∧ (let s := sHeld 1 true
       s.memOk ∧ (s.queueRaw 0 0).state = .unmapped ∧ s.unitPlace 0 .atomic 0x1040 64 = some 0x1040 ∧ (s.queueRaw 0 0).heldH ≠ 0 ∧ s.peek64 0x1058 ≠ 0
        ∧ (s.queueRaw 0 0).heldCpl = [] ∧ s.unitPlace 0 .xwrite (s.peek64 0x1060 + 16) 8 = some 0x3050
        ∧ ((s.peek64 0x1050).extractLsb' 32 32 + 1#32 - 0#32).toNat ≤ 2)
    ∧ (2 < ((sHeld 2 false).peek64 0x1050).toNat / 2 ^ 32 + 2 ∧ (sHeld 2 false).peek64 0x1058 = 0 ∧ (sHeld 2 false).core.fw = false ∧ (sHeld 2 false).inPart 0 0 = true) := by
  refine ⟨rfl, ?_, ?_⟩
  all_goals (try unfold State.memOk)
  all_goals decide +kernel

/-- The records join TAIL and the block the chain; of records that find no room ERR and QERR tell (R370). -/
theorem test_map_held : after (exec .qctlMap (sHeld 1 true)) (fun t => ((t.queueRaw 0 0).tail, (t.queueRaw 0 0).chainH, (t.queueRaw 0 0).chainT)) = some (2, 0x3040, 0x3000)
    ∧ after (exec .qctlMap (sHeld 2 false)) (fun t => ((t.queueRaw 0 0).tail, (t.queueRaw 0 0).err, (t.queueRaw 0 0).chainH, t.core.sys.evt)) = some (2, true, 0x3000, 8) := by decide +kernel

/-- A CAP of 3 is not good. -/
theorem wit_queueCommands_bad : ¬ ((∃ k, 1 ≤ k ∧ k ≤ 15 ∧ (((sQc Queue.reset 0x41 3).peek64 0x1048).extractLsb' 0 16).toNat = 2 ^ k)) := by
  rintro ⟨k, h1, h2, h3⟩
  have h4 : (((sQc Queue.reset 0x41 3).peek64 0x1048).extractLsb' 0 16).toNat = 3 := by decide +kernel
  have h5 : ∀ j < 16, (2 : Nat) ^ j ≠ 3 := by decide
  exact h5 k (by omega) (h3 ▸ h4)

/-- A map takes TAIL and CAP from the descriptor; a second one is refused with cause 0x89; a drain (R370, R381). -/
theorem test_queue_commands : after (exec .qctlMap (sQc Queue.reset 0x41)) (fun t => ((t.queueRaw 0 0).state, (t.queueRaw 0 0).tail, (t.ctxAt 0).qres)) = some (.mapped, 1, 0x8000000000001000)
    ∧ after (exec .qctlMap (sQc (queue2 0) 0x41)) (fun t => (t.ctxAt 0).qres) = some 0x8000000000001089
    ∧ after (exec .qctlDrain (sQc (queue2 0) 0x41)) (fun t => ((t.queueRaw 0 0).state, (t.ctxAt 0).qres)) = some (.draining, 0x8000000000002000) := by decide +kernel

/-- R381, R382: a drained and an aborted queue, with a descriptor and without one. -/
theorem wit_queueEnds : [QState.draining, .aborting].all (fun x =>
      let s := sQc { queue2 0 with state := x, desc := some 0x1040 } 0
      (s.queueRaw 0 0).state == x && s.gangs.isEmpty && (s.ctxAt 0).saved.isEmpty && Memory.wf s.mem && s.unitPlace 0 .xwrite 0x1040 64 == some 0x1040) = true
    ∧ ((sQc { queue2 0 with state := .draining } 0).queueRaw 0 0).desc.isNone = true := by decide +kernel

/-- An ABORTING queue with one record of JOIN 0x1080, whose join block has COUNT 2. -/
def sAb : State := { sTk 1 { queue2 1 with state := .aborting } id 0 [(0x1080, 2), (0x2010, 0x80), (0x2011, 0x10)] with ev := EventArg.none }

/-- R382: a record that was notified while its queue was ABORTING. -/
theorem wit_queueEnds_notified : sAb.unitScrub 0 0x2000 32 = sAb
    ∧ (let x := sAb.queueRaw 0 0
       x.state = .aborting ∧ x.tail = x.head + 1 ∧ x.cap ≠ 0 ∧ sAb.unitPlace 0 .xread 0x2000 32 = some 0x2000 ∧ sAb.peek64 0x2010 ≠ 0 ∧ (sAb.peek64 0x2010).toNat % 64 = 0
        ∧ sAb.gangs = [] ∧ (sAb.ctxAt 0).saved = []) := ⟨rfl, by decide +kernel⟩

/-- Its join block has COUNT 1 and STATUS aborted (R368, R382). -/
theorem test_abort_notified : after (exec .queueAbortComplete sAb) (fun t => ((t.queueRaw 0 0).state, (t.queueRaw 0 0).head, t.peek64 0x1080, t.peek64 0x1088)) = some (.unmapped, 1, 1, 1) := by
  decide +kernel

/-- The end of a drain writes TAIL and HEAD back (R381). -/
theorem test_queue_ends : after (exec .queueDrainComplete (sQc { queue2 1 with state := .draining, desc := some 0x1040 } 0)) (fun t =>
    ((t.queueRaw 0 0).state, t.peek64 0x1050)) = some (.unmapped, 0x0000000100000000) := by decide +kernel

/-- Four idle cores; queue 0 holds the record of CTL n, whose CODE is 0x4000. -/
def sDp (n : Byte) (res : Option (BitVec 4 × Bool)) : State :=
  { ({ base with core := { base.core with run := .idle } } : State).onCtx 0 (fun c => { c with queues := c.queues.set 0 (queue2 1), res := res }) with
    mem := [(0x2001, 0x40), (0x2018, n)], dev := { base.dev with quadmap := base.dev.quadmap.set 0 0x4000000000000000 } }

/-- R365, R371: one head, free to choose or reserved, sizes 1 and 4. -/
theorem wit_dispatches : [(sDp 1 none, (1 : Word)), (sDp 4 none, 4), (sDp 1 (some (0, true)), 1)].all (fun x =>
      let s := x.1
      s.dev.dierst.extractLsb' 0 2 == 0#2 && (s.ctxAt 0).eqcfg.extractLsb' 0 24 == 0#24 && !(s.ctxAt 0).heldBack && s.dev.ckRun.isNone
        && (s.ctxAt 0).savea.extractLsb' 0 9 == 0#9 && s.heads 0 == [⟨0, none, ⟨0x4000, 0, 0, x.2⟩⟩]
        && (List.range 4).all (fun i => s.inPart (BitVec.ofNat 8 i) 0 && (match s.coreAt (numbered (BitVec.ofNat 8 i)) with
          | some c => c.gang.isNone && c.run == .idle
          | none => false))) = true
    ∧ (sDp 1 (some (0, true))).resHead 0 = some ⟨0, none, ⟨0x4000, 0, 0, 1⟩⟩
    ∧ (sDp 1 none).dev.softBytes = [] ∧ (sDp 1 none).dev.badBytes = [] ∧ (∀ y ∈ (sDp 1 none).heads 0, ¬ (4 * (y.q.toNat / 4) < 0))
    ∧ (⟨0x4000, 0, 0, 1⟩ : Record).rsv = false ∧ (⟨0x4000, 0, 0, 1⟩ : Record).ctl.getLsbD 16 = false := by decide +kernel

/-- The record starts core 0 at CODE with rank 0 and size 4 (R373). -/
theorem test_dispatch : after (exec .dispatch (sDp 4 none)) (fun t => t.core.pc == 0x4000 && t.core.run == .running && t.g 3 == 0 && t.g 4 == 4 && t.gangs.map (fun g => g.cores) == [[0, 1, 2, 3]]) =
    some true := by decide +kernel

/-- Core 0 at user level in a gang that is to go, with one slot at the given base. -/
def sPe (due : Option PreemptWhy) (savea : Word) : State :=
  (atLevel 0 { sGn [0] 0 with gangs := [⟨0, 0, 0, [0], 0, 0, [], due, GangShare.reset⟩] }).onCtx 0 (fun c => { c with savea := savea })

/-- Its g3 holds an error. -/
def sPeErr : State := (sPe none 0x10000001).onCore (fun c => { c with regErr := [.g 3] })

/-- R403, R405: a gang to discard, one to save into a slot that is reached, one whose slot is in a hole. -/
theorem wit_preemption : [sPe (some .discard) 0, sPe none 0x10000001, sPe (some .save) 0xC000000001].all (fun s =>
      (match s.coreAt s.ev.c with
        | some c => c.gang.bind s.gangAt == s.gangs.head?
        | none => false)
      && s.gangs.all (fun g => (s.members g).all (fun y => y.sys.pl == plUser)) && !s.slotFull 0 0) = true
    ∧ min (((sPe none 0x10000001).ctxAt 0).savea.extractLsb' 0 9).toNat 256 = 1
    ∧ (sPe none 0x10000001).slotReachable 0 .xwrite (((sPe none 0x10000001).ctxAt 0).slotVa 0) 1 = true
    ∧ (sPe none 0xC000000001).slotReachable 0 .xwrite (((sPe none 0xC000000001).ctxAt 0).slotVa 0) 1 = false
    ∧ ((sPe none 0x10000001).slotWord 0 (((sPe none 0x10000001).ctxAt 0).slotVa 0)).isSome = true
    ∧ (sPe none 0x10000001).gangs.all (fun g => ((sPe none 0x10000001).members g).all (fun y => y.regErr.isEmpty)) = true
    ∧ (sPeErr.gangs.all (fun g => (sPeErr.members g).any (fun y => !y.regErr.isEmpty)) && !sPeErr.slotFull 0 0) = true := by decide +kernel

/-- A discarded gang leaves its core free; a slot in a hole, and a register that holds an error, leave the gang and post QERR
(R119, R382, R405). -/
theorem test_preemption : after (exec .gangPreempt (sPe (some .discard) 0)) (fun t => (t.gangs.length, t.core.gang, t.core.run)) = some (0, none, .idle)
    ∧ after (exec .gangPreempt (sPe (some .save) 0xC000000001)) (fun t => (t.gangs.length, t.core.sys.evt)) = some (1, 8)
    ∧ after (exec .gangPreempt sPeErr) (fun t => (t.gangs.length, t.core.sys.evt)) = some (1, 8) := by
  decide +kernel

/-- A gang of one, saved from core 5 of queue 0 in the slot at 0x10000000: the header, g1 = 0x77, the number of the save. -/
def savedOne : SavedGang := ⟨0, ⟨7, 0, 0, [5], 0, 0, [], none, GangShare.reset⟩, [{ base.core with id := 5, gang := some 7 }], none, 0, false⟩
def sRe : State :=
  { ({ base with core := { base.core with run := .idle } } : State).onCtx 0 (fun c => { c with savea := 0x10000001, saved := [savedOne] }) with
    mem := [(0x10000000, 0x58), (0x10000001, 0x43), (0x10000002, 0x36), (0x10000003, 0x5A), (0x10000004, 1), (0x10000006, 1), (0x10000009, 0x40), (0x10000048, 0x77), (0x10010000, 1)]
    dev := { base.dev with quadmap := base.dev.quadmap.set 0 0x4000000000000000 } }

/-- R405 to R408: a saved gang, as the device wrote it, and nothing to place. -/
theorem wit_restores : let y := sRe.ctxAt 0
    let va := y.slotVa 0
    let rd (k : Nat) : Word := sRe.slotRead 0 va k
    (sRe.dev.dierst.extractLsb' 0 2 = 0#2 ∧ y.eqcfg.extractLsb' 0 24 = 0#24 ∧ y.heldBack = false ∧ sRe.dev.ckRun = none ∧ sRe.dev.softBytes = []
      ∧ sRe.dev.badBytes = [] ∧ sRe.dev.quarantine = [] ∧ y.savea.extractLsb' 0 9 = 1#9 ∧ y.res = none)
    ∧ (∀ q : BitVec 4, (sRe.queueRaw 0 q).chainH = 0 ∧ (sRe.queueRaw 0 q).head = (sRe.queueRaw 0 q).tail)
    ∧ y.saved.find? (fun z => z.id + 1 == (rd 0x10000).toNat) = some savedOne ∧ (sRe.queueRaw 0 0).state = .unmapped
    ∧ (rd 0).extractLsb' 0 32 = 0x5A364358#32 ∧ ((rd 0).extractLsb' 48 8).toNat = 1 ∧ (rd 24).getLsbD 16 = false
    ∧ sRe.recordBad 0 va (some savedOne) = false ∧ sRe.memberOk 0 (va + BitVec.ofNat 64 (memberOff 0)) (some 0) 0 = true
    ∧ sRe.slotReachable 0 .xread va 1 = true
    ∧ (sRe.inPart 0 0 = true ∧ (sRe.coreAt (numbered 0)).isSome = true ∧ (sRe.coreAt (numbered 0)).all (fun c => c.gang.isNone) = true) := by
  decide +kernel

/-- A step of the gang has ended since the save, with STEP 5 and a conflict (R343). -/
def sReStep : State := sRe.onCtx 0 (fun c => { c with saved := [{ savedOne with stepped := true, cores := [{ base.core with id := 5, gang := some 7, dstat := 0x540000002 }] }] })

/-- Its slot is sound, and the member that goes on from it is the first (R405, R408). -/
theorem wit_restores_stepped : let va := (sReStep.ctxAt 0).slotVa 0
    sReStep.recordBad 0 va (sReStep.ctxAt 0).saved.head? = false ∧ sReStep.memberOk 0 (va + BitVec.ofNat 64 (memberOff 0)) (some 0) 0 = true
    ∧ (sReStep.ctxAt 0).saved.any (fun x => x.stepped && (x.cores[0]?).any (fun m => m.dstat == 0x540000002)) = true := by decide +kernel

/-- R406: sizes and ranks in range, the header and a register of an image. -/
theorem wit_imageWords : (16 < 256 ∧ 15 < 256) ∧ (base.core.imageWord ⟨1, 0, 0x4000, 3, 0, none, false⟩ (fun _ _ => 0) 0) 0 = 0x00010001_5A364358
    ∧ (base.core.imageWord ⟨1, 0, 0x4000, 3, 0, none, false⟩ (fun _ _ => 0) 0) 8 = 0x4000 := by decide +kernel

/-! ## VP blocks -/

/-- VPs 0 and 2 live in a block, at different words, or a block that is suspended, or none; targets and masks. -/
def sVp (live : Bool) (vpstat : Word) (grp : BitVec 8192) (pcs : List (BitVec 13 × Word) := [(0, 0x104), (2, 0x100)]) : State :=
  st [(1, 0x200), (2, 0x202)] (fun c => vec 4 [(3, vreg .n32 []), (4, vreg .f32 [])] [(1, 5), (2, 4), (3, 0)]
    { c with vp := ⟨vpstat, pcs, live, grp⟩ })

/-- R387 to R391: outside a block (none, and one suspended), in a block where VPs are left and where none is; masks that
start VPs and none; targets that are aligned and not. -/
theorem wit_vpBlocks : (sVp false 0 0).core.vp.live = false ∧ (sVp false 0 0).core.vp.vpstat.getLsbD 63 = false ∧ (sVp false 0x8000000000000002 0).core.vp.vpstat.getLsbD 63 = true
    ∧ ((sVp false 0 0).g 1).toNat % 4 = 0 ∧ ((sVp false 0 0).g 2).toNat % 4 ≠ 0
    ∧ (0 < (sVp false 0 0).core.vec.n ∧ ((sVp false 0 0).kreg 1).getLsbD 0 = true) ∧ (∀ e < 4, ((sVp false 0 0).kreg 3).getLsbD e = false)
    ∧ (let v := (sVp true 0x8000000000000002 4).core.vp
       v.live = true ∧ v.pcs ≠ [] ∧ v.pcs.filter (fun x => !(v.grp.getLsbD x.1.toNat && ((sVp true 0 0).kreg 2).getLsbD x.1.toNat)) = [(0, 0x104)])
    ∧ (let v := (sVp true 0x8000000000000001 4 [(2, 0x100)]).core.vp
       v.pcs.filter (fun x => !(v.grp.getLsbD x.1.toNat && ((sVp true 0 0).kreg 2).getLsbD x.1.toNat)) = [])
    ∧ (sVp true 0x8000000000000001 4).core.blk.live = false ∧ ((sVp true 0 0).vop 3).tag = .n32 ∧ ((sVp true 0 0).vop 4).tag = .f32 := by decide +kernel

/-- The tag of vp.id's register, and its room. -/
theorem wit_vpBlocks_id : Claims.fits (sVp false 0 0) 3 := by simp only [Claims.fits]; decide +kernel

/-- vp.run starts the VPs of the mask; the group of the least PC branches, and then stops; vp.id counts (R387 to R390). -/
theorem test_vp : after (exec (.vpRun 1 1) (sVp false 0 0 [])) (fun t => (t.core.vp.pcs, t.core.vp.vpstat)) = some ([(0, 0x200), (2, 0x200)], 0x8000000000000002)
    ∧ after (exec (.vpBr 1 2) (sVp true 0x8000000000000002 4)) (fun t => t.core.vp.pcs) = some [(0, 0x104), (2, 0x200)]
    ∧ after (exec (.vpStop 2) (sVp true 0x8000000000000001 4 [(2, 0x100)])) (fun t => (t.core.vp.live, t.core.pc)) = some (false, 4)
    ∧ after (exec (.vpId 3 0) (sVp false 0 0)) (fun t => t.vbits (t.vop 3) 3) = some 3 := by decide +kernel

/-! ## State registers, traps and the system forms -/

/-- Values for registers at a level: VPROF's and MFC's that are reserved and not, QCTL's operations. -/
def sSr (pl : BitVec 2) (fw : Bool := false) (queue : List TileCmd := []) : State :=
  atLevel pl (st [(1, 0x1A), (2, 3), (3, 0x68001), (4, 2), (5, 0xFFFFFFFFFFFFFFFF), (6, 0x2000000000000000), (7, 0x1000000000000000), (8, 0x4000000000000000)]
    (fun c => { c with fw := fw, tile := { c.tile with queue := queue } }))

/-- R410 to R413: each level, a register of each kind, instances at the limit and past it, values that are reserved and
not, a tile queue that is busy. -/
theorem wit_sregForms : (sSr 0).pl = plUser ∧ (sSr 1).pl = plSup ∧ (sSr 3 true).pl = plMach ∧ (sSr 1).core.cmds = [] ∧ (sSr 1).core.tile.queue = []
    ∧ (sSr 1 false [entry (.tlMma 0 1 2)]).core.tile.queue ≠ []
    ∧ Claims.sregs.any (fun x => x.n == 0x10 && x.most == 2) = true ∧ Claims.sregs.any (fun x => x.n == 0x27 && x.most == 15 && x.rd == .supervisor) = true
    ∧ Claims.sregs.any (fun x => x.n == 0x02 && x.wr == .never) = true ∧ Claims.sregs.any (fun x => x.n == 0x60 && x.rd == .machine && x.fw) = true
    ∧ Claims.sregs.any (fun x => x.n == 0x0D && x.wr == .user) = true
    ∧ Claims.sregs.all (fun x => x.n != 0x7F) = true ∧ 2 < (3 : BitVec 5).toNat ∧ (2 : BitVec 5).toNat ≤ 2
    ∧ (((sSr 1).g 1).extractLsb' 5 59 = 0#59 ∧ ((sSr 1).g 1).extractLsb' 0 2 ≠ 3#2 ∧ ((sSr 1).g 1).extractLsb' 2 2 ≠ 3#2) ∧ ((sSr 1).g 2).extractLsb' 0 2 = 3#2
    ∧ (((sSr 1).g 3).extractLsb' 1 14 = 0#14 ∧ (Tag.ofCode (((sSr 1).g 3).extractLsb' 15 5)).isSome = true) ∧ ((sSr 1).g 4).extractLsb' 1 14 ≠ 0#14 := by decide +kernel

/-- MSHAPE written with all ones takes size 1 and REP 0; VSTAT bits are cleared by ones; DETCFG at user level takes cause
0x09; an instance past the last takes cause 0x07 (R247, R410, R411). -/
theorem test_sregs : after (exec (.sysWr 0 5 0x0C) (sSr 1)) (fun t => t.core.mat.mshape) = some 0x0909090909090909
    ∧ after (exec (.sysWr 0 2 4) ((sSr 0).onCore (fun c => { c with vec := { c.vec with vstat := 7 } }))) (fun t => t.core.vec.vstat) = some 4
    ∧ after (exec (.sysWr 0 1 0x19) (sSr 0)) (fun t => t.core.sys.cause) = some 0x09 ∧ after (exec (.sysRd 9 3 0x10) (sSr 1)) (fun t => t.core.sys.cause) = some 0x07
    ∧ after (exec (.sysWr 0 5 0x4A) (sSr 1)) (fun t => (t.ctxAt 0).savea) = some 0x00FFFFFFFFFFF100
    ∧ after (exec (.sysWr 0 2 1) (sSr 1)) (fun t => t.core.sys.cause) = some 0x48 := by decide +kernel

/-- R370: each operation of QCTL. -/
theorem wit_queueRegs : (sSr 0).core.fw = false ∧ ((sSr 1).g 0).extractLsb' 60 4 = 0#4 ∧ ((sSr 1).g 6).extractLsb' 60 4 = 2#4 ∧ ((sSr 1).g 8).extractLsb' 60 4 = 4#4
    ∧ ((sSr 1).queueRaw 0 0).state = .unmapped ∧ (((sSr 1).onCtx 0 (fun c => { c with queues := c.queues.set 0 (queue2 0) })).queueRaw 0 0).state = .mapped
    ∧ (((sSr 1).onCtx 0 (fun c => { c with queues := c.queues.set 0 { queue2 0 with state := .draining } })).queueRaw 0 0).state = .draining
    ∧ ((sSr 1).g 7).extractLsb' 60 4 = 1#4 := by decide +kernel

/-- The read of a map whose descriptor holds no error changes nothing (R370). -/
theorem wit_queueRegs_read : (sSr 1).unitScrub 0 ((((sSr 1).g 7).extractLsb' 6 50 ++ 0#6).signExtend 64) 64 = sSr 1 := by
  rfl

/-- A host's drain of queue 0, for room in which a task.spawn waits (R375). -/
def sToldDrain : State := (sQc (queue2 2) 0).onCore (fun c => { c with spawned := (⟨0x4000, 0, 0, 1⟩ : Record).words })

/-- A drain of queue 0, which a waiting task.spawn sees, and one of a queue that is not mapped (R370, R375). -/
theorem test_queueRegs : after (exec (.sysWr 0 6 0x17) ((sSr 1).onCtx 0 (fun c => { c with queues := c.queues.set 0 (queue2 0) }))) (fun t => (t.queueRaw 0 0).state) = some .draining
    ∧ after (exec (.sysWr 0 6 0x17) (sSr 1)) (fun t => t.core.sys.cause) = some 0x89
    ∧ after (exec .qctlDrain sToldDrain) (fun t => (t.core.spawnLost, (t.queueRaw 0 0).state)) = some (true, .draining)
    ∧ after (exec (.sysClr 0 7 0x17) ((sSr 1).onCtx 0 (fun c => { c with queues := c.queues.set 0 (queue2 0) }))) (fun t => t.core.sys.cause) = some 0x89 := by decide +kernel

/-- A level, NEST, EPC and MEPC. -/
def sTr (status epc : Word) : State :=
  (st [(1, 77)]).onSys (fun r => { r with status := status, epc := epc, mepc := epc, tvec := 0x8003, mtvec := 0x9003 })

/-- R396, R415: machine level, supervisor level with NEST and without, user level; return addresses that are aligned and not. -/
theorem wit_trapEntryAndReturn : ({ cause := 0x28 } : Trap).bad = none ∧ ({ cause := 0x28 } : Trap).sync = true ∧ ({ cause := 0x80, sync := false } : Trap).sync = false
    ∧ (sTr 3 0).pl = plMach ∧ (sTr 1 0).pl = plSup ∧ (sTr 0 0).pl = plUser ∧ (sTr 1 0).core.sys.nest = false
    ∧ [sTr 0x40 0, sTr 0x20 0, sTr 0x10 0, sTr 8 0, sTr 4 0].any (fun s => s.core.sys.nest) = true ∧ (sTr 3 0).dev.softBytes = []
    ∧ ({ cause := 0x28, xlinfo := some 0xF0000 } : Trap).xlinfo.all (fun x => x.extractLsb' 16 4 == 15#4) = true
    ∧ (sTr 1 0x100).core.sys.epc.toNat % 4 = 0 ∧ (sTr 1 0x102).core.sys.epc.toNat % 4 ≠ 0 ∧ (sTr 1 0).core.sys.ppl = plUser ∧ (sTr 1 0).core.wait ≠ some .tileLine := by
  decide +kernel

/-- sys.call saves the address of the next word, sys.brk its own; the low bits of TVEC are no part of the handler; sys.ret
goes back to user level (R396, R414, R415). -/
theorem test_traps : after (exec (.sysCall 1 5) (sTr 0 0)) (fun t => (t.core.sys.cause, t.core.sys.epc, t.core.sys.tval, t.core.pc, t.core.sys.pl, t.core.sys.ppl)) =
      some (0xE5, 4, 77, 0x8000, plSup, plUser)
    ∧ after (exec (.sysBrk 1 5) (sTr 1 0)) (fun t => (t.core.sys.cause, t.core.sys.epc, t.core.sys.ppl)) = some (0xF5, 0, plSup)
    ∧ after (exec (.sysBrk 1 5) (sTr 3 0)) (fun t => (t.core.sys.mcause, t.core.pc)) = some (0xF5, 0x9000)
    ∧ after (exec .sysRet (sTr 1 0x100)) (fun t => (t.core.pc, t.core.sys.pl)) = some (0x100, plUser)
    ∧ after (exec .sysRet (sTr 1 0x102)) (fun t => t.core.sys.cause) = some 0x0B := by decide +kernel

/-- In a VP block EPC of a word that fails a check is that word; of another trap it is vp.run (R63, R389). -/
theorem test_traps_vp : after (exec (.illegalInstruction 0x40) (sVp true 0x8000000000000002 4)) (fun t => (t.core.sys.cause, t.core.sys.epc)) = some (2, 0x100)
    ∧ after (exec (.vLd 4 2 0) (sVp true 0x8000000000000002 4)) (fun t => (t.core.sys.cause, t.core.sys.epc)) = some (0x2A, 0) := by decide +kernel

/-- A core at a level with events set and enabled, in a gang that is due or not. -/
def sSy (pl : BitVec 2) (evt evten : Word) (fw : Bool := false) (wait : Option Wait := none) (due : Option PreemptWhy := none) : State :=
  { (atLevel pl (st [(1, 0x1000), (2, 1), (3, 2)] (fun c => { c with fw := fw, wait := wait, gang := some 0, rank := 0 }))).onSys (fun r => { r with evt := evt, evten := evten })
    with gangs := [⟨0, 0, 0, [0], 0, 0, [], due, GangShare.reset⟩], ev := { EventArg.none with c := if fw then 256 else 0 } }

/-- A stream that writes memory waits behind port 1, which is in use, or in ERROR with cause 0x62. -/
def sIf (err : Bool) : State :=
  st [] (fun c => { c with
    cmds := [.stream { cmd0 1 with kind := .st }]
    port := if err then { c.port with xstat := c.port.xstat.set 1 0xA000000000000000, xfault := c.port.xfault.set 1 0x6200000000003000 } else c.port
    ibuf := [(0x1000, 1)] })

/-- R416 to R418: each level, pending and not, each mode of sys.tinval. -/
theorem wit_systemForms : (sSy 3 0 0 true).pl = plMach ∧ (sSy 3 0 0 true).core.mgmtReq = false ∧ (sSy 1 1 1).pl ≠ plMach
    ∧ ((sSy 1 1 1).core.sys.evt.getLsbD 0 = true ∧ (sSy 1 1 1).core.sys.evten.getLsbD 0 = true)
    ∧ (∀ i < 5, ¬ ((sSy 1 1 2).core.sys.evt.getLsbD i = true ∧ (sSy 1 1 2).core.sys.evten.getLsbD i = true))
    ∧ (sSy 1 0 0 false none (some .save)).myGang.any (fun g => g.due != none) = true ∧ (sSy 1 0 0).myGang.all (fun g => g.due == none) = true
    ∧ (sSy 0 0 0).pl = plUser ∧ (sSy 1 0 0).core.fw = false ∧ ((sSy 1 0 0).g 2).extractLsb' 0 2 = 1#2 ∧ ((sSy 1 0 0).g 3).extractLsb' 0 2 = 2#2
    ∧ (sSy 1 0 0).myGang.any (fun g => g.cores.length == 2 ^ 0) = true ∧ (sSr 1).myGang.isNone = true
    ∧ (sSy 1 0 0).core.cmds.filter (Cmd.writesAt 1) = [] ∧ [sIf false, sIf true].all (fun s => !(s.core.cmds.filter (Cmd.writesAt 1)).isEmpty) = true
    ∧ (sIf false).core.cmds.any (fun c => !c.active && (xState ((sIf false).xstat c.port) == stOverfill || xState ((sIf false).xstat c.port) == stError)) = false
    ∧ ((sIf true).core.cmds.filter (Cmd.writesAt 1)).any (fun c => !c.active && xState ((sIf true).xstat c.port) == stError) = true := by decide +kernel

/-- sys.wfi goes on with an enabled event and stands without; sys.halt below machine level takes cause 0x0A; sys.id; sys.ifence
with no store to come, with one, and with one that cannot come (R416 to R418). -/
theorem test_system : after (exec .sysWfi (sSy 0 1 1)) (fun t => (t.core.pc, t.core.wait)) = some (4, none)
    ∧ after (exec .sysWfi (sSy 0 1 2)) (fun t => (t.core.pc, t.core.wait)) = some (0, some .wfi)
    ∧ after (exec .sysHalt (sSy 1 0 0)) (fun t => t.core.sys.cause) = some 0x0A ∧ after (exec .sysHalt (sSy 3 0 0 true)) (fun t => t.core.run) = some .halted
    ∧ after (exec (.sysId 9) (sGn [0, 1, 2, 3] 0)) (fun t => t.g 9) = some 0x20000000
    ∧ after (exec .sysIfence ((sIf false).onCore (fun c => { c with cmds := [] }))) (fun t => (t.core.ibuf.length, t.core.pc)) = some (0, 4)
    ∧ after (exec .sysIfence (sIf false)) (fun t => (t.core.ibuf.length, t.core.pc, t.core.wait)) = some (1, 0, some .fence)
    ∧ after (exec .sysIfence (sIf true)) (fun t => (t.core.sys.cause, t.core.sys.tval)) = some (0x62, 0x3000) := by decide +kernel

/-- R61 to R63: words that fail each check, and words that pass, on each kind of core. -/
theorem wit_illegalWords : (sSr 1).wordCause 0x00000040 = some 2 ∧ ((0x17 : BitVec 32).extractLsb' 0 6).toNat = 0x17 ∧ ((0xFFFFFFFF : BitVec 32).extractLsb' 0 6).toNat = 0x3F
    ∧ [(0x00073177 : BitVec 32), 0x004EA518, 0x0405203D, 0x1400003C, 0x0040203B, 0x08000C3D].all (fun w => (formOf (fieldsOf w)).toOption.isSome) = true
    ∧ [(0x004EA518 : BitVec 32)].all (fun w => match formOf (fieldsOf w) with
        | .ok f => !f.fw && f.need == .user && f.staticCause == none
        | _ => false) = true
    ∧ (match formOf (fieldsOf 0x0405203D) with
        | .ok f => f.need == .supervisor
        | _ => false) = true := by decide +kernel

/-- The word of sys.halt, which asks for machine level (R418). -/
theorem wit_illegalWords_machine : (match formOf (fieldsOf (Instr.sysHalt.word32)) with
    | .ok f => f.need == .machine && f.fw
    | _ => false) = true ∧ (match formOf (fieldsOf ((Instr.vpId 1 0).word32)) with
    | .ok f => f.need == .user
    | _ => false) = true := by decide +kernel

/-- A reserved word takes its cause with the word in TVAL (R61). -/
theorem test_illegal : after (exec (.illegalInstruction 0x40) (sSr 0)) (fun t => (t.core.sys.cause, t.core.sys.tval)) = some (2, 0x40)
    ∧ after (exec (.illegalInstruction 0) (sSr 0)) (fun t => t.core.sys.cause) = some 1 := by decide +kernel

/-- R404, R416: an event that is taken, a wait that ends, the firmware core waiting and not. -/
theorem wit_coreEvents : (let s := (sSy 0 1 1).focus 0
      s.core.fw = false ∧ s.core.run = .running ∧ (s.core.sys.evt.getLsbD 0 = true ∧ s.core.sys.evten.getLsbD 0 = true) ∧ s.core.sys.pl = plUser
        ∧ s.myGang.all (fun g => g.due == none) = true ∧ s.core.wait ≠ some .wfi)
    ∧ ((sSy 0 1 1 false (some .wfi)).focus 0).core.wait = some .wfi ∧ ((sSy 3 0 0 true (some .wfi)).focus (sSy 3 0 0 true (some .wfi)).ev.c).core.fw = true
    ∧ ((sSy 3 0 0 true).focus (sSy 3 0 0 true).ev.c).core.wait = none
    ∧ (let s := (sSy 0 1 1 false none (some .save)).focus 0
       s.myGang.any (fun g => g.due != none && g.due != some .discard) = true ∧ s.freeSlotOf 0 = none) := by decide +kernel

/-- An event that meets a multiply form at its first K step, whose operands stand, or lie before a watermark; or an entry of the
XU queue, issued at 0x80 with g16 = 9. -/
def sRb (q : List TileCmd) (x : List XuEntry) (held : Bool := false) : State :=
  (sSy 0 1 3).onCore (fun c => { c with
    pc := 0x100
    tile := { c.tile with
      queue := q, running := true, tshape := shape, tprog := 0x8090000000000000
      tda := (c.tile.tda.set 1 0x0004040080000000).set 2 0x0005040080000000, tdb := (c.tile.tdb.set 1 0x0001000400000003).set 2 0x0001000500000003 }
    port := if held then { c.port with xstat := c.port.xstat.set 1 0x2080000400000000, chwin := c.port.chwin.set 1 (chWord 0 0) } else c.port
    vec := { c.vec with xuq := x } })
def oldXu : XuEntry := { word := (Instr.vAdd 20 20 14 2 false 0).word32, pc := 0x80, vl := 0x30002, mfc := 0, vprof := 0, mshape := 0, g := base.core.g.set 16 9 }
def sRbGo : State := sRb [entry (.tlMma 0 1 2)] []
def sRbStands : State := sRb [entry (.tlMma 0 1 2)] [] true

/-- R396, R398, R404: the engine can do a step, or none. -/
theorem wit_coreEvents_behind : (sRbGo.focus 0).core.tile.queue.find? TileCmd.multiplies = some (entry (.tlMma 0 1 2))
    ∧ (after (exec .tileKStepComplete { sRbGo.focus 0 with ev := { EventArg.none with c := (sRbGo.focus 0).core.ref } }) (fun _ => true)) = some true
    ∧ [Instr.tileFormExecute, .tileKStepComplete].all (fun i =>
        (after (exec i { sRbStands.focus 0 with ev := { EventArg.none with c := (sRbStands.focus 0).core.ref } }) (fun _ => true)).isNone) = true
    ∧ ((sRb [] [oldXu]).focus 0).core.vec.xuq = [oldXu] ∧ ((sRb [] [oldXu]).focus 0).core.tile.queue = []
    ∧ [sRbGo, sRbStands, sRb [] [oldXu]].all (fun s => s.core.run == .running && !s.core.fw && s.core.wait == none && s.myGang.all (fun g => g.due == none)) = true := by
  decide +kernel

/-- The event waits for the form that goes on; EPC and g16 are those of the issue of one that stands (R63, R398). -/
theorem test_events_behind : after (exec .eventTake sRbGo) (fun t => t.core.sys.cause) = none
    ∧ after (exec .eventTake sRbStands) (fun t => (t.core.sys.cause, t.core.sys.epc, t.g 16)) = some (0x80, 0x40, 7)
    ∧ after (exec .eventTake (sRb [] [oldXu])) (fun t => (t.core.sys.cause, t.core.sys.epc, t.g 16)) = some (0x80, 0x80, 9) := by decide +kernel

/-- EVENT_TAKE gives EVT and EVTEN in TVAL, also where a due pre-emption has no slot (R404, R405). -/
theorem test_events : after (exec .eventTake (sSy 0 1 3)) (fun t => (t.core.sys.cause, t.core.sys.tval)) = some (0x80, 0x0000000300000001)
    ∧ after (exec .eventTake (sSy 0 1 3 false none (some .save))) (fun t => t.core.sys.cause) = some 0x80
    ∧ after (exec .wfiWake (sSy 0 1 1 false (some .wfi))) (fun t => t.core.pc) = some 4 := by decide +kernel

/-- Bytes of a word of memory that are not 0. -/
def wordMem (pa : Nat) (w : BitVec 32) : List Host.Cell :=
  (toBytes 4 w.toNat).zipIdx.filterMap (fun x => if x.1 = 0 then none else some (pa + x.2, x.1))

/-- Core 0 stands at pc 0x1000, where the word of a form lies. -/
def sWt (i : Instr) (e : Wait) (f : Core → Core := id) : State :=
  { st [(1, 1), (2, 0x2000), (3, 0)] (fun c => f { c with pc := 0x1000, wait := some e }) with mem := wordMem 0x1000 i.word32 }

/-- Where a form stands: what the claims about the ends of waits ask of it. -/
def stood (i : Instr) (e : Wait) (f : Core → Core := id) : Bool :=
  let u := (sWt i e f).focus (sWt i e f).ev.c
  u.core.run == .running && u.core.wait == some e && !u.core.vp.live && !u.core.blk.live && u.core.regErr.isEmpty
    && !u.interrupted && u.core.vec.xuq.isEmpty
    && (u.clAt (clusterOf u.core.id)).clpstat.extractLsb' 0 3 == 0#3
    && match fetchWord u u.core.pc with
      | .ok (x, t) => (match formOf (fieldsOf x) with
        | .ok g => g.instr == i && (reissue i t).isSome && (match exec i t with
          | .next v => v.core.wait == none && v.core.regErr.isEmpty
          | _ => false)
        | .error _ => false)
      | .error _ => false

/-- The operand of vldq: a queue of two words. -/
def ldqCore (c : Core) : Core := vec 2 [(3, vreg .f32 [])] []
  { c with cmds := [.stream { cmd0 8 with active := true }], port := { c.port with xstat := c.port.xstat.set 8 0x2080000200020000, ldq := c.port.ldq.set 0 [1, 2] } }

/-- R137, R401: each of the nine waits, at a form that goes on. -/
theorem wit_waitEnds : stood (.gbWait 2 0) .gbWait (fun c => { c with solo := { c.solo with gb := c.solo.gb.set 2 0x0000000100020000 } }) = true
    ∧ stood (.fenceRel 1) .fence = true ∧ stood (.fenceAcq 1) .fence = true ∧ stood (.xsWait 1 0) .xsWait (fun c => { c with port := { c.port with xstat := c.port.xstat.set 1 0x4000000000000000 } }) = true
    ∧ stood (.cbAcq 9 2 1) .cbAcq (fun c => { c with port := { c.port with cbcfg := c.port.cbcfg.set 2 0x001FFF0000040040, cbstat := c.port.cbstat.set 2 (⟨0, 4, 0, 0, 1, 3⟩ : RingCnt).word } }) = true
    ∧ stood .plWait .plWait = true ∧ stood (.tlZero 1) .dauStall = true ∧ stood (.ldD 9 2 0) .watermark = true := by decide +kernel

/-- The group that waits for its elements, in the queue of port 8. -/
theorem wit_waitEnds_queue : stood (.vLdq 3 8 0 false) .xuGroup ldqCore = true
    ∧ (let t := sWt (.vLdq 3 8 0 false) .xuGroup ldqCore
       let v := t.core.vec
       (t.vop 3).tag ≠ .e2m1x ∧ (memFmt v (t.vop 3).tag).tag ≠ .e2m1x ∧ t.core.hasStream 8 true = true ∧ streamFmt (memFmt v (t.vop 3).tag).tag.code = true
        ∧ (memFmt v (t.vop 3).tag).tag.width / 8 = 2 ^ (xNsz (t.xstat 8)).toNat ∧ (v.vqrd.extractLsb' 0 16).toNat + v.n ≤ xCnt (t.xstat 8)) := by decide +kernel

/-- The ninth: a task.spawn whose queue has room. -/
theorem wit_waitEnds_spawn : (let s := { sTk 1 (queue2 0) (fun c => { c with pc := 0x3000, wait := some .spawn }) with
        mem := [(0x1001, 0x40), (0x1018, 1)] ++ wordMem 0x3000 (Instr.taskSpawn 1 2).word32 }
      match fetchWord s s.core.pc with
      | .ok (x, t) => x == (Instr.taskSpawn 1 2).word32 && (readRecords 0x1000 1 1 t).toOption.isSome && (match exec (.taskSpawn 1 2) t with
        | .next v => v.core.wait == none
        | _ => false)
      | .error _ => false) = true := by decide +kernel

/-- v.add of 32 elements, v14 all ones, at its first group, and after it. -/
def sOne (pix : Word) : State :=
  { st [] (fun c => { vec 32 [(20, vreg .n32 []), (14, vreg .n32 (List.replicate 32 1))] [] c with pc := 0x1000 }) with
    mem := wordMem 0x1000 (Instr.vAdd 20 20 14 0 false 0).word32 } |>.onCore (fun c => { c with vec := { c.vec with pix := pix } })

/-- R184, R401, R402: a group that goes through, and one to go. -/
theorem wit_oneGroup : (let s := sOne 0
    let i := Instr.vAdd 20 20 14 0 false 0
    let u := s.focus s.ev.c
    (u.core.run == .running && u.core.fw == false && (u.clAt (clusterOf u.core.id)).clpstat.extractLsb' 0 3 == 0#3 && !u.core.vp.live && !u.core.blk.live
      && !u.interrupted && u.core.vec.xuq.isEmpty && u.core.wait.isNone && groupwise i && (match fetchWord u u.core.pc with
      | .ok (x, t) => x == i.word32 && !t.mulPending && t.core.regErr.isEmpty && (t.wordCause x).isNone && (match formOf (fieldsOf x) with
          | .ok f => f.instr == i
          | .error _ => false)
        && (let d := pixDest i
            let q := t.groupStep i
            let g := (t.startGroup d.1 d.2 / q + 1) * q
            g == 1 && decide (16 * g < t.core.vec.n)
              && (let short : State := { t with core := { t.core with
                    vec := { t.core.vec with vl := t.core.vec.w ++ BitVec.ofNat 16 (16 * g) |>.setWidth 64 }
                    blk := { t.core.blk with blk := putFld t.core.blk.blk 12 (0x3F#6) } } }
                  [t, short].all (fun z => (after (exec i z) (fun w => w.core.wait == none && w.core.sys == t.core.sys && w.core.regErr.isEmpty)) == some true)))
      | .error _ => false)) = true) := by decide +kernel

/-- The first group alone; the whole form, from where PIX says, is the second (R188, R402). -/
theorem test_one_group : after (exec .xuGroupComplete (sOne 0)) (fun t => (t.vbits (t.vop 20) 15, t.vbits (t.vop 20) 16, t.core.pc, t.core.vec.pix.extractLsb' 0 10)) = some (1, 0, 0x1000, 1)
    ∧ after ((match exec .xuGroupComplete (sOne 0) with
        | .next t => exec (.vAdd 20 20 14 0 false 0) t
        | o => o)) (fun t => (t.vbits (t.vop 20) 15, t.vbits (t.vop 20) 16, t.core.vec.pix.getLsbD 31)) = some (1, 1, false) := by decide +kernel

/-! ## Service, checkpoints, the host and power -/

/-- Cluster 0 with CLPSTAT, and a gang on it or none. -/
def sCl (clpstat : Word) (gangs : List Gang := []) (f : Cluster → Cluster := id) : State :=
  ({ base with gangs := gangs } : State).onCl 0 (fun c => f { c with clpstat := clpstat })

/-- Cluster 0 QUIESCING holds a request of core 16, whose stream is there. -/
def sHeldReq : State := (sCl 1 [] (fun c => { c with held := [⟨16, 1⟩] })).mapCore 16 (fun c => { c with gang := some 9, cmds := [.stream { cmd0 1 with active := true }] })

/-- R433: each state of a cluster, with a gang and without, a request of a stream that is gone and of one that is there. -/
theorem wit_gating : [(0 : Nat), 1, 2, 3, 4, 5].all (fun k => (((sCl (BitVec.ofNat 64 k)).clAt 0).clpstat.extractLsb' 0 3).toNat == k) = true
    ∧ (sCl 0).gangs = [] ∧ (sCl 0 [⟨0, 0, 0, [0], 0, 0, [], none, GangShare.reset⟩]).gangs.any (fun g => g.cluster == 0) = true ∧ (sCl 1).inflight 0 = 0
    ∧ (((sCl 1 [] (fun c => { c with held := [⟨0, 1⟩] })).clAt 0).held.filter (sCl 1 [] (fun c => { c with held := [⟨0, 1⟩] })).heldLives).isEmpty = true
    ∧ ((sHeldReq.clAt 0).held.filter sHeldReq.heldLives).isEmpty = false := by decide +kernel

/-- A QUIESCED cluster 0 whose first quad is of partition 0. -/
def sClp : State := { sCl 2 with dev := { base.dev with quadmap := base.dev.quadmap.set 0 0x4000000000000000 } }
theorem wit_gating_partition : (0 : BitVec 8) ∈ sClp.partsOf 0 ∧ (1 : BitVec 8) ∉ sClp.partsOf 0 ∧ (∀ m : BitVec 4, 32 ≤ (sClp.clAt m).target) := by decide +kernel

/-- It wakes at 32 steps, which THCAUSE shows (R429, R434). -/
theorem test_gating_partition : after (exec .clpWake sClp) (fun t => (((t.ctxAt 0).thcause).extractLsb' 32 8, t.core.vec.alc)) = some (32#8, 16) := by decide +kernel

/-- Only a running cluster without a gang quiesces; another sets REF; a cluster wakes at 32 steps (R433, R434). -/
theorem test_gating : after (exec .clpQuiesce (sCl 0)) (fun t => (t.clAt 0).clpstat) = some 1
    ∧ after (exec .clpQuiesce (sCl 2)) (fun t => (t.clAt 0).clpstat) = some 10 ∧ after (exec .clpGate (sCl 2)) (fun t => (t.clAt 0).clpstat) = some 3
    ∧ after (exec .clpQuiesced (sCl 1 [⟨0, 0, 0, [0], 0, 0, [], none, GangShare.reset⟩])) (fun t => (t.clAt 0).clpstat) = some 0x20000005
    ∧ [sHeldReq, sCl 1 [] (fun c => { c with held := [⟨16, 1⟩] })].map (fun s => after (exec .clpQuiesced s) (fun t => (t.clAt 0).clpstat.extractLsb' 0 3)) =
      [some 5, some 2] := by decide +kernel

/-- A device with a quarantined frame, QREL, and an event. -/
def sQr (qrel : BitVec 2) (ok : Bool) : State :=
  { base with dev := { base.dev with quarantine := [3], qrel := qrel, qrelAddr := 0x30000 }, ev := { EventArg.none with ok := ok, val := 0x30000 } }

/-- R446: a cluster that is ready, isolated and at work; a release that is free and in progress. -/
theorem wit_service : ((sCl 2).clAt 0).clpstat.extractLsb' 0 3 = 2#3 ∧ ((sCl 2).clAt 0).svcBusy = 0 ∧ ((sCl 2 [] (fun c => { c with isolated := true })).clAt 0).isolated = true
    ∧ ((sCl 2 [] (fun c => { c with svcBusy := 3 })).clAt 0).svcBusy = 3 ∧ ((sCl 0).clAt 0).clpstat.extractLsb' 0 3 ≠ 2#3
    ∧ (sQr 0 true).dev.qrel ≠ 1 ∧ (sQr 1 true).dev.qrel = 1 ∧ (sQr 1 true).ev.ok = true ∧ (sQr 1 false).ev.ok = false ∧ (sQr 1 true).memOk := by
  unfold State.memOk
  decide +kernel

/-- Cluster 0 has a boost, in partition 0; a frame of the registers' area of slot 0 is quarantined, and its release goes on. -/
def sBoost (clpstat : Word) : State :=
  { (sCl clpstat [] (fun c => { c with boost := true })) with
    dev := { base.dev with quadmap := base.dev.quadmap.set 0 0x4000000000000000 }
    ev := { EventArg.none with pa := 0x300000001000, val := 0x4000000000000001 } }
def sQrOwn : State := { sQr 1 true with dev := { (sQr 1 true).dev with qrelAddr := 0x10FEE0000000, quarantine := [0x10FEE000], ckOwn := [(0, 0)] } }

/-- R427, R443, R446: these. -/
theorem wit_service_kept : ((sBoost 2).clAt 0).boost = true ∧ (sQrOwn.ownByte 0x10FEE0000000).isSome = true ∧ sQrOwn.dev.qrel = 1 ∧ sQrOwn.ev.ok = true := by
  decide +kernel

/-- An isolated cluster has no boost, and THCAUSE shows none; the frame of a slot's own area reads as zero (R427, R446, R447). -/
theorem test_service_kept : after (exec .svcIsolate (sBoost 2)) (fun t => ((t.clAt 0).isolated, (t.clAt 0).boost)) = some (true, false)
    ∧ after (exec .qrelComplete sQrOwn) (fun t => (t.ownByte 0x10FEE0000000, (t.ownByte 0x10FEE0010000).isSome)) = some (none, true) := by decide +kernel

/-- SVC in a cluster that is not QUIESCED sets REF; a frame released is quarantined no more (R446). -/
theorem test_service : after (exec .svcIsolate (sCl 0)) (fun t => ((t.clAt 0).svc, (t.clAt 0).isolated)) = some (16, false)
    ∧ after (exec .svcIsolate (sCl 2)) (fun t => ((t.clAt 0).svc, (t.clAt 0).isolated)) = some (1, true)
    ∧ after (exec .qrelRelease (sQr 0 true)) (fun t => t.dev.qrel) = some 1
    ∧ after (exec .qrelComplete (sQr 1 true)) (fun t => (t.dev.qrel, t.dev.quarantine)) = some (2, []) := by decide +kernel

/-- Slot n of the checkpoint region VALID or not, a command in progress, DIERST, a byte of memory. -/
def sCk (n : BitVec 3) (valid : Bool) (run : Option (BitVec 3 × BitVec 3)) (dierst : Word := 3) (ok : Bool := true) : State :=
  { base with
    dev := { base.dev with ckRun := run, dierst := dierst }
    ev := { EventArg.none with slot := n, ok := ok }
    mem := [(0x1000, 7)] ++ (if valid then [(0x103E80000004 + 64 * n.toNat, 2)] else []) }

/-- R443: slots at both limits, free and busy, VALID and not, the ends of a take and of a restore. -/
theorem wit_checkpoints : (sCk 4 true none).dev.ckRun.isNone = true ∧ (4 : BitVec 3).toNat < 5 ∧ ¬ (5 : BitVec 3).toNat < 5
    ∧ (sCk 4 true none).byteAt (0x103E80000000 + 64 * 4 + 4) = 2 ∧ (sCk 4 true none).dev.dierst.getLsbD 0 = true ∧ (sCk 0 false none).byteAt 0x103E80000004 = 0
    ∧ (sCk 0 false (some (1, 0))).dev.ckRun = some (1, 0) ∧ (sCk 0 false (some (2, 4))).dev.ckRun = some (2, 4) ∧ (sCk 0 false (some (1, 0)) 3 false).ev.ok = false
    ∧ (sCk 0 false none).gangs = [] ∧ (sCk 0 false none).memOk ∧ (sCk 4 true none).memOk ∧ (sCk 0 false none).dev.badBytes = [] ∧ (sCk 0 false none).dev.heldWrites = [] := by
  unfold State.memOk
  decide +kernel

/-- A record that a take has left. -/
theorem wit_checkpoints_record : after (exec .ckptTakeComplete (sCk 0 false (some (1, 0)))) (fun t => ((t.dev.ckpts.find? (fun x => x.slot == 0)).isSome, t.dev.quarantine)) = some (true, []) := by
  decide +kernel

/-- A take's record, in which partition 0 has FRK 3 and THCAUSE of the cap; since then the power controller limits it
otherwise. -/
def sThrot : State :=
  let s := sCk 0 false (some (1, 0))
  let taken := (after (exec .ckptTakeComplete (s.onCtx 0 (fun c => { c with frk := 3, thcause := 0x10002 }))) id).getD s
  { taken.onCtx 0 (fun c => { c with frk := 7, thcause := 4 }) with dev := { taken.dev with ckRun := some (2, 0), dierst := 3 } }

/-- R429, R443: a record to restore. -/
theorem wit_checkpoints_restore : sThrot.dev.ckRun = some (2, 0) ∧ sThrot.dev.badBytes = [] ∧ sThrot.dev.quarantine = []
    ∧ (sThrot.dev.ckpts.find? (fun x => x.slot == 0)).any (fun x => (rget x.ctxs (0 : BitVec 8)).frk == 3) = true := by decide +kernel

/-- The directory in a quarantined frame (R119, R443). -/
def sDir : State := { sCk 1 true none with dev := { base.dev with dierst := 3, quarantine := [0x103E8000] } }
theorem wit_checkpoints_directory : 0x103E8000 ∈ sDir.dev.quarantine ∧ sDir.dev.ckRun.isNone = true ∧ 0x103E8000 ∉ (sCk 1 true none).dev.quarantine := by decide +kernel

/-- Neither read nor written: a restore and an invalidation are refused, a take leaves the entry (log 28). -/
theorem test_directory : after (exec .ckptRestore sDir) (fun t => t.dev.ckctl) = some 128 ∧ after (exec .ckptInvalidate sDir) (fun t => t.dev.ckctl) = some 128
    ∧ after (exec .ckptTake sDir) (fun t => (t.dev.ckctl, t.byteAt 0x103E80000044)) = some (0x19, 2) := by decide +kernel

/-- A take marks its slot WRITING, its end VALID with SEQ 1 and the byte copied; a restore of a slot that is not VALID is
refused (R443). -/
theorem test_checkpoints : after (exec .ckptTake (sCk 1 false none)) (fun t => (t.byteAt 0x103E80000044, t.dev.ckctl)) = some (1, 0x19)
    ∧ after (exec .ckptTakeComplete (sCk 0 false (some (1, 0)))) (fun t => (t.byteAt 0x103E80000004, t.peek64 0x103E80000008, t.byteAt 0x103EC0001000)) = some (2, 1, 7)
    ∧ after (exec .ckptRestore (sCk 1 false none)) (fun t => t.dev.ckctl) = some 128
    ∧ after (exec .ckptRestore (sCk 1 true none)) (fun t => t.dev.ckRun) = some (some (2, 1)) := by decide +kernel

/-- Power and DIERST; the firmware core of die 0 halted or not. -/
def sPw (main aux : Bool) (dierst : Word) (halted : Bool := false) : State :=
  let s := { base with mem := [(0x1000, 7), (0x100000000000, 9)], dev := { base.dev with mainPower := main, auxPower := aux, dierst := dierst } }
  if halted then s.mapCore 256 (fun c => { c with run := .halted }) else s

/-- R98, R417, R450: each state of power, and a firmware core that has halted. -/
theorem wit_resets : (sPw true true 3).dev.mainPower = true ∧ (sPw false true 3).dev.mainPower = false ∧ (sPw false true 3).dev.auxPower = true
    ∧ (sPw false false 3).dev.auxPower = false ∧ (sPw true true 2).dev.dierst.extractLsb' 0 2 = 2#2 ∧ (sPw true true 3).dev.heldWrites = [] ∧ (sPw true true 3).memOk
    ∧ ((sPw true true 0 true).coreAt 256).any (fun c => c.run == .halted) = true := by
  unfold State.memOk
  decide +kernel

/-- A reset of the dies keeps the second tier; loss of auxiliary power loses it (R98, R450). -/
theorem test_resets : after (exec .dieReset (sPw true true 0)) (fun t => (t.dev.dierst, t.byteAt 0x1000, t.byteAt 0x100000000000)) = some (3, 0, 9)
    ∧ after (exec .dieReset { sPw true true 0 with dev := { (sPw true true 0).dev with caps := some ⟨4, 100, []⟩ } }) (fun t => t.dev.pendingCap) = some (some ⟨4, 100, []⟩)
    ∧ after (exec .auxPowerLoss (sPw true true 0)) (fun t => t.byteAt 0x100000000000) = some 0
    ∧ after (exec .dieRelease (sPw true true 3)) (fun t => t.dev.dierst) = some 2 ∧ after (exec .firmwareInitComplete (sPw true true 2)) (fun t => t.dev.dierst) = some 0 := by
  decide +kernel

/-- Soft and bad bytes, and a site. -/
def sEc (soft bad : List Nat) (x : ErrSite) : State :=
  { base with dev := { base.dev with softBytes := soft, badBytes := bad, ecccnt := 0xFFFF000000000000 }, ev := { EventArg.none with pa := 0x12345, site := x } }

/-- R116 to R119: bytes of both kinds in both tiers, and each site. -/
theorem wit_softErrors : (0x12345 : BitVec 52).toNat < 0xC000000000 ∧ 0x12345 ∈ (sEc [0x12345] [] (.mem 1 true)).dev.softBytes
    ∧ (0x12345 ∉ (sEc [] [0x12345] (.mem 1 false)).dev.softBytes ∧ 0x12345 ∈ (sEc [] [0x12345] (.mem 1 false)).dev.badBytes ∧ 1 ∉ (sEc [] [0x12345] (.mem 1 false)).dev.quarantine)
    ∧ (sEc [] [] (.reg 0 (.g 3) true)).ev.site = .reg 0 (.g 3) true ∧ (sEc [] [] (.reg 0 (.g 3) false)).ev.site = .reg 0 (.g 3) false
    ∧ ((sEc [] [] (.reg 0 (.g 3) false)).coreAt 0).isSome = true := by decide +kernel

/-- The scrub counts a corrected byte, saturating; an uncorrectable one quarantines its frame (R116, R118). -/
theorem test_softErrors : after (exec .patrolScrub (sEc [0x12345] [] (.mem 1 true))) (fun t => (t.dev.ecccnt, t.dev.softBytes)) = some (0xFFFF000000000000, [])
    ∧ after (exec .patrolScrub (sEc [] [0x12345] (.mem 1 true))) (fun t => (t.dev.ecccnt, t.dev.quarantine)) = some (0xFFFF000000000001, [1])
    ∧ after (exec .softError (sEc [] [] (.reg 0 (.g 3) false))) (fun t => t.core.regErr) = some [.g 3] := by decide +kernel

/-- A host event of context 0. -/
def sHo (val : Word) (pa : BitVec 52) : State :=
  { sTk 1 (queue2 0) with ev := { EventArg.none with val := val, pa := pa }, dev := { (sTk 1 (queue2 0)).dev with dierst := 1 } }

/-- R379, R404, R438, R450: doorbells that are good and not, EVTPOST with its bit and without, each address. -/
theorem wit_hostWindow : (let s := sHo 0x00020000 0x10
      s.ev.val.extractLsb' 4 12 = 0#12 ∧ s.ev.val.extractLsb' 32 32 = 0#32 ∧ (s.ev.val.extractLsb' 16 16).toNat = 2 ∧ 2 ≤ (s.queue 0 0).cap.toNat ∧ (s.queue 0 0).state = .mapped)
    ∧ ¬ ((sHo 0x00030000 0x10).ev.val.extractLsb' 16 16).toNat ≤ 2 ∧ (sHo 0 0).ev.val.getLsbD 0 = false ∧ (sHo 1 0).ev.val.getLsbD 0 = true ∧ (sHo 1 0).inPart 0 0 = true
    ∧ ((sHo 1 0).coreAt (numbered 0)).isSome = true ∧ (0xFF010 : BitVec 52).toNat = 0x1000 * 255 + 0x10 ∧ (sHo 0 0x102000).ev.pa.toNat = 0x102000
    ∧ (sHo 0 0).dev.mainPower = true ∧ (0x3000000011F8 : BitVec 52).toNat = 0x300000001000 + 8 * 63 := by decide +kernel

/-- A good doorbell moves TAIL, a bad one posts QERR; QUADMAP keeps V, RET and the partition (R379, R450). -/
theorem test_hostWindow : after (exec .hostDoorbell (sHo 0x00020000 0)) (fun t => (t.queueRaw 0 0).tail) = some 2
    ∧ after (exec .hostDoorbell (sHo 0x00030000 0)) (fun t => ((t.queueRaw 0 0).tail, t.core.sys.evt)) = some (0, 8)
    ∧ [(1 : Word), 2].map (fun v => after (exec .controlRegisterWrite
        { (sBoost 0).onCtx 1 (fun c => { c with thcause := 2, frk := 60 }) with ev := { (sBoost 0).ev with val := 0x4000000000000000 ||| v } }) (fun t => (t.clAt 0).boost)) = [some false, some true]
    ∧ after (exec .controlRegisterWrite (sHo 0xFFFFFFFFFFFFFFFF 0x3000000011F8)) (fun t => rget t.dev.quadmap (63 : BitVec 6)) = some 0xC0000000000000FF := by decide +kernel

/-- A host access at pa of n bytes. -/
def sHm (pa : BitVec 52) (n : BitVec 9) (l : List Byte) (dierst : Word := 0) (run : Option (BitVec 3 × BitVec 3) := none) (bad : List Nat := []) : State :=
  { base with mem := [(0xBFFFFFFFFF, 7)], ev := { EventArg.none with pa := pa, len := n, bytes := l }, dev := { base.dev with dierst := dierst, ckRun := run, badBytes := bad } }

/-- R333, R437: each range at its limits, the dies up and in reset, a take in progress. -/
theorem wit_hostMemory : (let s := sHm 0xBFFFFFFFFF 1 [5]
      1 ≤ s.ev.len.toNat ∧ s.ev.pa.toNat + s.ev.len.toNat ≤ 0xC000000000 ∧ s.dev.dierst.extractLsb' 0 2 = 0#2 ∧ s.dev.mainPower = true ∧ s.dev.quarantine = []
        ∧ s.dev.badBytes = [] ∧ s.dev.softBytes = [] ∧ s.dev.ckRun = none ∧ s.memOk ∧ s.ev.bytes.length = 1)
    ∧ (sHm 0 1 [5] 3).dev.dierst.extractLsb' 0 2 ≠ 0#2 ∧ (0x100000000000 ≤ (0x100000000000 : BitVec 52).toNat ∧ (sHm 0x100000000000 1 []).dev.auxPower = true)
    ∧ (0x103E80000000 ≤ (0x13FFFFFFFFFF : BitVec 52).toNat ∧ (0x13FFFFFFFFFF : BitVec 52).toNat + 1 ≤ 0x140000000000) ∧ (sHm 0 1 [5] 0 (some (1, 0))).dev.ckRun = some (1, 0)
    ∧ (sHm 0x1000 1 [5] 0 none [0x1007]).dev.badBytes.find? (fun b => 0x1000 / 8 ≤ b / 8 ∧ b / 8 ≤ (0x1000 + 1 - 1) / 8 ∧ ¬ (0x1000 ≤ b / 8 * 8 ∧ b / 8 * 8 + 8 ≤ 0x1000 + 1)) = some 0x1007 := by
  unfold State.memOk
  decide +kernel

/-- Slot 0 holds an image: its areas of the device's own layout, and other bytes of it (R443). -/
def sOwn : State := { sHm 0x103EC0000000 8 [] with dev := { base.dev with ckOwn := [(0, 0)] } }
theorem wit_hostMemory_own : sOwn.dev.auxPower = true ∧ sOwn.dev.quarantine = [] ∧ sOwn.dev.badBytes = [] ∧ sOwn.dev.softBytes = []
    ∧ sOwn.ev.pa.toNat = 0x103EC0000000 ∧ sOwn.ev.len.toNat = 8 ∧ sOwn.ownByte 0x103EC0000000 = none ∧ (sOwn.ownByte (0x103EC0000000 + 0xC020000000)).isSome = true := by
  decide +kernel

/-- The last byte of device memory; a write to the checkpoint region, or of a part of a bad granule, gets an error; a take holds a write (R118, R333,
R437, R444). -/
theorem test_hostMemory : after (exec .hostMemRead (sHm 0xBFFFFFFFFF 1 [])) (fun t => t.dev.out) = some [.readData 0xBFFFFFFFFF [7]]
    ∧ after (exec .hostMemWrite (sHm 0xBFFFFFFFFF 1 [5])) (fun t => (t.byteAt 0xBFFFFFFFFF, t.dev.out)) = some (5, [.writeDone 0xBFFFFFFFFF])
    ∧ after (exec .hostMemWrite (sHm 0x103E80000000 1 [5])) (fun t => t.dev.out) = some [.writeError 0x103E80000000]
    ∧ after (exec .hostMemWrite (sHm 0x1000 1 [5] 0 none [0x1007])) (fun t => (t.byteAt 0x1000, t.dev.out, t.dev.quarantine)) = some (0, [.writeError 0x1000], [0])
    ∧ after (exec .hostMemWrite (sHm 0x1000 1 [5] 0 (some (1, 0)))) (fun t => t.dev.heldWrites) = some [⟨none, 0x1000, [5]⟩] := by decide +kernel

/-- Spaes port 2: owner, ring of 2 entries at 0x2020 with TAIL 1 at 0x2018, a window of 64 KiB at 0x40000; its entry sends
64 bytes of 0x3000. -/
def sSp (own : Word) (busy : Option Word) (off : Word) (ring : Word := 0x1000000000002020) (len : Byte := 0x40) (past : Bool := false) : State :=
  { base with
    dev := { base.dev with spaes := base.dev.spaes.set 2 ⟨own, ring, 0x0010000000040000, 0, busy, past, false⟩ }
    mem := [(0x2018, 1), (0x2021, 0x30), (0x2030, len), (0x2039, 0x50), (0x3000, 9)]
    ev := { EventArg.none with p := 2, off := off, bytes := [5], ok := true, val := 1 } }

/-- R440 to R442: a window at its end and past it, a port without owner, an entry that is fine and one that is not, one in
flight, changes of owner. -/
theorem wit_spaesPorts : (let s := sSp 0x8000000000000000 none 0xFFFF
      let x := rget s.dev.spaes s.ev.p
      x.spown.getLsbD 63 = true ∧ 0xFFFF + 1 ≤ (x.sprx.extractLsb' 52 12).toNat * 65536 ∧ (x.sprx.extractLsb' 16 36).toNat * 65536 + 0xFFFF + 1 ≤ 0xC000000000
        ∧ ¬ 0x10000 + 1 ≤ (x.sprx.extractLsb' 52 12).toNat * 65536 ∧ s.dev.dierst.extractLsb' 0 2 = 0#2 ∧ s.dev.quarantine = [] ∧ s.dev.ckRun = none ∧ s.memOk
        ∧ s.dev.badBytes = [] ∧ s.dev.softBytes = [] ∧ s.springTail 2 = some 1 ∧ x.head = 0 ∧ x.busy = none ∧ (x.spring.extractLsb' 60 4).toNat = 1 ∧ s.unitRecord 0 0x2020 = ⟨0x3000, 0, 64, 0x5000⟩
        ∧ (spaesBytes s 0 0x3000 1).isSome = true ∧ s.spaesBusy 2 = true ∧ s.ev.val.getLsbD 63 ≠ x.spown.getLsbD 63)
    ∧ (rget (sSp 0 none 0).dev.spaes (2 : BitVec 4)).spown.getLsbD 63 = false ∧ (sSp 0 none 0 0x1000000000002020 0x41).unitRecord 0 0x2020 = ⟨0x3000, 0, 65, 0x5000⟩
    ∧ (sSp 0 none 0 0).spaesBusy 2 = false
    ∧ ((rget (sSp 0 (some 0x5000) 0).dev.spaes (2 : BitVec 4)).busy = some 0x5000 ∧ (sSp 0 none 0).unitPlace 0 .atomic 0x5000 8 = some 0x5000) := by
  unfold State.memOk
  decide +kernel

/-- R440, R442: the host names another ring while an entry is in flight, in the window of the owner and of another context. -/
def sRing2 (a : BitVec 52) : State := { sSp 0x8000000000000000 (some 0x5000) 0 with ev := { EventArg.none with pa := a, val := 0x1000000000003020 } }
theorem wit_hostWindow_ring : (sRing2 0x120).ev.pa.toNat = 0x1000 * 0 + 0x100 + 16 * 2 ∧ (sRing2 0x1120).ev.pa.toNat = 0x1000 * 1 + 0x100 + 16 * 2
    ∧ (rget (sRing2 0x120).dev.spaes (2 : BitVec 4)).spown.getLsbD 63 = true ∧ (rget (sRing2 0x120).dev.spaes (2 : BitVec 4)).spown.extractLsb' 0 8 = BitVec.ofNat 8 0
    ∧ (rget (sRing2 0x1120).dev.spaes (2 : BitVec 4)).spown.extractLsb' 0 8 ≠ BitVec.ofNat 8 1 := by decide +kernel

/-- A peer's write lands in the window, and past it is refused; a completion counts, and moves to the next entry of the ring
unless SPRING has been written meanwhile (R440, R442). -/
theorem test_spaes : after (exec .peerWriteIn (sSp 0x8000000000000000 none 0xFFFF)) (fun t => t.byteAt 0x4FFFF) = some 5
    ∧ after (exec .peerWriteIn (sSp 0x8000000000000000 none 0x10000)) (fun t => t.dev.out) = some [.peerRefused 2]
    ∧ after (exec .spaesEntryComplete (sSp 0x8000000000000000 (some 0x5000) 0)) (fun t => (t.peek64 0x5000, (rget t.dev.spaes (2 : BitVec 4)).head)) = some (1, 1)
    ∧ after (exec .spaesEntryComplete (sSp 0x8000000000000000 (some 0x5000) 0 0x1000000000002020 0x40 true)) (fun t => (t.peek64 0x5000, (rget t.dev.spaes (2 : BitVec 4)).head)) = some (1, 0) := by
  decide +kernel

/-- A cap set of one entry, SEQ n. -/
def sCap (n : Word) (p : BitVec 8) : State := { sTk 1 (queue2 0) with ev := { EventArg.none with msg := ⟨n, 100, [⟨p, 1, 50⟩]⟩ } }

/-- A datagram: MAGIC, TYPE, COUNT, SEQ 1, and what follows (R445). -/
def sDg (type count : Nat) (l : List Byte) : State :=
  { sTk 1 (queue2 0) with ev := { EventArg.none with bytes := [0x4E, 0x47, 0x59, 0x54, BitVec.ofNat 8 type, 0, BitVec.ofNat 8 count, 0, 1, 0, 0, 0, 0, 0, 0, 0] ++ l } }

/-- R430, R445: a message that is stale, one for a partition that exists, one for one that does not. -/
theorem wit_tygen : (0 : Word).toNat ≤ (sCap 0 0).dev.capSeq.toNat ∧ (sCap 1 0).dev.capSeq.toNat < (1 : Word).toNat ∧ (sCap 1 0).dev.pendingCap.isNone = true
    ∧ (sCap 1 0).dev.quadmap.toList.any (fun q => q.getLsbD 62 && !q.getLsbD 63 && q.extractLsb' 0 8 == 0) = true
    ∧ (sCap 1 9).dev.quadmap.toList.all (fun q => !(q.getLsbD 62 && !q.getLsbD 63 && q.extractLsb' 0 8 == 9)) = true
    ∧ ((sGn [0] 0).coreAt (numbered 0)).any (fun c => c.gang.isSome) = true := by decide +kernel

/-- R445: a cap set of one entry, and a request for VL of core 0, as datagrams. -/
theorem wit_tygen_datagrams : (sDg 1 1 [100, 0, 0, 0, 0, 0, 0, 0, 0, 1, 0, 0, 50, 0, 0, 0]).ev.bytes =
      (toBytes 4 0x5459474E ++ toBytes 2 1 ++ toBytes 2 1 ++ toBytes 8 1) ++ toBytes 4 (100 : BitVec 32).toNat ++ toBytes 4 0
        ++ [(⟨0, 1, 50⟩ : CapEntry)].flatMap (fun e => [e.part, e.rank, 0, 0] ++ toBytes 2 e.cap.toNat ++ toBytes 2 0)
    ∧ (sDg 2 1 [1, 0, 0, 0, 0, 0, 0, 0, 0, 0, 0, 0, 0, 0, 0, 0]).ev.bytes =
      (toBytes 4 0x5459474E ++ toBytes 2 2 ++ toBytes 2 1 ++ toBytes 8 1)
        ++ [(⟨1, 0, 0, 0, 0⟩ : ReadReq)].flatMap (fun r => [r.kind, r.core, r.n, r.i, 0, 0, 0, 0] ++ toBytes 8 r.addr.toNat) := by decide +kernel

/-- A cap set that comes as a datagram is kept (R430, R445). -/
theorem test_datagram : after (exec .tygenCapSet (sDg 1 1 [100, 0, 0, 0, 0, 0, 0, 0, 0, 1, 0, 0, 50, 0, 0, 0])) (fun t => (t.dev.out, t.dev.pendingCap.map (fun m => (m.seq, m.moduleCap)))) =
    some ([.capAck 1 0], some (1, 100)) := by decide +kernel

/-- Acknowledgements: 0 kept, 1 stale, 2 a partition that does not exist (R445). -/
theorem test_tygen : after (exec .tygenCapSet (sCap 1 0)) (fun t => t.dev.out) = some [.capAck 1 0]
    ∧ after (exec .tygenCapSet (sCap 0 0)) (fun t => t.dev.out) = some [.capAck 0 1] ∧ after (exec .tygenCapSet (sCap 1 9)) (fun t => t.dev.out) = some [.capAck 1 2] := by
  decide +kernel

/-- A sample of cluster 0, and of partition 0. -/
def sIv (temp : BitVec 8) (quota equota : Word) (energy : Nat := 5000) : State :=
  { (sTk 1 (queue2 0)).onCtx 0 (fun c => { c with eqcfg := quota, equota := equota, elapsed := 10 }) with
    ev := { EventArg.none with smp := ⟨[⟨temp, 4, 4, 6, 6, energy * 2000000, 0, [3, 1]⟩], [⟨0, 10, 1, 5, 0, 0⟩], 0⟩, val := 881 } }

/-- R384, R424 to R432: temperatures at each limit, quotas that are exhausted and not, lanes, clusters in RUN and not. -/
theorem wit_interval : [(110 : BitVec 8), 109, 100, 99, 95, 94].all (fun t => (clusterSample (sIv t 0 0).ev.smp 0).temp == t) = true
    ∧ ((sIv 90 0x0000000A00000001 5).ctxAt 0).eqcfg.extractLsb' 0 24 ≠ 0#24 ∧ (0 < (((sIv 90 1 5).ctxAt 0).equota.extractLsb' 0 32).toNat ∧ (((sIv 90 1 5).ctxAt 0).equota.extractLsb' 0 32).toNat ≤ (5000 * 2000000) / 2000000000) ∧ 880 < (sIv 90 0 0).ev.val.toNat
    ∧ ((sIv 90 0 0).clAt 0).clpstat.extractLsb' 0 3 = 0#3 ∧ (sCl 2).core.fw = false ∧ (sIv 90 0 0).cores.all (fun y => [16, 32, 48, 64].contains y.vec.alc.toNat) = true
    ∧ (sIv 90 0 0).dev.pendingCap.isNone = true ∧ (sIv 90 0 0).partitionExists 0 = true ∧ (sIv 90 0 0).dev.visits < 4 ∧ (sIv 90 0 0).ev.die.toNat = ((sIv 90 0 0).dev.interval + 0) % 4
    ∧ (sIv 90 0 0).partsOf 0 ≠ [] ∧ (∀ y ∈ (sIv 90 0 0).partsOf 0, y = 0) ∧ 10 * (clusterSample (sIv 90 0 0).ev.smp 0).peak.toNat < 9 * 880
    ∧ ((sCl 5).clAt 0).clpstat.extractLsb' 0 3 = 5#3 ∧ ((sCl 2 [] (fun c => { c with isolated := true })).clAt 0).isolated = true := by
  decide +kernel

/-- A cap that has arrived for partition 0, and for another. -/
theorem wit_interval_caps : [(0 : BitVec 8), 9].all (fun p => ({ sIv 90 0 0 with dev := { (sIv 90 0 0).dev with pendingCap := some ⟨1, 100, [⟨p, 1, 50⟩]⟩ } } : State).dev.pendingCap.any
    (fun m => (m.entries.filter (fun e => e.part == p)).length == 1 && m.entries.all (fun e => e.part == 0) == (p == 0))) = true := by decide +kernel

/-- Fth at TJEM, TJHI and below TJLO; 5 mJ spent exhaust a quota of 5; current above the limit takes ALC one value down and
Fcur to 4 below the target (R384, R424, R426). -/
theorem test_power : (thermalLimit 148 110, thermalLimit 148 100, thermalLimit 100 94, thermalLimit 100 95) = (32, 147, 101, 100)
    ∧ (Context.reset.spend 0).equota = 0 ∧ (({ Context.reset with eqcfg := 1, equota := 5 } : Context).spend 10000000000).equota = 0x8000000000000000
    ∧ after (exec .currentLimitTrip (sIv 90 0 0)) (fun t => (t.core.vec.alc, (t.clAt 0).fcur, (t.clAt 0).fcurNext)) = some (48, 148, some 128)
    ∧ after (exec .currentLimitTrip ((sIv 90 0 0).onCl 0 (fun c => { c with boost := true, clpstat := 0x6E00000000 }))) (fun t => (t.core.vec.alc, (t.clAt 0).boost)) = some (16, false) := by
  decide +kernel

/-- R384, R385: a quota that is exhausted, and a period that has ended. -/
theorem wit_quotas : (((sIv 90 5 0).ctxAt 0).eqcfg.extractLsb' 0 24).toNat = 5 ∧ ((sIv 90 5 0).ctxAt 0).equota.extractLsb' 0 32 = 0#32 ∧ ((sIv 90 5 0).ctxAt 0).equota.getLsbD 63 = false
    ∧ 5 ≤ ((sIv 90 5 0).ctxAt 0).elapsed := by decide +kernel

/-- REM is LIMIT again (R385). -/
theorem test_quotas : after (exec .quotaRefill (sIv 90 0x0000000700000005 0)) (fun t => ((t.ctxAt 0).equota, (t.ctxAt 0).elapsed)) = some (7, 5)
    ∧ after (exec .equotaExhaust (sIv 90 5 0)) (fun t => (t.ctxAt 0).equota) = some 0x8000000000000000 := by decide +kernel

/-! ## A step -/

/-- Core 0 next on the schedule at pc 0x1000, with a word there, a run of the block buffer, or VPs. -/
def sSt (w : BitVec 32) (f : Core → Core := id) : State :=
  { st [(1, 6)] (fun c => f { c with pc := 0x1000 }) with mem := wordMem 0x1000 w, sched := [.core 0] }

/-- R63 to R65: each way in which a word comes, and a fetch that faults. -/
theorem wit_stepRunsDecoded : (let s := sSt (Instr.addi 5 1 1).word32
      s.sched = [Turn.core s.core.ref] ∧ s.dev.dierst.extractLsb' 0 2 = 0#2 ∧ s.core.run = .running ∧ (s.clAt (clusterOf s.core.id)).clpstat.extractLsb' 0 3 = 0#3
        ∧ s.myGang.isNone = true ∧ s.eventDue = false ∧ s.startDue.isNone = true ∧ s.core.vec.xuq = [] ∧ s.core.ibuf = [] ∧ s.dev.badBytes = []
        ∧ s.mulPending = false ∧ s.core.seqHeld = []
        ∧ s.dev.hostLinkDown = false ∧ s.core.vp.live = false ∧ s.core.blk.live = false ∧ s.core.regErr = [] ∧ s.dev.quarantine = []
        ∧ (translate s s.pl .fetch s.core.pc).toOption = some ⟨0x1000, none, none⟩ ∧ s.foreignScratch 0x1000 = false ∧ canonical s.core.pc = true)
    ∧ [(sSt (Instr.addi 5 1 1).word32, some (0 : Cause)), (sSt 0x40, some 2), (sSt 0 (fun c => { c with pc := 0xC000000000 }), none)].all (fun x =>
        match fetchWord { x.1 with sched := [] } x.1.core.pc with
        | .ok (w, t) => (t.wordCause w).getD 0 == x.2.getD 9
        | .error m => x.2.isNone && m.cause != 0) = true
    ∧ ((sSt 0 (fun c => { c with blk := { c.blk with live := true, unread := false } })).core.blk.live = true
        ∧ leastPc (sSt 0 (fun c => { c with vp := ⟨0x8000000000000001, [(0, 0x1000)], true, 0⟩ })).core.vp.pcs = some 0x1000) := by decide +kernel

/-- A step of addi. -/
theorem test_step : after (step (sSt (Instr.addi 5 1 1).word32)) (fun t => (t.g 5, t.core.pc)) = some (7, 0x1004)
    ∧ after (step (sSt 0x40)) (fun t => (t.core.sys.cause, t.core.sys.epc)) = some (2, 0x1000) := by decide +kernel

/-- R46 to R60: a form that encodes, with operands at their limits, and a word that decodes. -/
theorem wit_encodeDecode : (Instr.addi 31 31 0xFFFF).wellFormed = true ∧ (Instr.addi 31 31 0xFFFF).isEvent = false ∧ (decode 0x00073177).toOption = some (.amoAdd 5 6 7) := by
  decide +kernel

/-- A state whose memory has its form, and that makes a step. -/
theorem wit_memoryKeepsItsForm : (sSt (Instr.addi 5 1 1).word32).memOk ∧ (after (step (sSt (Instr.addi 5 1 1).word32)) (fun t => t.core.pc)).isSome = true := by
  unfold State.memOk
  decide +kernel

/-- R393: a core of each kind that takes a trap and goes on. -/
theorem wit_levelsStayLegal_traps : [sSr 0, sSr 1, sSr 3 true].all (fun s => s.core.run == .running && (s.enterTrap { cause := 0x28 }).core.run == .running) = true := by
  decide +kernel

/-- R393: the levels of every core are legal. -/
theorem wit_levelsStayLegal : (sSt (Instr.addi 5 1 1).word32).cores.all (fun c => if c.fw then c.sys.pl == plMach else c.sys.pl == plUser || c.sys.pl == plSup) = true := by
  decide +kernel

/-- The word that withFetchWord places at reset is the first that is run. -/
theorem test_fetchWord : after (step (State.reset.withFetchWord 32 (Instr.addi 5 0 9).word32.toNat)) (fun t => t.g 5) = some 9 := by decide +kernel
end Sys2Proof.Tests
end

section
/-! PROOFS. The encoding is exact (R46 to R60). Each major reads a form's fields exactly: the static checks that the
decoder collects pass just where the form is well formed and its encoded fields are the fields at hand. -/

namespace Sys2Proof.Proofs.Encoding

set_option Elab.async false
set_option maxRecDepth 4000

open Sys2Proof.Laws

/-- A form's word passes the checks 5 to 8 of R62 where each of the four holds. -/
theorem staticCause_eq_none (m : Form) :
    m.staticCause = none ↔ m.mbz = true ∧ m.reg = true ∧ m.lit = true ∧ m.ali = true := by
  unfold Form.staticCause
  cases m.mbz <;> cases m.reg <;> cases m.lit <;> cases m.ali <;> simp

/-- What a reading of the fields owes: where it answers a form, the static checks pass (R62, steps 5 to 8) just where the
form is well formed and encodes to these fields. -/
def Exact (f : Fields) (r : Except Cause Form) : Prop :=
  ∀ m, r = .ok m → (m.staticCause = none ↔ m.instr.wellFormed = true ∧ encodeFields m.instr = some f)

@[simp] theorem exact_error (f : Fields) (c : Cause) : Exact f (.error c) := by
  intro m h
  cases h

@[simp] theorem exact_ok (f : Fields) (m : Form) :
    Exact f (.ok m) ↔ ((m.mbz = true ∧ m.reg = true ∧ m.lit = true ∧ m.ali = true) ↔
      m.instr.wellFormed = true ∧ encodeFields m.instr = some f) := by
  rw [← staticCause_eq_none]
  exact ⟨fun h => h m rfl, by rintro h _ ⟨⟩; exact h⟩

@[simp] theorem fields_mk_eq (fn : BitVec 6) (rep : BitVec 2) (k : BitVec 3) (b a d : BitVec 5) (major : BitVec 6) (f : Fields) :
    (⟨fn, rep, k, b, a, d, major⟩ : Fields) = f ↔
      f.fn = fn ∧ f.rep = rep ∧ f.k = k ∧ f.b = b ∧ f.a = a ∧ f.d = d ∧ f.major = major := by
  cases f
  simp only [Fields.mk.injEq, eq_comm]

@[simp] theorem fn_eq_lit (f : Fields) (n : Nat) : (f.fn = BitVec.ofNat 6 n) ↔ (f.fn.toNat = n % 64) := by
  rw [← BitVec.toNat_inj, BitVec.toNat_ofNat]

/-- A function field is its mask bit and its low five bits (R50). -/
theorem toNat_of_masked (x : BitVec 6) :
    x.toNat = (if x.getLsbD 5 then 32 else 0) + (x.extractLsb' 0 5).toNat := by
  revert x; decide

/-! ### The other formats are views of the same fields (R48, R51, R54, R57) -/

theorem extract_high {n m : Nat} (x : BitVec m) (y : BitVec n) (lo w k : Nat) (h : k = n + lo) :
    (x ++ y).extractLsb' k w = x.extractLsb' lo w := by
  rw [BitVec.extractLsb'_append_eq_of_le (by omega)]
  congr 1
  omega

/-- The fields that imm16 and the offset of a B word are made of. -/
theorem extract_parts (fn : BitVec 6) (rep : BitVec 2) (k : BitVec 3) (x : BitVec 5) :
    (fn ++ rep ++ k ++ x).extractLsb' 10 6 = fn ∧ (fn ++ rep ++ k ++ x).extractLsb' 8 2 = rep
      ∧ (fn ++ rep ++ k ++ x).extractLsb' 5 3 = k ∧ (fn ++ rep ++ k ++ x).extractLsb' 0 5 = x := by
  refine ⟨?_, ?_, ?_, extract_lo _ _⟩
  · rw [extract_high _ _ 5 6 10 rfl, extract_high _ _ 2 6 5 rfl, extract_hi]
  · rw [extract_high _ _ 3 2 8 rfl, extract_high _ _ 0 2 3 rfl, extract_lo]
  · rw [extract_high _ _ 0 3 5 rfl, extract_lo]

@[simp] theorem ofI_eq (m : BitVec 6) (imm : BitVec 16) (a d : BitVec 5) (f : Fields) :
    Fields.ofI m imm a d = f ↔ f.imm16 = imm ∧ f.a = a ∧ f.d = d ∧ f.major = m := by
  constructor
  · rintro rfl
    exact ⟨imm16_ofI m imm a d, rfl, rfl, rfl⟩
  · rintro ⟨rfl, rfl, rfl, rfl⟩
    obtain ⟨h1, h2, h3, h4⟩ := extract_parts f.fn f.rep f.k f.b
    exact (fields_mk_eq ..).mpr ⟨h1.symm, h2.symm, h3.symm, h4.symm, rfl, rfl, rfl⟩

@[simp] theorem ofB_eq (m : BitVec 6) (off : BitVec 16) (b a : BitVec 5) (f : Fields) :
    Fields.ofB m off b a = f ↔ f.off16 = off ∧ f.b = b ∧ f.a = a ∧ f.major = m := by
  constructor
  · rintro rfl
    exact ⟨off16_ofB m off b a, rfl, rfl, rfl⟩
  · rintro ⟨rfl, rfl, rfl, rfl⟩
    obtain ⟨h1, h2, h3, h4⟩ := extract_parts f.fn f.rep f.k f.d
    exact (fields_mk_eq ..).mpr ⟨h1.symm, h2.symm, h3.symm, rfl, rfl, h4.symm, rfl⟩

@[simp] theorem ofJ_eq (m : BitVec 6) (imm : BitVec 21) (d : BitVec 5) (f : Fields) :
    Fields.ofJ m imm d = f ↔ f.imm21 = imm ∧ f.d = d ∧ f.major = m := by
  constructor
  · rintro rfl
    exact ⟨imm21_ofJ m imm d, rfl, rfl⟩
  · rintro ⟨rfl, rfl, rfl⟩
    obtain ⟨h1, h2, h3, h4⟩ := extract_parts f.fn f.rep f.k f.b
    refine (fields_mk_eq ..).mpr ⟨?_, ?_, ?_, ?_, (extract_lo _ f.a).symm, rfl, rfl⟩
    · exact ((extract_high _ f.a 10 6 15 rfl).trans h1).symm
    · exact ((extract_high _ f.a 8 2 13 rfl).trans h2).symm
    · exact ((extract_high _ f.a 5 3 10 rfl).trans h3).symm
    · exact ((extract_high _ f.a 0 5 5 rfl).trans h4).symm

@[simp] theorem ofW_eq (m : BitVec 6) (fn : BitVec 3) (port op : BitVec 4) (b a d : BitVec 5) (f : Fields) :
    Fields.ofW m fn port op b a d = f ↔
      f.wfn = fn ∧ f.port = port ∧ f.op = op ∧ f.b = b ∧ f.a = a ∧ f.d = d ∧ f.major = m := by
  constructor
  · rintro rfl
    exact ⟨wfn_ofW .., port_ofW .., op_ofW .., rfl, rfl, rfl, rfl⟩
  · rintro ⟨rfl, rfl, rfl, rfl, rfl, rfl, rfl⟩
    refine (fields_mk_eq ..).mpr ⟨?_, ?_, (extract_lo _ _).symm, rfl, rfl, rfl, rfl⟩
    · unfold Fields.port Fields.wfn
      rw [extract_hi, extract_join f.fn 0 3 3 3 rfl, extract_all]
    · unfold Fields.port Fields.op
      rw [extract_lo, extract_hi, extract_join f.rep 0 1 1 1 rfl, extract_all]

@[simp] theorem ofShift_eq (fn : BitVec 2) (n : BitVec 6) (a d : BitVec 5) (f : Fields) :
    Fields.ofShift fn n a d = f ↔
      f.fn = 0 ∧ f.rep = 0 ∧ f.shiftFn = fn ∧ f.shiftCount = n ∧ f.a = a ∧ f.d = d ∧ f.major = 0x07 := by
  constructor
  · rintro rfl
    exact ⟨rfl, rfl, shiftFn_ofShift .., shiftCount_ofShift .., rfl, rfl, rfl⟩
  · rintro ⟨h1, h2, rfl, rfl, rfl, rfl, h3⟩
    refine (fields_mk_eq ..).mpr ⟨h1, h2, ?_, (extract_lo _ _).symm, rfl, rfl, h3⟩
    unfold Fields.shiftFn Fields.shiftCount
    rw [extract_hi, extract_join f.k 0 1 2 1 rfl, extract_all]

@[simp] theorem ofVcfg_eq (f : Fields) :
    Fields.ofVcfg f.b (f.rep ++ f.k) (f.fn.extractLsb' 0 2) f.d = f ↔ f.fn.extractLsb' 2 4 = 0 ∧ f.a = 0 ∧ f.major = 0x10 := by
  have hg : ∀ x : BitVec 6, x = 0#4 ++ x.extractLsb' 0 2 ↔ x.extractLsb' 2 4 = 0 := by decide
  unfold Fields.ofVcfg
  rw [fields_mk_eq, extract_hi, extract_lo, hg]
  simp

@[simp] theorem wfn_eq_lit (f : Fields) (n : Nat) : f.wfn = BitVec.ofNat 3 n ↔ f.wfn.toNat = n % 8 := by
  rw [← BitVec.toNat_inj, BitVec.toNat_ofNat]

@[simp] theorem shiftFn_eq_lit (f : Fields) (n : Nat) : f.shiftFn = BitVec.ofNat 2 n ↔ f.shiftFn.toNat = n % 4 := by
  rw [← BitVec.toNat_inj, BitVec.toNat_ofNat]

/-! ### Register numbers of the narrow classes (R49, R56): a field of five bits holds one where its upper bits are zero -/

@[simp] theorem eq_narrowed1 (x : BitVec 5) : x = (x.setWidth 1).setWidth 5 ↔ x.ule 1 = true := by revert x; decide
@[simp] theorem eq_narrowed2 (x : BitVec 5) : x = (x.setWidth 2).setWidth 5 ↔ x.ule 3 = true := by revert x; decide
@[simp] theorem eq_narrowed3 (x : BitVec 5) : x = (x.setWidth 3).setWidth 5 ↔ x.ule 7 = true := by revert x; decide
@[simp] theorem eq_narrowed4 (x : BitVec 5) : x = (x.setWidth 4).setWidth 5 ↔ x.ule 15 = true := by revert x; decide
@[simp] theorem eq_flag (x : BitVec 5) : (x = if x[0] then 1#5 else 0#5) ↔ x.ule 1 = true := by revert x; decide

/-- k0 is no destination (R56). -/
theorem narrowed_eq_zero (x : BitVec 5) (h : x.ule 7#5 = true) : x.setWidth 3 = 0#3 ↔ x = 0#5 := by revert x; decide

/-- A literal limit of a narrow operand (R60) is that of its field. -/
theorem narrowed_ule2 (x : BitVec 5) : (x.setWidth 2).ule 2#2 = true ∧ x.ule 3#5 = true ↔ x.ule 2#5 = true := by revert x; decide
theorem narrowed_ule5 (x : BitVec 5) : (x.setWidth 3).ule 5#3 = true ∧ x.ule 7#5 = true ↔ x.ule 5#5 = true := by revert x; decide
theorem narrowed_ule6 (x : BitVec 5) : (x.setWidth 3).ule 6#3 = true ∧ x.ule 7#5 = true ↔ x.ule 6#5 = true := by revert x; decide

/-- A shape register (R57) is among m1 to m6. -/
theorem narrowed_shape (x : BitVec 5) :
    (x.setWidth 3).ule 6#3 = true ∧ x.ule 7#5 = true ∧ 1 ≤ x.toNat % 8 ↔ 1 ≤ x.toNat ∧ x.ule 6#5 = true := by
  revert x; decide

theorem narrowed_port (x : BitVec 5) (h : x.ule 7#5 = true) : (x.setWidth 3).setWidth 4 = x.setWidth 4 := by revert x; decide

@[simp] theorem sreg_low (r : BitVec 2) (b : BitVec 5) : (r ++ b).extractLsb' 0 5 = b := extract_lo r b
@[simp] theorem sreg_high (r : BitVec 2) (b : BitVec 5) : (r ++ b).extractLsb' 5 2 = r := extract_hi r b

@[simp] theorem exact_ite (f : Fields) (p : Prop) [Decidable p] (r : Except Cause Form) (c : Cause) :
    Exact f (if p then r else .error c) ↔ (p → Exact f r) := by
  by_cases h : p <;> simp [h]

/-! ### Each major reads its fields exactly (R49 to R60)

The decoder's matches are split by function number. In the majors whose function has a mask bit (R50), that bit and the
low five together are the field (`toNat_of_masked`). -/

theorem exact_major01 (f : Fields) (h : f.major = 0x01) : Exact f (decodeMajor01 f) := by
  unfold decodeMajor01
  split <;> rename_i hn <;>
    simp [Instr.wellFormed, encodeFields, h, hn, and_comm]

theorem exact_major02 (f : Fields) (h : f.major = 0x02) : Exact f (decodeMajor02 f) := by
  unfold decodeMajor02
  split <;> rename_i hn <;>
    simp [Instr.wellFormed, encodeFields, h, hn, and_comm, and_assoc]

theorem exact_major03 (f : Fields) (h : f.major = 0x03) : Exact f (decodeMajor03 f) := by
  unfold decodeMajor03
  simp [Instr.wellFormed, encodeFields, h]

theorem exact_major04 (f : Fields) (h : f.major = 0x04) : Exact f (decodeMajor04 f) := by
  unfold decodeMajor04
  simp [Instr.wellFormed, encodeFields, h]

theorem exact_major05 (f : Fields) (h : f.major = 0x05) : Exact f (decodeMajor05 f) := by
  unfold decodeMajor05
  simp [Instr.wellFormed, encodeFields, h]

theorem exact_major06 (f : Fields) (h : f.major = 0x06) : Exact f (decodeMajor06 f) := by
  unfold decodeMajor06
  simp [Instr.wellFormed, encodeFields, h]

theorem exact_major07 (f : Fields) (h : f.major = 0x07) : Exact f (decodeMajor07 f) := by
  unfold decodeMajor07
  split <;> rename_i hn <;>
    simp +contextual [Instr.wellFormed, encodeFields, h, hn, and_comm]

theorem exact_major08 (f : Fields) (h : f.major = 0x08) : Exact f (decodeMajor08 f) := by
  unfold decodeMajor08
  simp [Instr.wellFormed, encodeFields, h]

theorem exact_major09 (f : Fields) (h : f.major = 0x09) : Exact f (decodeMajor09 f) := by
  unfold decodeMajor09
  simp [Instr.wellFormed, encodeFields, h]

theorem exact_major0A (f : Fields) (h : f.major = 0x0A) : Exact f (decodeMajor0A f) := by
  unfold decodeMajor0A
  simp [Instr.wellFormed, encodeFields, h]

theorem exact_major0B (f : Fields) (h : f.major = 0x0B) : Exact f (decodeMajor0B f) := by
  unfold decodeMajor0B
  simp [Instr.wellFormed, encodeFields, h]

theorem exact_major0C (f : Fields) (h : f.major = 0x0C) : Exact f (decodeMajor0C f) := by
  unfold decodeMajor0C
  simp [Instr.wellFormed, encodeFields, h]

theorem exact_major0D (f : Fields) (h : f.major = 0x0D) : Exact f (decodeMajor0D f) := by
  unfold decodeMajor0D
  simp [Instr.wellFormed, encodeFields, h]

theorem exact_major0E (f : Fields) (h : f.major = 0x0E) : Exact f (decodeMajor0E f) := by
  unfold decodeMajor0E
  simp [Instr.wellFormed, encodeFields, h]

theorem exact_major0F (f : Fields) (h : f.major = 0x0F) : Exact f (decodeMajor0F f) := by
  unfold decodeMajor0F
  simp [Instr.wellFormed, encodeFields, h]

theorem exact_major10 (f : Fields) (h : f.major = 0x10) : Exact f (decodeMajor10 f) := by
  unfold decodeMajor10
  simp [Instr.wellFormed, encodeFields, h, and_comm, and_assoc]

theorem exact_major11 (f : Fields) (h : f.major = 0x11) : Exact f (decodeMajor11 f) := by
  unfold decodeMajor11
  split <;> rename_i hn <;>
    simp [Instr.wellFormed, encodeFields, h, hn, and_comm, and_assoc]

theorem exact_major12 (f : Fields) (h : f.major = 0x12) : Exact f (decodeMajor12 f) := by
  unfold decodeMajor12
  simp [Instr.wellFormed, encodeFields, h]

theorem exact_major13 (f : Fields) (h : f.major = 0x13) : Exact f (decodeMajor13 f) := by
  unfold decodeMajor13
  simp [Instr.wellFormed, encodeFields, h]

theorem exact_major14 (f : Fields) (h : f.major = 0x14) : Exact f (decodeMajor14 f) := by
  unfold decodeMajor14
  have hf := toNat_of_masked f.fn
  cases hz : f.fn.getLsbD 5 <;> rw [hz] at hf <;>
    split <;> rename_i hn <;>
    simp +contextual [Instr.wellFormed, encodeFields, h, hn, hf, narrowed_eq_zero, and_comm, and_assoc, and_left_comm]

theorem exact_major15 (f : Fields) (h : f.major = 0x15) : Exact f (decodeMajor15 f) := by
  unfold decodeMajor15
  have hf := toNat_of_masked f.fn
  cases hz : f.fn.getLsbD 5 <;> rw [hz] at hf <;>
    split <;> rename_i hn <;>
    simp [Instr.wellFormed, encodeFields, h, hn, hf, and_comm, and_assoc]

theorem exact_major16 (f : Fields) (h : f.major = 0x16) : Exact f (decodeMajor16 f) := by
  unfold decodeMajor16
  have hf := toNat_of_masked f.fn
  cases hz : f.fn.getLsbD 5 <;> rw [hz] at hf <;>
    split <;> rename_i hn <;>
    simp [Instr.wellFormed, encodeFields, h, hn, hf, and_comm, and_left_comm]

theorem exact_major18 (f : Fields) (h : f.major = 0x18) : Exact f (decodeMajor18 f) := by
  unfold decodeMajor18
  have hf := toNat_of_masked f.fn
  cases hz : f.fn.getLsbD 5 <;> rw [hz] at hf <;>
    split <;> rename_i hn <;>
    simp [Instr.wellFormed, encodeFields, h, hn, hf, and_comm, and_left_comm]

theorem exact_major19 (f : Fields) (h : f.major = 0x19) : Exact f (decodeMajor19 f) := by
  unfold decodeMajor19
  have hf := toNat_of_masked f.fn
  cases hz : f.fn.getLsbD 5 <;> rw [hz] at hf <;>
    split <;> rename_i hn <;>
    simp [Instr.wellFormed, encodeFields, h, hn, hf, and_comm, and_left_comm]

theorem exact_major1A (f : Fields) (h : f.major = 0x1A) : Exact f (decodeMajor1A f) := by
  unfold decodeMajor1A
  have hf := toNat_of_masked f.fn
  cases hz : f.fn.getLsbD 5 <;> rw [hz] at hf <;>
    split <;> rename_i hn <;>
    simp +contextual [Instr.wellFormed, encodeFields, h, hn, hf, narrowed_eq_zero, and_comm, and_assoc]

theorem exact_major1B (f : Fields) (h : f.major = 0x1B) : Exact f (decodeMajor1B f) := by
  unfold decodeMajor1B
  have hf := toNat_of_masked f.fn
  cases hz : f.fn.getLsbD 5 <;> rw [hz] at hf <;>
    split <;> rename_i hn <;>
    simp [Instr.wellFormed, encodeFields, h, hn, hf, and_comm, and_left_comm]

theorem exact_major1C (f : Fields) (h : f.major = 0x1C) : Exact f (decodeMajor1C f) := by
  unfold decodeMajor1C
  have hf := toNat_of_masked f.fn
  cases hz : f.fn.getLsbD 5 <;> rw [hz] at hf <;>
    split <;> rename_i hn <;>
    simp [Instr.wellFormed, encodeFields, h, hn, hf, and_comm, and_left_comm]

theorem exact_major1D (f : Fields) (h : f.major = 0x1D) : Exact f (decodeMajor1D f) := by
  unfold decodeMajor1D
  have hf := toNat_of_masked f.fn
  cases hz : f.fn.getLsbD 5 <;> rw [hz] at hf <;>
    split <;> rename_i hn <;>
    simp [Instr.wellFormed, encodeFields, h, hn, hf, and_comm, and_left_comm]

theorem exact_major1E (f : Fields) (h : f.major = 0x1E) : Exact f (decodeMajor1E f) := by
  unfold decodeMajor1E
  split <;> rename_i hn <;>
    simp +contextual [Instr.wellFormed, encodeFields, h, hn, narrowed_eq_zero, and_comm, and_assoc, and_left_comm]

theorem exact_major1F (f : Fields) (h : f.major = 0x1F) : Exact f (decodeMajor1F f) := by
  unfold decodeMajor1F
  have hf := toNat_of_masked f.fn
  cases hz : f.fn.getLsbD 5 <;> rw [hz] at hf <;>
    split <;> rename_i hn <;>
    simp [Instr.wellFormed, encodeFields, h, hn, hf, and_comm]

theorem exact_major20 (f : Fields) (h : f.major = 0x20) : Exact f (decodeMajor20 f) := by
  unfold decodeMajor20
  have hf := toNat_of_masked f.fn
  cases hz : f.fn.getLsbD 5 <;> rw [hz] at hf <;>
    split <;> rename_i hn <;>
    simp [Instr.wellFormed, encodeFields, h, hn, hf, and_comm, and_left_comm]

theorem exact_major21 (f : Fields) (h : f.major = 0x21) : Exact f (decodeMajor21 f) := by
  unfold decodeMajor21
  have hf := toNat_of_masked f.fn
  cases hz : f.fn.getLsbD 5 <;> rw [hz] at hf <;>
    split <;> rename_i hn <;>
    simp [Instr.wellFormed, encodeFields, h, hn, hf, and_comm, and_assoc]

theorem exact_major24 (f : Fields) (h : f.major = 0x24) : Exact f (decodeMajor24 f) := by
  unfold decodeMajor24
  have hf := toNat_of_masked f.fn
  cases hz : f.fn.getLsbD 5 <;> rw [hz] at hf <;>
    split <;> rename_i hn <;>
    simp [Instr.wellFormed, encodeFields, h, hn, hf, and_comm, and_assoc, and_left_comm]

theorem exact_major25 (f : Fields) (h : f.major = 0x25) : Exact f (decodeMajor25 f) := by
  unfold decodeMajor25
  have hf := toNat_of_masked f.fn
  cases hz : f.fn.getLsbD 5 <;> rw [hz] at hf <;>
    split <;> rename_i hn <;>
    simp [Instr.wellFormed, encodeFields, h, hn, hf, and_comm, and_assoc, and_left_comm]

theorem exact_major26 (f : Fields) (h : f.major = 0x26) : Exact f (decodeMajor26 f) := by
  unfold decodeMajor26
  have hf := toNat_of_masked f.fn
  cases hz : f.fn.getLsbD 5 <;> rw [hz] at hf <;>
    split <;> rename_i hn <;>
    simp [Instr.wellFormed, encodeFields, h, hn, hf, and_comm, and_assoc]

theorem exact_major27 (f : Fields) (h : f.major = 0x27) : Exact f (decodeMajor27 f) := by
  unfold decodeMajor27
  have hf := toNat_of_masked f.fn
  cases hz : f.fn.getLsbD 5 <;> rw [hz] at hf <;>
    split <;> rename_i hn <;>
    simp [Instr.wellFormed, encodeFields, h, hn, hf, and_comm, and_assoc, and_left_comm]

theorem exact_major28 (f : Fields) (h : f.major = 0x28) : Exact f (decodeMajor28 f) := by
  unfold decodeMajor28
  split <;> rename_i hn <;>
    simp [Instr.wellFormed, encodeFields, h, hn, and_comm, and_assoc, and_left_comm]
  have ha := narrowed_shape f.a
  have hb := narrowed_shape f.b
  intro _ _
  constructor
  · rintro ⟨hb1, ha1, hb2, ha2, hd⟩
    obtain ⟨hb3, hb4, hb5⟩ := hb.mpr ⟨hb1, hb2⟩
    obtain ⟨ha3, ha4, ha5⟩ := ha.mpr ⟨ha1, ha2⟩
    exact ⟨hb3, ha3, hb4, ha4, hd, hb5, ha5⟩
  · rintro ⟨hb3, ha3, hb4, ha4, hd, hb5, ha5⟩
    obtain ⟨hb1, hb2⟩ := hb.mp ⟨hb3, hb4, hb5⟩
    obtain ⟨ha1, ha2⟩ := ha.mp ⟨ha3, ha4, ha5⟩
    exact ⟨hb1, ha1, hb2, ha2, hd⟩

theorem exact_major29 (f : Fields) (h : f.major = 0x29) : Exact f (decodeMajor29 f) := by
  unfold decodeMajor29
  split <;> rename_i hn <;>
    simp [Instr.wellFormed, encodeFields, h, hn, and_comm]

theorem exact_major2A (f : Fields) (h : f.major = 0x2A) : Exact f (decodeMajor2A f) := by
  unfold decodeMajor2A
  split <;> rename_i hn <;>
    simp [Instr.wellFormed, encodeFields, h, hn, and_comm, and_assoc]

theorem exact_major2B (f : Fields) (h : f.major = 0x2B) : Exact f (decodeMajor2B f) := by
  unfold decodeMajor2B
  split <;> rename_i hn <;>
    simp [Instr.wellFormed, encodeFields, h, hn, and_comm, and_assoc]

theorem exact_major2C (f : Fields) (h : f.major = 0x2C) : Exact f (decodeMajor2C f) := by
  unfold decodeMajor2C
  split <;> rename_i hn <;>
    simp [Instr.wellFormed, encodeFields, h, hn, and_comm, and_assoc]

theorem exact_major2D (f : Fields) (h : f.major = 0x2D) : Exact f (decodeMajor2D f) := by
  unfold decodeMajor2D
  split <;> rename_i hn <;>
    simp +contextual [Instr.wellFormed, encodeFields, h, hn, and_comm, and_assoc, and_left_comm]

theorem exact_major2E (f : Fields) (h : f.major = 0x2E) : Exact f (decodeMajor2E f) := by
  unfold decodeMajor2E
  split <;> rename_i hn <;>
    simp [Instr.wellFormed, encodeFields, h, hn, and_comm, and_assoc, and_left_comm]

theorem exact_major2F (f : Fields) (h : f.major = 0x2F) : Exact f (decodeMajor2F f) := by
  unfold decodeMajor2F
  have hf := toNat_of_masked f.fn
  cases hz : f.fn.getLsbD 5 <;> rw [hz] at hf <;>
    split <;> rename_i hn <;>
    simp [Instr.wellFormed, encodeFields, h, hn, hf, and_comm, and_assoc, and_left_comm]

theorem exact_major30 (f : Fields) (h : f.major = 0x30) : Exact f (decodeMajor30 f) := by
  unfold decodeMajor30
  split <;> rename_i hn <;>
    simp +contextual [Instr.wellFormed, encodeFields, h, hn, narrowed_port, and_comm, and_assoc, and_left_comm]

theorem exact_major31 (f : Fields) (h : f.major = 0x31) : Exact f (decodeMajor31 f) := by
  unfold decodeMajor31
  split <;> rename_i hn <;>
    simp [Instr.wellFormed, encodeFields, h, hn, and_comm, and_assoc]

theorem exact_major32 (f : Fields) (h : f.major = 0x32) : Exact f (decodeMajor32 f) := by
  unfold decodeMajor32
  split <;> rename_i hn <;>
    simp [Instr.wellFormed, encodeFields, h, hn, and_comm, and_assoc]

theorem exact_major34 (f : Fields) (h : f.major = 0x34) : Exact f (decodeMajor34 f) := by
  unfold decodeMajor34
  split <;> rename_i hn <;>
    simp +contextual [Instr.wellFormed, encodeFields, h, hn, and_comm]

theorem exact_major35 (f : Fields) (h : f.major = 0x35) : Exact f (decodeMajor35 f) := by
  unfold decodeMajor35
  split <;> rename_i hn <;>
    simp [Instr.wellFormed, encodeFields, h, hn, narrowed_ule2, and_comm, and_assoc, and_left_comm]

theorem exact_major36 (f : Fields) (h : f.major = 0x36) : Exact f (decodeMajor36 f) := by
  unfold decodeMajor36
  split <;> rename_i hn <;>
    simp +contextual [Instr.wellFormed, encodeFields, h, hn, narrowed_ule6, narrowed_eq_zero, and_comm, and_assoc, and_left_comm]

theorem exact_major37 (f : Fields) (h : f.major = 0x37) : Exact f (decodeMajor37 f) := by
  unfold decodeMajor37
  split <;> rename_i hn <;>
    simp [Instr.wellFormed, encodeFields, h, hn, and_comm]

theorem exact_major38 (f : Fields) (h : f.major = 0x38) : Exact f (decodeMajor38 f) := by
  unfold decodeMajor38
  split <;> rename_i hn <;>
    simp [Instr.wellFormed, encodeFields, h, hn, narrowed_ule5, and_comm, and_assoc, and_left_comm]

theorem exact_major39 (f : Fields) (h : f.major = 0x39) : Exact f (decodeMajor39 f) := by
  unfold decodeMajor39
  split <;> rename_i hn <;>
    simp [Instr.wellFormed, encodeFields, h, hn, and_comm]

theorem exact_major3A (f : Fields) (h : f.major = 0x3A) : Exact f (decodeMajor3A f) := by
  unfold decodeMajor3A
  split <;> rename_i hn <;>
    simp [Instr.wellFormed, encodeFields, h, hn, and_comm]

theorem exact_major3B (f : Fields) (h : f.major = 0x3B) : Exact f (decodeMajor3B f) := by
  unfold decodeMajor3B
  split <;> rename_i hn <;>
    simp [Instr.wellFormed, encodeFields, h, hn, and_comm]

theorem exact_major3C (f : Fields) (h : f.major = 0x3C) : Exact f (decodeMajor3C f) := by
  unfold decodeMajor3C
  split <;> rename_i hn <;>
    simp [Instr.wellFormed, encodeFields, h, hn, and_comm, and_assoc]

theorem exact_major3D (f : Fields) (h : f.major = 0x3D) : Exact f (decodeMajor3D f) := by
  unfold decodeMajor3D
  split <;> rename_i hn <;>
    simp [Instr.wellFormed, encodeFields, h, hn, and_comm]

/-! ### The index, and the two directions -/

/-- A major number fixes its field. -/
theorem major_eq (f : Fields) (n : Nat) (h : f.major.toNat = n % 64) : f.major = BitVec.ofNat 6 n :=
  BitVec.eq_of_toNat_eq (h.trans (BitVec.toNat_ofNat n 6).symm)

/-- R59: every major reads its fields exactly. -/
theorem exact_formOf (f : Fields) : Exact f (formOf f) := by
  unfold formOf
  split <;> rename_i hn
  · exact exact_error f _
  · exact exact_major01 f (major_eq f 1 hn)
  · exact exact_major02 f (major_eq f 2 hn)
  · exact exact_major03 f (major_eq f 3 hn)
  · exact exact_major04 f (major_eq f 4 hn)
  · exact exact_major05 f (major_eq f 5 hn)
  · exact exact_major06 f (major_eq f 6 hn)
  · exact exact_major07 f (major_eq f 7 hn)
  · exact exact_major08 f (major_eq f 8 hn)
  · exact exact_major09 f (major_eq f 9 hn)
  · exact exact_major0A f (major_eq f 10 hn)
  · exact exact_major0B f (major_eq f 11 hn)
  · exact exact_major0C f (major_eq f 12 hn)
  · exact exact_major0D f (major_eq f 13 hn)
  · exact exact_major0E f (major_eq f 14 hn)
  · exact exact_major0F f (major_eq f 15 hn)
  · exact exact_major10 f (major_eq f 16 hn)
  · exact exact_major11 f (major_eq f 17 hn)
  · exact exact_major12 f (major_eq f 18 hn)
  · exact exact_major13 f (major_eq f 19 hn)
  · exact exact_major14 f (major_eq f 20 hn)
  · exact exact_major15 f (major_eq f 21 hn)
  · exact exact_major16 f (major_eq f 22 hn)
  · exact exact_major18 f (major_eq f 24 hn)
  · exact exact_major19 f (major_eq f 25 hn)
  · exact exact_major1A f (major_eq f 26 hn)
  · exact exact_major1B f (major_eq f 27 hn)
  · exact exact_major1C f (major_eq f 28 hn)
  · exact exact_major1D f (major_eq f 29 hn)
  · exact exact_major1E f (major_eq f 30 hn)
  · exact exact_major1F f (major_eq f 31 hn)
  · exact exact_major20 f (major_eq f 32 hn)
  · exact exact_major21 f (major_eq f 33 hn)
  · exact exact_major24 f (major_eq f 36 hn)
  · exact exact_major25 f (major_eq f 37 hn)
  · exact exact_major26 f (major_eq f 38 hn)
  · exact exact_major27 f (major_eq f 39 hn)
  · exact exact_major28 f (major_eq f 40 hn)
  · exact exact_major29 f (major_eq f 41 hn)
  · exact exact_major2A f (major_eq f 42 hn)
  · exact exact_major2B f (major_eq f 43 hn)
  · exact exact_major2C f (major_eq f 44 hn)
  · exact exact_major2D f (major_eq f 45 hn)
  · exact exact_major2E f (major_eq f 46 hn)
  · exact exact_major2F f (major_eq f 47 hn)
  · exact exact_major30 f (major_eq f 48 hn)
  · exact exact_major31 f (major_eq f 49 hn)
  · exact exact_major32 f (major_eq f 50 hn)
  · exact exact_major34 f (major_eq f 52 hn)
  · exact exact_major35 f (major_eq f 53 hn)
  · exact exact_major36 f (major_eq f 54 hn)
  · exact exact_major37 f (major_eq f 55 hn)
  · exact exact_major38 f (major_eq f 56 hn)
  · exact exact_major39 f (major_eq f 57 hn)
  · exact exact_major3A f (major_eq f 58 hn)
  · exact exact_major3B f (major_eq f 59 hn)
  · exact exact_major3C f (major_eq f 60 hn)
  · exact exact_major3D f (major_eq f 61 hn)
  all_goals exact exact_error f _

/-- Every form reads back from its fields (the statement of `Laws.ReadsBack`, for all rows of the opcode table). -/
theorem readsBack (i : Instr) : ReadsBack.Statement i :=
  Instr.rec (motive := ReadsBack.Statement)
    ReadsBack.add ReadsBack.sub ReadsBack.and ReadsBack.or ReadsBack.xor ReadsBack.sll ReadsBack.srl ReadsBack.sra
    ReadsBack.slt ReadsBack.sltu ReadsBack.min ReadsBack.max ReadsBack.minu ReadsBack.maxu ReadsBack.clz
    ReadsBack.popc ReadsBack.mul ReadsBack.mulh ReadsBack.mulhu ReadsBack.div ReadsBack.divu ReadsBack.rem
    ReadsBack.remu ReadsBack.ldxB ReadsBack.ldxBu ReadsBack.ldxH ReadsBack.ldxHu ReadsBack.ldxW ReadsBack.ldxWu
    ReadsBack.ldxD ReadsBack.stxB ReadsBack.stxH ReadsBack.stxW ReadsBack.stxD ReadsBack.blkCap ReadsBack.blkRun
    ReadsBack.blkBrk ReadsBack.addi ReadsBack.andi ReadsBack.ori ReadsBack.xori ReadsBack.slli ReadsBack.srli
    ReadsBack.srai ReadsBack.lui ReadsBack.auipc ReadsBack.jal ReadsBack.jalr ReadsBack.ldD ReadsBack.stD
    ReadsBack.beq ReadsBack.bne ReadsBack.vcfg ReadsBack.vsetvl ReadsBack.vprof ReadsBack.vmfc ReadsBack.vlq
    ReadsBack.vspill ReadsBack.vfill ReadsBack.vLd ReadsBack.vSt ReadsBack.vLds ReadsBack.vLdx ReadsBack.vLdb
    ReadsBack.vLdk ReadsBack.vLdq ReadsBack.vLdff ReadsBack.vSts ReadsBack.vStx ReadsBack.vStk ReadsBack.vSxadd
    ReadsBack.vSxmin ReadsBack.vSxmax ReadsBack.vPf ReadsBack.vLdc ReadsBack.vStc ReadsBack.vAdd ReadsBack.vSub
    ReadsBack.vMul ReadsBack.vMulh ReadsBack.vMadd ReadsBack.vMsub ReadsBack.vMin ReadsBack.vMax ReadsBack.vAbs
    ReadsBack.vNeg ReadsBack.vClamp ReadsBack.vAnd ReadsBack.vOr ReadsBack.vXor ReadsBack.vNot ReadsBack.vSll
    ReadsBack.vSrl ReadsBack.vSra ReadsBack.vCeq ReadsBack.vCne ReadsBack.vClt ReadsBack.vCle ReadsBack.vCun
    ReadsBack.vCvt ReadsBack.vCvtz ReadsBack.vCvtp ReadsBack.vCvtm ReadsBack.vCvts ReadsBack.vWacc ReadsBack.vPerm
    ReadsBack.vSlup ReadsBack.vSldn ReadsBack.vComp ReadsBack.vExpd ReadsBack.vMrg ReadsBack.vCdet ReadsBack.vIota
    ReadsBack.vSplat ReadsBack.vExtr ReadsBack.vKand ReadsBack.vKor ReadsBack.vKxor ReadsBack.vKandn ReadsBack.vKpop
    ReadsBack.vKfirst ReadsBack.vRsum ReadsBack.vRmax ReadsBack.vRmin ReadsBack.vRall ReadsBack.vRany ReadsBack.vRxor
    ReadsBack.vPsum ReadsBack.vPmax ReadsBack.vPmin ReadsBack.vRng ReadsBack.vRngf ReadsBack.rotC ReadsBack.rotCg
    ReadsBack.axisC ReadsBack.axisCg ReadsBack.gainC ReadsBack.rotH ReadsBack.rotHg ReadsBack.axisH ReadsBack.axisHg
    ReadsBack.gainH ReadsBack.rotL ReadsBack.axisL ReadsBack.rotFold ReadsBack.rotUnfold ReadsBack.mmShape
    ReadsBack.mmMov ReadsBack.mmExt ReadsBack.mmIns ReadsBack.mmLd ReadsBack.mmSt ReadsBack.mmMul ReadsBack.mmMadd
    ReadsBack.mmMsub ReadsBack.mmTrn ReadsBack.mmChol ReadsBack.mmLu ReadsBack.mmTrsl ReadsBack.mmTrsu
    ReadsBack.mmSolve ReadsBack.mmDet ReadsBack.tlShape ReadsBack.tlDesc ReadsBack.tlPrec ReadsBack.tlZero
    ReadsBack.tlAcc ReadsBack.tlLdp ReadsBack.tlStp ReadsBack.tlBcast ReadsBack.tlLdsc ReadsBack.tlMma
    ReadsBack.tlMmz ReadsBack.tlMms ReadsBack.tlExt ReadsBack.tlExtr ReadsBack.xsLd ReadsBack.xsSt ReadsBack.xsGth
    ReadsBack.xsSct ReadsBack.xsCp ReadsBack.xsWait ReadsBack.xsCnt ReadsBack.xsWm ReadsBack.xsRst ReadsBack.xsCsum
    ReadsBack.cbCfg ReadsBack.cbAcq ReadsBack.cbRel ReadsBack.cbStat ReadsBack.plDec ReadsBack.plIsect
    ReadsBack.plUnite ReadsBack.plBm25 ReadsBack.plFuse ReadsBack.plTopk ReadsBack.plPrm ReadsBack.plQry
    ReadsBack.plStat ReadsBack.plClr ReadsBack.rsvOpen ReadsBack.rsvClaim ReadsBack.rsvWave ReadsBack.rsvRetire
    ReadsBack.rsvStat ReadsBack.amoAdd ReadsBack.amoMin ReadsBack.amoMax ReadsBack.amoAnd ReadsBack.amoOr
    ReadsBack.amoXor ReadsBack.amoSwap ReadsBack.amoCas ReadsBack.amoFadd ReadsBack.gbInit ReadsBack.gbArr
    ReadsBack.gbWait ReadsBack.fenceRel ReadsBack.fenceAcq ReadsBack.fenceAr ReadsBack.detStep ReadsBack.detLog
    ReadsBack.claimEl ReadsBack.taskSpawn ReadsBack.taskJoin ReadsBack.taskNotify ReadsBack.vpRun ReadsBack.vpBr
    ReadsBack.vpStop ReadsBack.vpId ReadsBack.vpAny ReadsBack.sysRd ReadsBack.sysWr ReadsBack.sysSet ReadsBack.sysClr
    ReadsBack.sysCall ReadsBack.sysBrk ReadsBack.sysTinval ReadsBack.sysId ReadsBack.illegalInstruction
    ReadsBack.plWait ReadsBack.plAbort ReadsBack.rsvClose ReadsBack.taskExit ReadsBack.vpJoin ReadsBack.sysRet
    ReadsBack.sysWfi ReadsBack.sysIfence ReadsBack.sysHalt ReadsBack.xuGroupComplete ReadsBack.watermarkRelease
    ReadsBack.dauStallRelease ReadsBack.xsWaitComplete ReadsBack.streamStart ReadsBack.streamElementComplete
    ReadsBack.remoteArrival ReadsBack.cbAcqGrant ReadsBack.sloeCommandStart ReadsBack.sloeChunkComplete
    ReadsBack.sloeBatchComplete ReadsBack.plWaitComplete ReadsBack.tileFormExecute ReadsBack.tileKStepComplete
    ReadsBack.tileLineComplete ReadsBack.tlBcastMeet ReadsBack.rsvRendezvous ReadsBack.gbWaitRelease
    ReadsBack.fenceComplete ReadsBack.detStepResolve ReadsBack.taskSpawnPush ReadsBack.wfiWake ReadsBack.dispatch
    ReadsBack.gangPreempt ReadsBack.eventTake ReadsBack.qctlMap ReadsBack.qctlDrain ReadsBack.qctlAbort
    ReadsBack.queueDrainComplete ReadsBack.queueAbortComplete ReadsBack.hostDoorbell ReadsBack.hostEvtpost
    ReadsBack.hostMemRead ReadsBack.hostMemWrite ReadsBack.peerWriteIn ReadsBack.spaesSendEntry
    ReadsBack.spaesEntryComplete ReadsBack.spownWrite ReadsBack.controlInterval ReadsBack.currentLimitTrip
    ReadsBack.currentLimitRepeat ReadsBack.currantTokenVisit ReadsBack.equotaExhaust ReadsBack.quotaRefill
    ReadsBack.tygenCapSet ReadsBack.tygenReadback ReadsBack.clpQuiesce ReadsBack.clpGate ReadsBack.clpWake
    ReadsBack.clpOpen ReadsBack.clpQuiesced ReadsBack.clpGated ReadsBack.clpAwake ReadsBack.svcIsolate
    ReadsBack.svcRecalibrate ReadsBack.svcLoadMicrocode ReadsBack.svcReturn ReadsBack.svcDone ReadsBack.qrelRelease
    ReadsBack.qrelComplete ReadsBack.ckptTake ReadsBack.ckptTakeComplete ReadsBack.ckptRestore
    ReadsBack.ckptRestoreComplete ReadsBack.ckptInvalidate ReadsBack.dieReset ReadsBack.dieRelease
    ReadsBack.firmwareInitComplete ReadsBack.mainPowerLoss ReadsBack.auxPowerLoss ReadsBack.coldStart
    ReadsBack.patrolScrub ReadsBack.controlRegisterWrite ReadsBack.mainPowerReturn ReadsBack.firmwareCoreRestart
    ReadsBack.softError i

@[simp] theorem fieldsOf_word (f : Fields) : fieldsOf f.word = f := by
  obtain ⟨fn, rep, k, b, a, d, major⟩ := f
  obtain ⟨h1, h2, h3, h4⟩ := extract_parts fn rep k b
  have head (lo w n : Nat) (h : n = lo + 16) :
      (fn ++ rep ++ k ++ b ++ a ++ d ++ major).extractLsb' n w = (fn ++ rep ++ k ++ b).extractLsb' lo w := by
    rw [extract_high _ major (lo + 10) w n (by omega), extract_high _ d (lo + 5) w _ (by omega),
      extract_high _ a lo w _ (by omega)]
  refine (fields_mk_eq ..).mpr ⟨?_, ?_, ?_, ?_, ?_, ?_, (extract_lo _ major).symm⟩
  · exact ((head 10 6 26 rfl).trans h1).symm
  · exact ((head 8 2 24 rfl).trans h2).symm
  · exact ((head 5 3 21 rfl).trans h3).symm
  · exact ((head 0 5 16 rfl).trans h4).symm
  · show a = (fn ++ rep ++ k ++ b ++ a ++ d ++ major).extractLsb' 11 5
    rw [extract_high _ major 5 5 11 rfl, extract_high _ d 0 5 5 rfl, extract_lo]
  · show d = (fn ++ rep ++ k ++ b ++ a ++ d ++ major).extractLsb' 6 5
    rw [extract_high _ major 0 5 6 rfl, extract_lo]

@[simp] theorem word_fieldsOf (w : BitVec 32) : (fieldsOf w).word = w := by
  show (w.extractLsb' 26 6 ++ w.extractLsb' 24 2 ++ w.extractLsb' 21 3 ++ w.extractLsb' 16 5 ++ w.extractLsb' 11 5
    ++ w.extractLsb' 6 5 ++ w.extractLsb' 0 6 : BitVec 32) = w
  rw [extract_join w 24 2 6 26 rfl, extract_join w 21 3 8 24 rfl, extract_join w 16 5 11 21 rfl, extract_join w 11 5 16 16 rfl,
    extract_join w 6 5 21 11 rfl, extract_join w 0 6 26 6 rfl, extract_all]

/-- A word decodes to a form just where its fields name the form and pass its static checks (R62). -/
theorem decode_eq_ok (w : BitVec 32) (i : Instr) :
    decode w = .ok i ↔ ∃ m, formOf (fieldsOf w) = .ok m ∧ m.staticCause = none ∧ m.instr = i := by
  unfold decode
  cases formOf (fieldsOf w) with
  | error c => simp
  | ok m => cases hm : m.staticCause <;> simp [hm]

/-- Decoding is reading back the fields of a well-formed form. -/
theorem decode_eq_ok_iff (w : BitVec 32) (i : Instr) :
    decode w = .ok i ↔ i.wellFormed = true ∧ encodeFields i = some (fieldsOf w) := by
  rw [decode_eq_ok]
  constructor
  · rintro ⟨m, hm, hs, rfl⟩
    exact (exact_formOf _ m hm).mp hs
  · rintro ⟨hw, he⟩
    obtain ⟨m, hm, rfl⟩ := readsBack i hw _ he
    exact ⟨m, hm, (exact_formOf _ m hm).mpr ⟨hw, he⟩, rfl⟩

theorem isEvent_eq_false (i : Instr) (f : Fields) (h : encodeFields i = some f) : i.isEvent = false := by
  simp [Instr.isEvent, h]

theorem word32_of_fields (i : Instr) (f : Fields) (h : encodeFields i = some f) : i.word32 = f.word := by
  simp [Instr.word32, encode, h]

/-- Settles O57: the fields of a word and those of a form are the same data, so both directions are `decode_eq_ok_iff`. -/
theorem encodeDecode : Obligations.EncodeDecode := by
  unfold Obligations.EncodeDecode
  constructor
  · intro i hw hi
    obtain ⟨f, hf⟩ : ∃ f, encodeFields i = some f := by
      simpa [Instr.isEvent, Option.isSome_iff_exists] using hi
    rw [decode_eq_ok_iff, word32_of_fields i f hf, fieldsOf_word]
    exact ⟨hw, hf⟩
  · intro w i h
    obtain ⟨hw, hf⟩ := (decode_eq_ok_iff w i).mp h
    exact ⟨hw, isEvent_eq_false i _ hf, (word32_of_fields i _ hf).trans (word_fieldsOf w)⟩

/-- Settles O56: each word is decoded by evaluation. -/
theorem decodeWords : Obligations.DecodeWords := by
  unfold Obligations.DecodeWords
  repeat' constructor

end Sys2Proof.Proofs.Encoding
end

section
/-! PROOFS. What a step runs (R63 to R65, R131 to R135, R388): the word in hand, its issue, and the turn of a core that
has nothing before its next word. -/

namespace Sys2Proof.Proofs.Control

set_option Elab.async false

open Sys2Proof.Machine

/-! ### What a fetch leaves -/

theorem reached_core {s t : State} (h : onlyReached s t) : t.core = { s.core with tlb := t.core.tlb } := congrArg State.core h

theorem reached_regErr {s t : State} (h : onlyReached s t) : t.core.regErr = s.core.regErr := by rw [reached_core h]

theorem reached_mulPending {s t : State} (h : onlyReached s t) : t.mulPending = s.mulPending := by
  unfold State.mulPending
  rw [reached_core h]

/-- A fetch leaves the caches and the records of errors, as any read does. -/
theorem fetchWord_reached {s t : State} {va : Word} {w : BitVec 32} (h : fetchWord s va = .ok (w, t)) : onlyReached s t := by
  unfold fetchWord at h
  split at h
  · cases h
  split at h
  · cases h
  split at h
  · cases h
  rename_i x _
  dsimp only at h
  split at h
  · cases h
  split at h
  · cases h
  split at h
  · cases h
  split at h
  · cases h
  · cases h
    exact State.read_reached s x x.pa 4

/-- A fetch from plain memory that no error meets, of a core that has fetched nothing ahead. -/
theorem fetchWord_plain {s : State} {va : Word} {x : Xl} (hx : translate s s.pl .fetch va = .ok x) (hp : x.plain = true)
    (hs : s.foreignScratch x.pa = false) (hc : canonical va = true) (ha : va.toNat % 4 = 0) (hq : s.dev.quarantine = [])
    (hb : s.dev.badBytes = []) (hl : s.dev.hostLinkDown = false) (hi : s.core.ibuf = []) :
    fetchWord s va = .ok ((wordOfBytes (Memory.read s.mem x.pa 4)).setWidth 32, (s.correct x.pa 4).fill x) := by
  have h0 : fld va 0 2 = 0#2 := by
    apply BitVec.eq_of_toNat_eq
    simpa [fld] using ha
  have hd : s.dataFault .fetch x.pa 4 = none := by
    simp [State.dataFault, State.quarantined, eccFault, Device.quarantines, hq, hb, hl]
  have hw : s.wordBytes x va = Memory.read s.mem x.pa 4 := by
    simp [State.wordBytes, hi, State.readAt_plain s hp]
  have hdt : x.dt = false ∧ (regionOf x.pa == .control) = false := by
    simp [Xl.plain] at hp
    simp [hp]
  simp [fetchWord, hc, h0, hx, hs, hdt, hd, hw]

/-- A byte of a fetched word. -/
theorem byte_of_word (m : List Host.Cell) (a i : Nat) (hi : i < 4) :
    ((wordOfBytes (Memory.read m a 4)).setWidth 32).extractLsb' (8 * i) 8 = Memory.get m (a + i) := by
  rw [← byte_of_read m a 4 i (by omega) hi]
  apply BitVec.eq_of_getLsbD_eq
  intro j hj
  have h : 8 * i + j < 32 := by omega
  simp [h]

/-! ### The word in hand -/

theorem hand_vp {s : State} {p : Word} (hv : s.core.vp.live = true) (hp : leastPc s.core.vp.pcs = some p) :
    s.hand = fetched (fetchWord (s.onVp VpState.choose) p) := by
  simp [State.hand, hv, hp]

theorem hand_run {s : State} (hv : s.core.vp.live = false) (hb : s.core.blk.live = true) :
    s.hand = .word (rget s.core.blk.words (s.core.blk.blk.extractLsb' 7 5)) s := by
  simp [State.hand, hv, hb, fld]

theorem hand_pc {s : State} (hv : s.core.vp.live = false) (hb : s.core.blk.live = false) :
    s.hand = fetched (fetchWord s s.core.pc) := by
  simp [State.hand, hv, hb]

/-! ### The issue of a word -/

/-- A word that passes the checks of R62 has a form. -/
theorem formOf_of_wordCause {s : State} {w : BitVec 32} (h : s.wordCause w = none) : ∃ f, formOf (fieldsOf w) = .ok f := by
  unfold State.wordCause at h
  split at h
  · cases h
  · exact ⟨_, ‹_›⟩

/-- With no register in error, a form means what exec says. -/
theorem withErrors_clean {s : State} {i : Instr} {f : State → Out} (hs : s.core.regErr = [])
    (hu : ∀ u, f s = .next u → u.core.regErr = []) : s.withErrors i f = f s := by
  have hx : s.exitBad = false := by simp [State.exitBad, hs]
  unfold State.withErrors
  rw [hx]
  cases h : f s with
  | next u => simp [State.clearErr, hu u h]
  | fault m => rfl
  | refused m => rfl

theorem readsBad_clean {s : State} (i : Instr) (hs : s.core.regErr = []) : s.readsBad i = false := by
  simp [State.readsBad, hs]

theorem issue_ok {s : State} {w : BitVec 32} {f : Form} (hf : formOf (fieldsOf w) = .ok f) (hw : s.wordCause w = none)
    (hs : s.core.regErr = []) (hq : s.resumeSeq = s) (hu : ∀ u, exec f.instr s = .next u → u.core.regErr = []) :
    s.issue w = exec f.instr s := by
  unfold State.issue
  simp only [hw, hf, readsBad_clean f.instr hs, hq]
  exact withErrors_clean hs hu

theorem issue_illegal {s : State} {w : BitVec 32} (hw : s.wordCause w ≠ none) : s.issue w = exec (.illegalInstruction w) s := by
  unfold State.issue
  cases h : s.wordCause w with
  | none => exact absurd h hw
  | some c => rfl

/-! ### The turn of a core with nothing before its next word -/

theorem focus_self (s : State) : s.focus s.core.ref = s := by simp [State.focus]

/-- A core whose gang no pre-emption waits for stays. -/
theorem leaving_none {s : State} (h : ∀ g, s.myGang = some g → g.due = none) : s.leaving = none := by
  unfold State.leaving
  cases hg : s.myGang with
  | none => rfl
  | some g => simp [h g hg]

/-- With no multiply form under way, an event that pends is due. -/
theorem eventPends_of_due {s : State} (hm : s.mulPending = false) (he : s.eventDue = false) : s.eventPends = false := by
  simpa [State.eventDue, hm] using he

/-- Whether an event pends is read from the core alone where no pre-emption takes it away. -/
theorem eventPends_congr {s t : State} (hc : t.core = s.core) (hs : s.leaving = none) (ht : t.leaving = none) :
    t.eventPends = s.eventPends := by
  simp only [State.eventPends, hc, hs, ht]

theorem turn_quiet {s : State} (hs : s.startDue = none) (hl : s.leaving = none) (hp : s.eventPends = false)
    (hx : s.core.vec.xuq = []) : s.turn = s.takeWord := by
  simp [State.turn, hs, hl, State.eventDue, hp, State.drainXu, hx]

theorem takeWord_word {s t : State} {w : BitVec 32} (he : s.exitDue = false) (hh : s.hand = .word w t)
    (hm : t.mulPending = false) : s.takeWord = t.issue w := by
  simp [State.takeWord, he, hh, hm]

theorem takeWord_fault {s : State} {m : MemFault} (he : s.exitDue = false) (hh : s.hand = .fault m)
    (hm : s.mulPending = false) : s.takeWord = .next (s.enterTrap (m.trap 0)) := by
  simp [State.takeWord, he, hh, hm, Res.finish]

/-- The core may run: it runs, and is the firmware core or one of a cluster in RUN. -/
theorem mayRun_eq {s : State} (hr : s.core.run = .running)
    (hc : s.core.fw = true ∨ (s.clAt (clusterOf s.core.id)).clpstat.extractLsb' 0 3 = 0#3) : s.mayRun = true := by
  unfold State.mayRun Cluster.open
  rcases hc with h | h
  · simp [hr, h]
  · simp [hr, Cluster.state, fld, clRun, h]

/-- The dies run. -/
theorem held_eq {s : State} (h : s.dev.dierst.extractLsb' 0 2 = 0#2) : s.held = false := by
  have h0 := congrArg (fun x : BitVec 2 => x.getLsbD 0) h
  have h1 := congrArg (fun x : BitVec 2 => x.getLsbD 1) h
  simp at h0 h1
  simp [State.held, Device.hold, Device.inReset, h0, h1]


/-! ### Settling O55 -/

/-- The turn that the schedule gives the core in focus, of a state with nothing before the next word, is its next word. -/
theorem step_takeWord {s : State} {r : List Turn} (hsched : s.sched = .core s.core.ref :: r)
    (hdie : s.dev.dierst.extractLsb' 0 2 = 0#2) (hrun : s.core.run = .running)
    (hcl : s.core.fw = true ∨ (s.clAt (clusterOf s.core.id)).clpstat.extractLsb' 0 3 = 0#3)
    (hgang : ∀ g, s.myGang = some g → g.due = none) (hev : s.eventDue = false) (hstart : s.startDue = none)
    (hxu : s.core.vec.xuq = []) (hmul : s.mulPending = false) :
    step s = ({ s with sched := r } : State).takeWord := by
  have hfocus : ({ s with sched := r } : State).focus s.core.ref = { s with sched := r } := focus_self { s with sched := r }
  have hheld : ({ s with sched := r } : State).held = false := held_eq hdie
  have hmay : ({ s with sched := r } : State).mayRun = true := mayRun_eq hrun hcl
  have hleaving : ({ s with sched := r } : State).leaving = none := leaving_none hgang
  have hpends : ({ s with sched := r } : State).eventPends = false := by
    rw [eventPends_congr (s := s) (t := { s with sched := r }) rfl (leaving_none hgang) hleaving]
    exact eventPends_of_due hmul hev
  have hturn : ({ s with sched := r } : State).turn = ({ s with sched := r } : State).takeWord :=
    turn_quiet hstart hleaving hpends hxu
  unfold step State.move
  rw [hsched]
  simp [State.scheduled, hfocus, hheld, hmay, hturn]

/-- Numbers stay as they are where no trap has stopped a form within its writes, also past a fetch. -/
theorem resumeSeq_reached {s t : State} (h : onlyReached s t)
    (hq : s.core.seqHeld = [] ∨ (s.core.vec.pix.getLsbD 31 = false ∧ s.core.tile.tprog.getLsbD 63 = false)) :
    t.resumeSeq = t := by
  apply State.resumeSeq_fresh
  rw [reached_core h]
  exact hq

/-- The word in hand is executed where it passes the checks of R62, and otherwise traps. -/
theorem takeWord_runs {s t : State} {w : BitVec 32} {f : Form} {o : Out} (ho : o = s.takeWord) (he : s.exitDue = false)
    (hh : s.hand = .word w t) (hm : t.mulPending = false) (hq : t.resumeSeq = t) :
    (formOf (fieldsOf w) = .ok f → t.wordCause w = none → t.core.regErr = [] →
      (∀ u, exec f.instr t = .next u → u.core.regErr = []) → o = exec f.instr t)
    ∧ (t.wordCause w ≠ none → o = exec (.illegalInstruction w) t) := by
  rw [ho, takeWord_word he hh hm]
  exact ⟨fun hf hw hs hu => issue_ok hf hw hs hq hu, issue_illegal⟩

/-- So is one that a fetch has brought. -/
theorem fetched_runs {s u t : State} {w : BitVec 32} {f : Form} {o : Out} {p : Word} (ho : o = s.takeWord)
    (he : s.exitDue = false) (hh : s.hand = fetched (fetchWord u p)) (hf : fetchWord u p = .ok (w, t))
    (hm : u.mulPending = false)
    (hq : u.core.seqHeld = [] ∨ (u.core.vec.pix.getLsbD 31 = false ∧ u.core.tile.tprog.getLsbD 63 = false)) :
    (formOf (fieldsOf w) = .ok f → t.wordCause w = none → t.core.regErr = [] →
      (∀ u, exec f.instr t = .next u → u.core.regErr = []) → o = exec f.instr t)
    ∧ (t.wordCause w ≠ none → o = exec (.illegalInstruction w) t) := by
  have hr := fetchWord_reached hf
  rw [hf] at hh
  exact takeWord_runs ho he hh ((reached_mulPending hr).trans hm) (resumeSeq_reached hr hq)

/-- Settles O55: the turn of the core is its next word (`step_takeWord`), whose source is the pc, the block buffer or the
least PC of the block (`hand_pc`, `hand_run`, `hand_vp`). -/
theorem stepRunsDecoded : Obligations.StepRunsDecoded := by
  intro s t w f r s' c quiet hsched hdie hrun hcl hquiet runs
  obtain ⟨hunread, hgang, hev, hstart, hxu, hmul, hq⟩ := hquiet
  have hstep : step s = s'.takeWord := step_takeWord hsched hdie hrun hcl hgang hev hstart hxu hmul
  have hexit : s'.exitDue = false := by
    show (c.blk.live && c.blk.unread) = false
    cases h : c.blk.live with
    | false => rfl
    | true => exact hunread h
  refine ⟨?_, ?_, ?_, ?_, ?_⟩
  · intro hv hb hf
    exact fetched_runs hstep hexit (hand_pc (s := s') hv hb) hf hmul hq
  · intro hv hb m hf
    have hh : s'.hand = .fault m := (hand_pc (s := s') hv hb).trans (congrArg fetched hf)
    rw [hstep, takeWord_fault hexit hh hmul]
  · intro hv hb hw ht
    have hh : s'.hand = .word w t := by
      rw [hw, ht]
      exact hand_run (s := s') hv hb
    exact takeWord_runs hstep hexit hh (by rw [ht]; exact hmul) (by rw [ht]; exact State.resumeSeq_fresh hq)
  · intro p hv hp hf
    exact fetched_runs hstep hexit (hand_vp (s := s') hv hp) hf hmul hq
  · intro x hx hpl hs hc ha hqu hb hl hi
    refine ⟨_, fetchWord_plain (s := s') hx hpl hs hc ha hqu hb hl hi, ?_⟩
    intro i hi4
    exact byte_of_word s.mem x.pa i hi4

end Sys2Proof.Proofs.Control
end

section
/-! PROOFS. Vector arithmetic (R50, R199 to R201, R211): what an element-wise form leaves, the replicated operand, and the
forms of major 0x18. -/

namespace Sys2Proof.Proofs.Vector

set_option Elab.async false

open Sys2Proof.Machine

/-! ### What an element-wise form leaves (R185, R188, R189, R198, R402) -/

/-- An element takes new data; the register's type and the rest of it stay. -/
theorem putElem_dataOnly (s : State) (o : VOp) (e v j : Nat) (hp : (o.place e).1 < 32) (hj : j < 32) :
    (s.putElem o e v).physReg j = { s.physReg j with data := ((s.putElem o e v).physReg j).data } := by
  rw [State.physReg_putElem s o e v j hp hj]
  split <;> rfl

theorem putElems_dataOnly (s : State) {o : VOp} (h : o.ok) (l : List (Nat × Nat)) (hc : ∀ x ∈ l, x.1 < o.cap) {j : Nat} (hj : j < 32) :
    (s.putElems o l).physReg j = { s.physReg j with data := ((s.putElems o l).physReg j).data } := by
  induction l generalizing s with
  | nil => rfl
  | cons x r ih =>
    have hx := putElem_dataOnly s o x.1 x.2 j (VOp.place_lt h (hc x (List.mem_cons_self ..))).1 hj
    have hr := ih (s.putElem o x.1 x.2) (fun y hy => hc y (List.mem_cons_of_mem _ hy))
    rw [hx] at hr
    exact hr

/-- A flag is set in the union where some member has it. -/
theorem getLsbD_orFlags (l : List Flags) (i : Nat) : (orFlags l).getLsbD i = l.any (fun x => x.getLsbD i) := by
  induction l with
  | nil => simp [orFlags]
  | cons x r ih => simp [orFlags, ih]

/-- The flags of the results are those of the active elements: inactive ones raise none. -/
theorem results_flags (s : State) (k : BitVec 3) (z : Bool) (g : Nat) (f : Nat → Nat × Flags) (i : Nat) :
    (orFlags ((s.results k z g f).map (fun x => x.2.2))).getLsbD i =
      (List.range s.core.vec.n).any (fun e => decide (16 * g ≤ e) && s.act k e && (f e).2.getLsbD i) := by
  rw [getLsbD_orFlags, Bool.eq_iff_iff, List.any_map, List.any_eq_true, List.any_eq_true]
  constructor
  · rintro ⟨x, hx, hi⟩
    obtain ⟨e, he, hxe⟩ := List.mem_filterMap.mp hx
    obtain ⟨hge, hen⟩ := List.mem_range'_1.mp he
    refine ⟨e, List.mem_range.mpr (by omega), ?_⟩
    by_cases ha : s.act k e = true
    · rw [if_pos ha] at hxe
      cases hxe
      simpa [hge, ha] using hi
    · rw [if_neg ha] at hxe
      split at hxe
      · cases hxe
        simp at hi
      · cases hxe
  · rintro ⟨e, he, h⟩
    simp only [Bool.and_eq_true, decide_eq_true_eq] at h
    obtain ⟨⟨hge, ha⟩, hi⟩ := h
    have hen := List.mem_range.mp he
    exact ⟨(e, f e), List.mem_filterMap.mpr ⟨e, List.mem_range'_1.mpr ⟨hge, by omega⟩, by rw [if_pos ha]⟩, hi⟩

/-- The registers, VSTAT and PIX that an element-wise form leaves. -/
theorem elementwise_eq (s : State) (d : BitVec 5) (k : BitVec 3) (z : Bool) (f : Nat → Nat × Flags) :
    ∃ v, s.elementwise d k z f = s.onVec (fun c => { c with
      v := v
      pix := putFld c.pix 31 (0#1)
      vstat := c.vstat ||| (orFlags ((s.results k z (s.startGroup clsV d) f).map (fun x => x.2.2))).setWidth 64 }) := by
  obtain ⟨v, hv⟩ := State.putElems_onVec s.clearPix (s.vop d)
    ((s.results k z (s.startGroup clsV d) f).map (fun x => (x.1, x.2.1)))
  exact ⟨v, by unfold State.elementwise State.writeResults; rw [hv]; rfl⟩

/-- PIX.V is bit 31. -/
theorem clear_bit31 (x : Word) : putFld x 31 (0#1) = x &&& ~~~ 0x80000000 := by
  have h : (BitVec.allOnes 1).setWidth 64 <<< 31 = 0x80000000#64 := by decide
  simp only [putFld, h]
  simp

theorem elementwise_results (s : State) (d : BitVec 5) (k : BitVec 3) (z : Bool) (f : Nat → Nat × Flags)
    (hn : Claims.fits s d) : Claims.elementResults s (s.elementwise d k z f) d k z (s.startGroup clsV d) f := by
  obtain ⟨v, hv⟩ := elementwise_eq s d k z f
  refine ⟨fun e he => State.elementwise_vbits s d k z f hn he, fun j hj hout => State.elementwise_physReg s d k z f hn hj hout,
    fun j hj => ?_, fun i hi => ?_, ?_, ?_⟩
  · obtain ⟨_, hlt⟩ := s.results_nodup k z (s.startGroup clsV d) f
    exact putElems_dataOnly s.clearPix (s.vop_ok d) _ (fun x hx => Nat.lt_of_lt_of_le (hlt x hx) hn) hj
  · rw [hv, ← results_flags s k z _ f i]
    simp [hi]
  · rw [hv]
    exact clear_bit31 _
  · rw [hv]
    rfl

/-! ### The replicated operand (R50, R183, R185) -/

/-- Numbering a list from k on, the entry of number k + i is element i. -/
theorem find_zipIdx (l : List Nat) (k i : Nat) :
    ((l.zipIdx k).map (fun x => (x.2, x.1))).find? (fun x => x.1 == k + i) = l[i]?.map (fun v => (k + i, v)) := by
  induction l generalizing k i with
  | nil => rfl
  | cons a r ih =>
    cases i with
    | zero => simp
    | succ i =>
      have h := ih (k + 1) i
      rw [Nat.add_assoc, Nat.add_comm 1 i] at h
      simpa using h

/-- Elements from 0 on are written from a list: what element i holds after. -/
theorem vbits_putList (s : State) {o : VOp} (h : o.ok) (l : List Nat) (hl : l.length ≤ o.cap) {i : Nat} (hi : i < o.cap) :
    (s.putElems o (l.zipIdx.map (fun x => (x.2, x.1)))).vbits o i = l[i]?.getD (s.vbits o i) % 2 ^ o.tag.width := by
  have hfst : (l.zipIdx.map (fun x => (x.2, x.1))).map (fun x => x.1) = List.range' 0 l.length := by
    simp [List.map_map, Function.comp_def]
  have hmem : ∀ x ∈ l.zipIdx.map (fun x => (x.2, x.1)), x.1 < o.cap := by
    intro x hx
    have : x.1 ∈ List.range' 0 l.length := hfst ▸ List.mem_map_of_mem hx
    have := List.mem_range'_1.mp this
    omega
  have hf := find_zipIdx l 0 i
  rw [Nat.zero_add] at hf
  rw [State.vbits_putElems s h _ (hfst ▸ List.nodup_range' ..) hmem hi, hf]
  cases l[i]? with
  | none => exact (Nat.mod_mod ..).symm
  | some v => rfl

/-- An operand spans some register. -/
theorem regs_pos (s : State) (r : BitVec 5) : 1 ≤ (s.vop r).regs := by
  unfold State.vop
  dsimp only
  split
  · rcases grpSize_cases (s.vreg r).grp with h | h | h <;> omega
  · exact Nat.le_refl 1

/-- Every operand holds at least 16 elements. -/
theorem cap_ge (s : State) (r : BitVec 5) : 16 ≤ (s.vop r).cap := by
  have hm : 256 ≤ (s.vop r).mvl32 := by
    show 256 ≤ mvl32Of s.core.vec.vprof
    unfold mvl32Of
    split <;> decide
  have hw := Tag.width_le (s.vop r).tag
  have hr := regs_pos s r
  unfold VOp.cap
  split
  · rw [Nat.le_div_iff_mul_le (by omega)]
    omega
  · calc 16 ≤ 1 * 256 := by decide
      _ ≤ (s.vop r).regs * (s.vop r).mvl32 := Nat.mul_le_mul hr hm

/-- Replication reads an element below 16. -/
theorem repIx_lt (r : BitVec 2) (e : Nat) (hr : r ≠ 0) : repIx r e < 16 := by
  have h : r = 1 ∨ r = 2 ∨ r = 3 := by revert r; decide
  rcases h with rfl | rfl | rfl
  · exact Nat.zero_lt_succ 15
  · show e % 4 < 16
    omega
  · show e % 16 < 16
    omega

/-- The bits that an element reads from v[b]: the staged copy where the form overwrites what it replicates. -/
theorem withRep_vbits (s : State) (d b : BitVec 5) (r : BitVec 2) (e : Nat) :
    (s.withRep d b r).vbits (s.vop b) (repIx r e) = Claims.repBits s d b r e := by
  have hself : s.vbits (s.vop b) (repIx r e) % 2 ^ (s.vop b).tag.width = s.vbits (s.vop b) (repIx r e) := Nat.mod_mod ..
  by_cases hdb : d ≠ b ∨ r = 0
  · have hc : ¬ (d = b ∧ r ≠ 0) := fun h => hdb.elim (fun hne => hne h.1) h.2
    have hnil : s.repIndex d b r = [] := if_pos hdb
    unfold Claims.repBits
    dsimp only
    rw [if_neg (fun h => hc ⟨h.1, h.2.1⟩)]
    simp [State.withRep, hnil]
  · have hd : d = b ∧ r ≠ 0 := ⟨Decidable.byContradiction (fun h => hdb (.inl h)), fun h => hdb (.inr h)⟩
    obtain ⟨rfl, hr⟩ := hd
    have hi := repIx_lt r e hr
    have hcap := cap_ge s d
    have hstaged : (s.withRep d d r).vbits (s.vop d) (repIx r e)
        = (s.repIndex d d r)[repIx r e]?.getD (s.vbits (s.vop d) (repIx r e)) % 2 ^ (s.vop d).tag.width := by
      have hlen : (s.repIndex d d r).length ≤ 16 := by
        unfold State.repIndex
        split
        · exact Nat.zero_le 16
        · split
          · exact List.length_take_le 16 _
          · exact Nat.le_of_eq (by rw [List.length_map, List.length_range])
      unfold State.withRep
      cases hl : (s.repIndex d d r) with
      | nil => simp [hself]
      | cons x l =>
        have := vbits_putList s (s.vop_ok d) (s.repIndex d d r) (by omega) (i := repIx r e) (by omega)
        simpa [hl] using this
    rw [hstaged]
    have hread (i : Nat) (hi : i < 16) :
        ((List.range 16).map (s.vbits (s.vop d)))[i]?.getD (s.vbits (s.vop d) i) = s.vbits (s.vop d) i := by
      simp [hi]
    unfold State.repIndex Claims.repBits
    dsimp only
    rw [if_neg hdb]
    by_cases hp : s.pixAt clsV d = true
    · have hcond : d = d ∧ r ≠ 0 ∧ s.core.vec.pix.getLsbD 31 = true ∧ pixCls s.core.vec.pix = clsV ∧ pixReg s.core.vec.pix = d := by
        refine ⟨rfl, hr, ?_⟩
        simpa [State.pixAt, pixV, and_assoc] using hp
      rw [if_pos hcond, hp]
      cases hrep : s.core.vec.rep with
      | nil => simp [hi]
      | cons x l => rw [List.isEmpty_cons, if_pos (by decide), List.getElem?_take_of_lt hi]
    · rw [if_neg (by simp [hp]), hread _ hi, hself, if_neg]
      rintro ⟨_, _, hv, hc, hg⟩
      exact hp (by simp [State.pixAt, pixV, hv, hc, hg])

/-- Outside e2m1x a value is that of its bits. -/
theorem vval_eq {s : State} {o : VOp} (ht : o.tag ≠ .e2m1x) (e : Nat) : s.vval o e = o.tag.widen o.frac (s.vbits o e) :=
  if_neg ht

theorem withRep_vval (s : State) (d b : BitVec 5) (r : BitVec 2) (e : Nat) (ht : (s.vop b).tag ≠ .e2m1x) :
    (s.withRep d b r).vval (s.vop b) (repIx r e) = Claims.repVal s d b r e := by
  rw [vval_eq ht, withRep_vbits]
  exact (if_neg ht).symm

/-! ### The checks at issue (R199 to R201) -/

theorem differs_false {t o : VOp} (ht : o.tag = t.tag) (hf : o.frac = t.frac) : t.differs o = false := by
  simp [VOp.differs, ht, hf]

/-- Operands of an admitted type within capacity pass. -/
theorem tagTrap_none {s : State} {cls : Tag → Bool} {t : VOp} {same all : List VOp} (hc : cls t.tag = true)
    (hs : ∀ o ∈ same, o.tag = t.tag ∧ o.frac = t.frac) (ha : ∀ o ∈ all, s.core.vec.n ≤ o.cap) :
    s.tagTrap cls t same all = none := by
  have h1 : same.any t.differs = false := by
    rw [List.any_eq_false]
    intro o ho
    simp [differs_false (hs o ho).1 (hs o ho).2]
  have h2 : s.overCap all = false := by
    rw [State.overCap, List.any_eq_false]
    intro o ho
    simpa using ha o ho
  simp [State.tagTrap, hc, h1, h2, firstTrap]

/-! ### Settling O10 -/

section

variable {s : State} {d a b : BitVec 5} (hda : Claims.sameType s d a) (hd : Claims.fits s d) (ha : Claims.fits s a)

include hda hd ha

/-- A form of one source on operands of one admitted type within capacity. -/
theorem arith1_results {cls : Tag → Bool} (hc : cls (s.vop a).tag = true) (op : XVal → XVal) (k : BitVec 3) (z : Bool) :
    ∃ u, (arith1 cls op d a k z s).finish = .next u.next
      ∧ Claims.elementResults s u d k z (s.startGroup clsV d) (fun e =>
        (s.vop a).tag.roundRne (s.vop a).frac (op (s.vval (s.vop a) e))) := by
  have htrap : s.tagTrap cls (s.vop a) [s.vop d] [s.vop a, s.vop d] = none :=
    tagTrap_none hc (fun o ho => by obtain rfl := List.mem_singleton.mp ho; exact hda) (by simpa using ⟨ha, hd⟩)
  refine ⟨_, ?_, elementwise_results s d k z _ hd⟩
  simp only [arith1, htrap]
  rfl

/-- A form of three operands. -/
theorem arith3_results (hba : Claims.sameType s b a) (hb : Claims.fits s b) {cls : Tag → Bool}
    (hc : cls (s.vop a).tag = true) (ht : (s.vop a).tag ≠ .e2m1x) (op : XVal → XVal → XVal → XVal) (k : BitVec 3) (z : Bool)
    (r : BitVec 2) :
    ∃ u, (arith3 cls op d a b k z r s).finish = .next u.next
      ∧ Claims.elementResults s u d k z (s.startGroup clsV d) (fun e => (s.vop a).tag.roundRne (s.vop a).frac
        (op (s.vval (s.vop a) e) (Claims.repVal s d b r e) (s.vval (s.vop d) e))) := by
  have htrap : s.tagTrap cls (s.vop a) [s.vop b, s.vop d] [s.vop a, s.vop b, s.vop d] = none :=
    tagTrap_none hc (by simpa using ⟨hba, hda⟩) (by simpa using ⟨ha, hb, hd⟩)
  have hrep : (fun e => (s.withRep d b r).vval (s.vop b) (repIx r e)) = Claims.repVal s d b r :=
    funext fun e => withRep_vval s d b r e (hba.1 ▸ ht)
  refine ⟨_, ?_, elementwise_results s d k z _ hd⟩
  simp only [arith3, htrap, ← hrep]
  rfl

end

/-- The classes of R199 as the arithmetic forms name them. -/
theorem clsAll_of_arithTag {t : Tag} (h : Claims.arithTag t) : clsAll t = true := by simpa [clsAll, Claims.arithTag] using h

theorem clsNoAng_of_linearTag {t : Tag} (h : Claims.linearTag t) : clsNoAng t = true := by
  unfold Claims.linearTag at h
  cases t <;> simp_all [clsNoAng, Tag.isAng]

theorem isInt_ne_e2m1x {t : Tag} (h : t.isInt = true) : t ≠ .e2m1x := by
  rintro rfl
  exact absurd h (by decide)

/-- Settles O10: every form is `arith3` or `arith1` of its exact operation, on a class that contains the tags admitted. -/
theorem vectorArithmetic : Obligations.VectorArithmetic := by
  intro s d a b k z r t hda hd ha
  refine ⟨fun hba hb f hf ht => ?_, fun ht => ?_, fun ht => ?_⟩
  · have all (h : Claims.arithTag t.tag) (op) := arith3_results hda hd ha hba hb (clsAll_of_arithTag h) h op k z r
    have linear (h : Claims.linearTag t.tag) (op) := arith3_results hda hd ha hba hb (clsNoAng_of_linearTag h) h.1 op k z r
    have int (h : t.tag.isInt = true) (op) := arith3_results hda hd ha hba hb (cls := clsInt) h (isInt_ne_e2m1x h) op k z r
    simp only [Claims.arith3, List.mem_cons, List.not_mem_nil, or_false] at hf
    obtain rfl | rfl | rfl | rfl | rfl | rfl | rfl | rfl | rfl := hf
    · exact all ht _
    · exact all ht _
    · exact linear ht _
    · exact int ht _
    · exact linear ht _
    · exact linear ht _
    · exact linear ht _
    · exact linear ht _
    · exact linear ht _
  · exact arith1_results hda hd ha (clsNoAng_of_linearTag ht) XVal.abs k z
  · exact arith1_results hda hd ha (clsAll_of_arithTag ht) XVal.neg k z

end Sys2Proof.Proofs.Vector
end

section
/-! PROOFS. Words that trap, the ends of waits, events, the system forms, one element group alone (R61 to R63, R137, R184,
R401, R404, R416 to R418). -/

namespace Sys2Proof.Proofs.System

set_option Elab.async false

open Sys2Proof.Machine Sys2Proof.Proofs.Control

/-! ### Words that fail a check (R61 to R63) -/

/-- Only the word 0 has all its fields zero. -/
theorem fieldsOf_eq_zero {w : BitVec 32} : fieldsOf w = Fields.zero ↔ w = 0 := by
  constructor
  · intro h
    rw [← Encoding.word_fieldsOf w, h]
    rfl
  · rintro rfl
    rfl

theorem formOf_zero : formOf (fieldsOf 0) = .error 0x01 := rfl

/-- The majors that R59 leaves free. -/
theorem formOf_reserved {w : BitVec 32} (hw : w ≠ 0)
    (hm : (w.extractLsb' 0 6).toNat ∈ [0x00, 0x17, 0x22, 0x23, 0x33, 0x3E]) : formOf (fieldsOf w) = .error 0x02 := by
  have h0 : (fieldsOf w == Fields.zero) = false := beq_eq_false_iff_ne.mpr (fun h => hw (fieldsOf_eq_zero.mp h))
  have hm' : (fieldsOf w).major.toNat ∈ [0x00, 0x17, 0x22, 0x23, 0x33, 0x3E] := hm
  simp only [List.mem_cons, List.not_mem_nil, or_false] at hm'
  unfold formOf
  obtain h | h | h | h | h | h := hm' <;> rw [h]
  · simp [h0]
  all_goals rfl

theorem formOf_3F {w : BitVec 32} (hm : (w.extractLsb' 0 6).toNat = 0x3F) : formOf (fieldsOf w) = .error 0x03 := by
  have hm' : (fieldsOf w).major.toNat = 0x3F := hm
  unfold formOf
  rw [hm']
  rfl

/-- The checks of a word that names a form, in their order (R62 steps 3 to 9). -/
theorem wordCause_form {s : State} {w : BitVec 32} {f : Form} (hf : formOf (fieldsOf w) = .ok f) :
    s.wordCause w = if s.core.fw && !f.fw then some 0x0F else (needCause f.need s.pl).or (f.staticCause.or
      (if s.core.vp.live && !vpWordOk w f.instr then some 0x0E else none)) := by
  unfold State.wordCause
  simp only [hf]
  cases needCause f.need s.pl <;> cases f.staticCause <;> rfl

theorem wordCause_error {s : State} {w : BitVec 32} {c : Cause} (h : formOf (fieldsOf w) = .error c) : s.wordCause w = some c := by
  unfold State.wordCause
  rw [h]

/-- A word may stand in a VP block by its major (R387). -/
theorem vpWordOk_iff (w : BitVec 32) (i : Instr) :
    vpWordOk w i = true ↔ (0x10 ≤ (w.extractLsb' 0 6).toNat ∧ (w.extractLsb' 0 6).toNat ≤ 0x2B ∨ (w.extractLsb' 0 6).toNat = 0x37
      ∨ (w.extractLsb' 0 6).toNat = 0x3B) ∧ ¬ ∃ a k, i = .vpRun a k := by
  unfold vpWordOk vpMajorBad
  split
  · simp
  · rename_i h
    have h' : ¬ ∃ a k, i = .vpRun a k := by
      rintro ⟨a, k, hi⟩
      exact h a k hi
    unfold fld
    simp [or_assoc, h', -BitVec.extractLsb'_toNat]

theorem illegalWords : Claims.illegalWords := by
  intro s w f
  refine ⟨fun c hc => ?_, fun h => ?_, fun h hm => wordCause_error (formOf_reserved h hm), fun hm => wordCause_error (formOf_3F hm),
    fun hf => ⟨fun hfw hff => ?_, fun hadm => ?_⟩⟩
  · show execIllegalInstruction w s = _
    unfold execIllegalInstruction
    rw [hc]
    rfl
  · rw [h]
    exact wordCause_error formOf_zero
  · simp [wordCause_form hf, hfw, hff]
  · have hc : s.wordCause w = (needCause f.need s.pl).or (f.staticCause.or
        (if s.core.vp.live && !vpWordOk w f.instr then some 0x0E else none)) := by
      rw [wordCause_form hf, if_neg]
      rcases hadm with h | h <;> simp [h]
    refine ⟨fun hn hp => ?_, fun hn hp => ?_, fun hn c hs => ?_, fun hn hs hv => ?_, fun hn hs hv => ?_⟩
    · simp [hc, hn, hp, needCause]
    · simp [hc, hn, hp, needCause]
    · simp [hc, hn, hs, needCause]
    · simp [hc, hn, hs, hv, needCause]
    · have hc' : s.wordCause w = if vpWordOk w f.instr then none else some 0x0E := by
        rw [hc, hn, hs, hv]
        cases vpWordOk w f.instr <;> rfl
      dsimp only
      rw [hc', ← vpWordOk_iff]
      cases vpWordOk w f.instr <;> simp

/-! ### The ends of waits (R137, R401) -/

theorem reissue_getD (i : Instr) (s : State) : (reissue i s).getD (exec i s) = exec i s := by
  cases i <;> rfl

/-- A form issued again is the form itself. -/
theorem reissue_eq {i : Instr} {s : State} {o : Out} (h : reissue i s = some o) : o = exec i s := by
  rw [← reissue_getD i s, h]
  rfl

/-- The core that the event names has word x in hand, fetched in state t and of form f, and nothing goes before it. -/
structure AtWord (s t : State) (x : BitVec 32) (f : Form) : Prop where
  mayRun : (s.focus s.ev.c).mayRun = true
  interrupted : (s.focus s.ev.c).interrupted = false
  exitDue : (s.focus s.ev.c).exitDue = false
  xuq : (s.focus s.ev.c).core.vec.xuq = []
  hand : (s.focus s.ev.c).hand = .word x t
  mulPending : t.mulPending = false
  regErr : t.core.regErr = []
  form : formOf (fieldsOf x) = .ok f

theorem atWord_pc {s t : State} {x : BitVec 32} {f : Form} (hrun : (s.focus s.ev.c).core.run = .running)
    (hcl : (s.focus s.ev.c).core.fw = true
      ∨ ((s.focus s.ev.c).clAt (clusterOf (s.focus s.ev.c).core.id)).clpstat.extractLsb' 0 3 = 0#3)
    (hv : (s.focus s.ev.c).core.vp.live = false) (hb : (s.focus s.ev.c).core.blk.live = false)
    (hi : (s.focus s.ev.c).interrupted = false) (hx : (s.focus s.ev.c).core.vec.xuq = []) (hr : t.core.regErr = [])
    (hf : fetchWord (s.focus s.ev.c) (s.focus s.ev.c).core.pc = .ok (x, t)) (hm : t.mulPending = false)
    (hform : formOf (fieldsOf x) = .ok f) : AtWord s t x f where
  mayRun := mayRun_eq hrun hcl
  interrupted := hi
  exitDue := by simp [State.exitDue, hb]
  xuq := hx
  hand := (hand_pc hv hb).trans (congrArg fetched hf)
  mulPending := hm
  regErr := hr
  form := hform

/-- With no register in error, a form that may be issued again means what exec says. -/
theorem reissueForm_clean {i : Instr} {t v : State} (hre : reissue i t ≠ none) (ht : t.core.regErr = [])
    (he : exec i t = .next v) (hv : v.core.regErr = []) : reissueForm i t = some (.next v) := by
  obtain ⟨o, ho⟩ := Option.ne_none_iff_exists'.mp hre
  have hf : (reissue i t).getD (.next t) = .next v := by
    rw [ho, ← he]
    exact reissue_eq ho
  have hw : t.withErrors i (fun t => (reissue i t).getD (.next t)) = .next v := by
    rw [withErrors_clean ht, hf]
    intro u hu
    rw [hf] at hu
    cases hu
    exact hv
  simp [reissueForm, ho, readsBad_clean i ht, hw]

/-- The end of a wait: the form that stands there goes on. -/
theorem resume_word {s t v : State} {x : BitVec 32} {f : Form} (h : AtWord s t x f) {w : Wait} (name : String)
    (hw : (s.focus s.ev.c).core.wait = some w) (hre : reissue f.instr t ≠ none) (he : exec f.instr t = .next v)
    (hv : v.core.regErr = []) (hmove : v.core.wait ≠ some w) : s.resume w name = .next v := by
  have hstand : v.core.sameStand (s.focus s.ev.c).core = false := by
    simp [Core.sameStand, hw, hmove]
  have hword : reissueWord x t = some (.next v) := by
    simp [reissueWord, h.form, reissueForm_clean hre h.regErr he hv]
  simp [State.resume, hw, h.mayRun, h.interrupted, h.exitDue, h.hand, h.mulPending, hword, hstand]

/-- At a wait, XU_GROUP_COMPLETE is its end. -/
theorem xuGroupComplete_waits {s t : State} {x : BitVec 32} {f : Form} (h : AtWord s t x f)
    (hw : (s.focus s.ev.c).core.wait.isSome = true) : execXuGroupComplete s = s.resume .xuGroup "XU_GROUP_COMPLETE" := by
  simp [execXuGroupComplete, h.mayRun, h.interrupted, h.xuq, hw]

theorem waitEnds : Claims.waitEnds := by
  refine ⟨fun i s o h => reissue_eq h, ?_⟩
  intro s t v x f u hrun hcl hvp hblk hint hxu hreg hf hm hform he hwait hv hre e hmem hw
  have ht : t.core.regErr = [] := (reached_regErr (fetchWord_reached hf)).trans hreg
  have h : AtWord s t x f := atWord_pc hrun hcl hvp hblk hint hxu ht hf hm hform
  have resumes (w : Wait) (name : String) (hw : (s.focus s.ev.c).core.wait = some w) : s.resume w name = .next v :=
    resume_word h name hw hre he hv (by rw [← hw]; exact hwait)
  simp only [List.mem_cons, List.not_mem_nil, or_false] at hmem
  obtain rfl | rfl | rfl | rfl | rfl | rfl | rfl | rfl | rfl := hmem
  · exact (xuGroupComplete_waits h (Option.isSome_iff_exists.mpr ⟨_, hw⟩)).trans (resumes _ _ hw)
  · exact resumes _ _ hw
  · exact resumes _ _ hw
  · exact resumes _ _ hw
  · exact resumes _ _ hw
  · exact resumes _ _ hw
  · exact resumes _ _ hw
  · exact resumes _ _ hw
  · exact resumes _ _ hw

/-! ### Events between two words (R404, R405, R416) -/

/-- An event is pending where one of the five is set and enabled. -/
theorem eventPending_iff (r : SysRegs) :
    r.eventPending = true ↔ ∃ i < 5, r.evt.getLsbD i = true ∧ r.evten.getLsbD i = true := by
  unfold SysRegs.eventPending
  rw [bne_iff_ne, ne_eq, BitVec.eq_of_getLsbD_eq_iff]
  simp [fld]

theorem admits_iff (r : SysRegs) : r.admits = true ↔ r.pl = plUser ∨ (r.pl = plSup ∧ r.aie = true) := by
  simp [SysRegs.admits]

theorem preemptDue_iff (s : State) : s.preemptDue = true ↔ ∃ g, s.myGang = some g ∧ g.due ≠ none := by
  unfold State.preemptDue
  cases s.myGang <;> simp [Option.isSome_iff_ne_none]

/-- A gang leaves that is due and has a slot to go into, or needs none (R405). -/
theorem leaving_eq_none {s : State}
    (h : ¬ ∃ g, s.myGang = some g ∧ g.due ≠ none ∧ (g.due = some .discard ∨ s.freeSlotOf g.ctx ≠ none)) : s.leaving = none := by
  unfold State.leaving
  cases hg : s.myGang with
  | none => rfl
  | some g =>
    have hn : ¬ (g.due.isSome && s.mayLeave g) = true := by
      intro hc
      apply h
      refine ⟨g, hg, ?_⟩
      simpa [State.mayLeave, Option.isSome_iff_ne_none] using hc
    simpa using hn

/-- TVAL of an event (R404). -/
theorem eventVal_eq (r : SysRegs) : r.eventVal =
    BitVec.ofNat 64 ((r.evt.extractLsb' 0 5).toNat + (r.evten.extractLsb' 0 5).toNat * 2 ^ 32) := by
  have h1 := (r.evt.extractLsb' 0 5).isLt
  have h2 := (r.evten.extractLsb' 0 5).isLt
  apply BitVec.eq_of_toNat_eq
  unfold SysRegs.eventVal fld
  generalize r.evt.extractLsb' 0 5 = x at *
  generalize r.evten.extractLsb' 0 5 = y at *
  simp only [BitVec.toNat_setWidth, BitVec.toNat_append, BitVec.toNat_ofNat]
  rw [← Nat.shiftLeft_add_eq_or_of_lt (by omega), ← Nat.shiftLeft_add_eq_or_of_lt (by omega)]
  omega

theorem eventPends_eq_true {s : State} (hfw : s.core.fw = false) (hrun : s.core.run = .running)
    (hp : ∃ i < 5, s.core.sys.evt.getLsbD i = true ∧ s.core.sys.evten.getLsbD i = true)
    (ha : s.core.sys.pl = plUser ∨ (s.core.sys.pl = plSup ∧ s.core.sys.aie = true))
    (hl : s.leaving = none) (hw : s.core.wait ≠ some .wfi) : s.eventPends = true := by
  simp [State.eventPends, hfw, hrun, (eventPending_iff _).mpr hp, (admits_iff _).mpr ha, hl, hw]

/-- The engine stands where neither of its events is due. -/
theorem engineStands_iff (s : State) : s.engineStands = true ↔
    ∀ i ∈ [Instr.tileFormExecute, .tileKStepComplete], ∀ v,
      exec i { s with ev := { EventArg.none with c := s.core.ref } } ≠ .next v := by
  have h (f : State → Out) : s.idlePort f 0 = true ↔ ∀ v, f { s with ev := { EventArg.none with c := s.core.ref } } ≠ .next v := by
    unfold State.idlePort
    show (match f { s with ev := { EventArg.none with c := s.core.ref } } with | .next _ => false | _ => true) = true ↔ _
    cases f { s with ev := { EventArg.none with c := s.core.ref } } <;> simp
  unfold State.engineStands
  rw [Bool.and_eq_true, h, h]
  simp only [List.forall_mem_cons, List.not_mem_nil, false_imp_iff, implies_true, and_true]
  rfl

theorem eventTake_due {s : State} (h : (s.focus s.ev.c).eventDue = true) : exec .eventTake s =
    .next ((s.focus s.ev.c).rolledBack.enterTrap { cause := 0x80, tval := (s.focus s.ev.c).core.sys.eventVal, sync := false }) := by
  show execEventTake s = _
  simp [execEventTake, h, Res.finish]

theorem eventTake_notDue {s : State} (h : (s.focus s.ev.c).eventDue = false) (w : State) : exec .eventTake s ≠ .next w := by
  show execEventTake s ≠ _
  simp [execEventTake, h, notDue]

theorem pixWord_valid (c : BitVec 2) (r : BitVec 5) (g : Nat) : (pixWord c r g).getLsbD 31 = true := by
  simp only [pixWord, BitVec.getLsbD_setWidth, BitVec.getLsbD_append]
  rfl

theorem pixWord_group (c : BitVec 2) (r : BitVec 5) (g : Nat) : (pixWord c r g).extractLsb' 0 10 = BitVec.ofNat 10 g := by
  apply BitVec.eq_of_getLsbD_eq
  intro i hi
  have h : i < 64 := by omega
  simp only [pixWord, BitVec.getLsbD_extractLsb', BitVec.getLsbD_setWidth, BitVec.getLsbD_append, Nat.zero_add, hi, h]
  simp

/-- PIX as an event reports it: it names the oldest entry, at the group where PIX has it or at group 0 (R188). -/
theorem reported_pix (v : VecState) {x : XuEntry} {l : List XuEntry} (h : v.xuq = x :: l) :
    v.reported.pix.getLsbD 31 = true ∧ (v.reported.pix = v.pix ∨ v.reported.pix.extractLsb' 0 10 = 0#10) := by
  unfold VecState.reported
  rw [h]
  dsimp only
  split
  · rename_i hp
    simp only [Bool.and_eq_true] at hp
    exact ⟨hp.1.1, .inl rfl⟩
  · exact ⟨pixWord_valid .., .inr (pixWord_group _ _ 0)⟩

/-- It leaves the registers. -/
theorem reported_v (v : VecState) : v.reported.v = v.v := by
  unfold VecState.reported
  dsimp only
  split
  · rfl
  · split <;> rfl

theorem reported_k (v : VecState) : v.reported.k = v.k := by
  unfold VecState.reported
  dsimp only
  split
  · rfl
  · split <;> rfl

theorem coreEvents : Claims.coreEvents := by
  intro s u r enabled due leaves idle t
  refine ⟨fun hfw hrun hen hadm hlv hwait => ?_, fun hfw hw hd => ?_, fun hfw hw => ?_, fun hfw hw => ?_⟩
  · have hp : u.eventPends = true := eventPends_eq_true hfw hrun hen hadm (leaving_eq_none hlv) hwait
    have ht : t = { cause := 0x80, tval := u.core.sys.eventVal, sync := false } := by rw [eventVal_eq]
    refine ⟨fun hq => ?_, fun c hc => ⟨fun hi => ?_, fun hi => ?_⟩⟩
    · have hm : u.mulPending = false := List.any_eq_false.mpr (by simpa using hq)
      have hfind : u.core.tile.queue.find? TileCmd.multiplies = none := List.find?_eq_none.mpr (by simpa using hq)
      have hdue : u.eventDue = true := by simp [State.eventDue, hp, hm]
      refine ⟨fun hx => ?_, fun x l hx => ⟨(u.onVec VecState.reported).asEntry x, ?_, rfl, rfl, rfl, ?_, ?_, rfl, rfl, reported_pix _ hx⟩⟩
      · rw [ht, eventTake_due hdue]
        simp [State.rolledBack, hfind, hx, u]
      · rw [ht, eventTake_due hdue]
        simp [State.rolledBack, hfind, hx, u]
      · exact reported_v _
      · exact reported_k _
    · have hm : u.mulPending = true := List.any_eq_true.mpr ⟨c, List.mem_of_find?_eq_some hc, List.find?_some hc⟩
      have hs : u.engineStands = false := Bool.eq_false_iff.mpr (fun h => hi ((engineStands_iff u).mp h))
      exact eventTake_notDue (by simp [State.eventDue, hm, hs, u])
    · have hdue : u.eventDue = true := by simp [State.eventDue, hp, (engineStands_iff u).mpr hi]
      refine ⟨u.undo c.journal, ?_, rfl, rfl, rfl, rfl⟩
      rw [ht, eventTake_due hdue]
      simp [State.rolledBack, hc, u]
  · have hcond : (u.core.sys.eventPending || u.preemptDue) = true := by
      rw [Bool.or_eq_true, eventPending_iff, preemptDue_iff]
      exact hd
    show execWfiWake s = _
    simp [execWfiWake, u, hfw, hw, hcond, Res.finish]
  · show execWfiWake s = _
    simp [execWfiWake, u, hfw, hw, Res.finish]
  · show execWfiWake s = _
    unfold execWfiWake
    dsimp only
    rw [if_pos hfw, if_neg hw]
    rfl

/-! ### sys.wfi, sys.ifence, sys.halt (R416, R417) -/

theorem sysWfi_machine {s : State} (hp : s.pl = plMach) :
    (s.core.mgmtReq = true → ends .sysWfi s { s with core := { s.core with mgmtReq := false } })
    ∧ (s.core.mgmtReq = false → stands .sysWfi s .wfi) := by
  constructor
  · intro h
    show execSysWfi s = _
    unfold execSysWfi
    rw [hp, h]
    rfl
  · intro h
    show execSysWfi s = _
    unfold execSysWfi
    rw [hp, h]
    rfl

/-- Below machine level sys.wfi waits for an enabled event or a pre-emption. -/
theorem sysWfi_below {s : State} (hp : s.pl ≠ plMach) :
    exec .sysWfi s = if s.core.sys.eventPending || s.preemptDue then .next s.next else .next (s.stand .wfi) := by
  show execSysWfi s = _
  unfold execSysWfi
  rw [if_neg (by simpa using hp)]
  split <;> rfl

/-- Earlier commands whose writes a release at a scope waits for (R326). -/
def writersAt (s : State) (scope : Nat) : List Cmd := s.core.cmds.filter (Cmd.writesAt scope)

/-- One of them held behind a failed port. -/
def heldWriter (s : State) (scope : Nat) : Option Cmd := (writersAt s scope).find? (fun c => !c.active && s.portBad c.port)

theorem release_done {s : State} {scope : Nat} (k : Res) (h : writersAt s scope = []) : s.release scope k = k := by
  unfold State.release
  split
  · rfl
  · simp only [show s.core.cmds.filter (Cmd.writesAt scope) = [] from h]
    rfl

theorem release_waits {s : State} {scope : Nat} (k : Res) (h0 : scope ≠ 0) (h : writersAt s scope ≠ [])
    (hh : heldWriter s scope = none) : s.release scope k = .wait s .fence := by
  unfold State.release
  rw [if_neg h0]
  dsimp only
  rw [show List.find? _ (s.core.cmds.filter (Cmd.writesAt scope)) = none from hh]
  exact if_neg (by simpa [writersAt] using h)

theorem release_traps {s : State} {scope : Nat} (k : Res) (h0 : scope ≠ 0) {c : Cmd} (hh : heldWriter s scope = some c) :
    s.release scope k = .trap s (s.portTrap c.port) := by
  unfold State.release
  rw [if_neg h0]
  dsimp only
  rw [show List.find? _ (s.core.cmds.filter (Cmd.writesAt scope)) = some c from hh]

theorem levelTrap_machine (s : State) (i : Instr) :
    s.levelTrap i .machine = if s.pl = plMach then none else some { cause := 0x0A, tval := i.wordOf } := by
  by_cases h : s.pl = plMach <;> simp [State.levelTrap, needCause, h, wordTrap]

theorem levelTrap_supervisor (s : State) (i : Instr) :
    s.levelTrap i .supervisor = if s.pl = plUser then some { cause := 0x09, tval := i.wordOf } else none := by
  by_cases h : s.pl = plUser <;> simp [State.levelTrap, needCause, h, wordTrap]

/-! ### sys.tinval (R417) -/

/-- What sys.tinval with a mode removes. -/
theorem tinvalHits_iff (ctx : BitVec 8) (asid : BitVec 12) (mode : BitVec 2) (va : Nat) (e : TlbEntry) :
    tinvalHits ctx asid mode va e = true ↔ if mode = 0 then e.serves ctx asid va = true
      else if mode = 1 then e.part = ctx ∧ e.asid = asid ∧ pteG e.leaf = false else e.part = ctx := by
  have h : mode = 0 ∨ mode = 1 ∨ mode = 2 ∨ mode = 3 := by revert mode; decide
  rcases h with rfl | rfl | rfl | rfl <;> simp [tinvalHits, and_assoc]

/-- A state whose caches have lost the entries of a kind. -/
def dropEntries (s : State) (hit : TlbEntry → Bool) : State :=
  (s.onCore (fun c => { c with tlb := c.tlb.filter (fun e => !hit e) })).onCl (clusterOf s.core.id)
    (fun c => { c with tlb := c.tlb.filter (fun e => !hit e) })

theorem dropEntries_reached (s : State) (hit : TlbEntry → Bool) : onlyReached s (dropEntries s hit) :=
  congrArg (fun c => ({ s.onCore _ with clusters := c } : State)) (withCaches_rset _ _ _)

theorem mem_filter_not {l : List TlbEntry} {hit : TlbEntry → Bool} {p : TlbEntry → Prop} (h : ∀ e, hit e = true ↔ p e) (e : TlbEntry) :
    e ∈ l.filter (fun e => !hit e) ↔ e ∈ l ∧ ¬ p e := by
  rw [List.mem_filter, ← h]
  simp

theorem dropEntries_clAt_self (s : State) (hit : TlbEntry → Bool) : (dropEntries s hit).clAt (clusterOf s.core.id) =
    { s.clAt (clusterOf s.core.id) with tlb := (s.clAt (clusterOf s.core.id)).tlb.filter (fun e => !hit e) } :=
  rget_rset_same ..

theorem dropEntries_clAt_other (s : State) (hit : TlbEntry → Bool) {cl : BitVec 4} (h : cl ≠ clusterOf s.core.id) :
    (dropEntries s hit).clAt cl = s.clAt cl :=
  rget_rset_other _ _ _ _ _ (fun he => h he.symm)

theorem dropEntries_core (s : State) (hit : TlbEntry → Bool) :
    (dropEntries s hit).core.tlb = s.core.tlb.filter (fun e => !hit e) := rfl

theorem sysTinval_numbered {s : State} (a b : BitVec 5) (hp : s.pl ≠ plUser) (hf : s.core.fw = false) :
    ends (.sysTinval a b) s (dropEntries s (tinvalHits s.ctxIx ((s.ctxAt s.ctxIx).atroot.extractLsb' 52 12)
      ((s.g b).extractLsb' 0 2) (va56 (s.g a)))) := by
  show execSysTinval a b s = _
  unfold execSysTinval
  rw [levelTrap_supervisor, if_neg hp, hf]
  rfl

/-! ### sys.id (R418) -/

theorem gangLog_pow {k : Nat} (hk : k ≤ 4) : gangLog (2 ^ k) = BitVec.ofNat 4 k := by
  have h : ∀ j < 5, gangLog (2 ^ j) = BitVec.ofNat 4 j := by decide
  exact h k (by omega)

theorem toNat_append_add {n m : Nat} (x : BitVec n) (y : BitVec m) : (x ++ y).toNat = x.toNat * 2 ^ m + y.toNat := by
  rw [BitVec.toNat_append, ← Nat.shiftLeft_add_eq_or_of_lt y.isLt, Nat.shiftLeft_eq]

/-- SYSID as a number. -/
theorem sysid_fields (g r : BitVec 4) (c : BitVec 8) (f : Bool) (i : BitVec 8) :
    zext (g ++ r ++ c ++ 0#7 ++ BitVec.ofBool f ++ i) =
      BitVec.ofNat 64 (g.toNat * 2 ^ 28 + r.toNat * 2 ^ 24 + c.toNat * 2 ^ 16 + (if f then 256 else 0) + i.toNat) := by
  have hg := g.isLt
  have hr := r.isLt
  have hc := c.isLt
  have hi := i.isLt
  apply BitVec.eq_of_toNat_eq
  simp only [zext, BitVec.toNat_setWidth, toNat_append_add, BitVec.toNat_ofNat, BitVec.toNat_ofBool]
  cases f <;> simp <;> omega

/-- The part of SYSID that the gang does not enter (R418). -/
def coreNumber (s : State) : Nat := (if s.core.fw then 256 else s.ctxIx.toNat * 2 ^ 16) + s.core.id.toNat

theorem sysid_core (s : State) (g r : BitVec 4) :
    zext (g ++ r ++ (if s.core.fw then 0#8 else s.ctxIx) ++ 0#7 ++ BitVec.ofBool s.core.fw ++ s.core.id) =
      BitVec.ofNat 64 (g.toNat * 2 ^ 28 + r.toNat * 2 ^ 24 + coreNumber s) := by
  have hctx : (if s.core.fw then 0#8 else s.ctxIx).toNat * 2 ^ 16 + (if s.core.fw then 256 else 0)
      = if s.core.fw then 256 else s.ctxIx.toNat * 2 ^ 16 := by
    cases s.core.fw <;> simp only [Bool.false_eq_true, if_true, if_false, Nat.add_zero, BitVec.toNat_zero, Nat.zero_mul, Nat.zero_add]
  rw [sysid_fields, coreNumber, ← hctx]
  simp only [Nat.add_assoc]

theorem sysid_alone {s : State} (h : s.myGang = none) : s.sysid = BitVec.ofNat 64 (coreNumber s) := by
  have hs := sysid_core s 0 0
  unfold State.sysid
  simp only [h]
  simpa using hs

theorem sysid_member {s : State} {g : Gang} {k : Nat} (h : s.myGang = some g) (hk : k ≤ 4) (hg : g.cores.length = 2 ^ k)
    (hr : s.core.rank < 16) : s.sysid = BitVec.ofNat 64 (k * 2 ^ 28 + s.core.rank * 2 ^ 24 + coreNumber s) := by
  have hs := sysid_core s (BitVec.ofNat 4 k) (BitVec.ofNat 4 s.core.rank)
  rw [BitVec.toNat_ofNat, BitVec.toNat_ofNat, Nat.mod_eq_of_lt (by omega), Nat.mod_eq_of_lt (by omega)] at hs
  unfold State.sysid
  simp only [h, hg, gangLog_pow hk]
  exact hs

theorem otherSystemForms : Claims.systemForms := by
  intro s d a b mode asid goes writers held pending
  have hhit (e : TlbEntry) : tinvalHits s.ctxIx asid mode (va56 (s.g a)) e = true ↔ goes e := tinvalHits_iff ..
  refine ⟨sysWfi_machine, fun hp => ?_, fun hw => ?_, fun hw hh => ?_, fun c hc => ?_, fun hp => ?_, fun hp hf => ?_, fun hp hf => ?_,
    fun hp => ?_, fun hp => ?_, ?_⟩
  · have hiff : (s.core.sys.eventPending || s.preemptDue) = true ↔ pending := by
      rw [Bool.or_eq_true, eventPending_iff, preemptDue_iff]
    constructor
    · intro h
      rw [ends, sysWfi_below hp, if_pos (hiff.mpr h)]
    · intro h
      rw [stands, sysWfi_below hp, if_neg (fun hc => h (hiff.mp hc))]
  · show execSysIfence s = _
    rw [execSysIfence, release_done _ hw]
    rfl
  · show execSysIfence s = _
    rw [execSysIfence, release_waits _ Nat.one_ne_zero hw hh]
    rfl
  · show execSysIfence s = _
    rw [execSysIfence, release_traps _ Nat.one_ne_zero hc]
    rfl
  · show execSysTinval a b s = _
    unfold execSysTinval
    rw [levelTrap_supervisor, if_pos hp]
    rfl
  · refine ⟨_, sysTinval_numbered a b hp hf, dropEntries_reached .., rfl, fun e => mem_filter_not hhit e, fun cl => ⟨?_, fun hcl => ?_⟩, fun e => ?_⟩
    · by_cases hcl : cl = clusterOf s.core.id
      · rw [hcl, dropEntries_clAt_self]
      · rw [dropEntries_clAt_other s _ hcl]
    · exact dropEntries_clAt_other s _ hcl
    · rw [dropEntries_clAt_self]
      exact mem_filter_not hhit e
  · show execSysTinval a b s = _
    unfold execSysTinval
    rw [levelTrap_supervisor, if_neg hp, hf]
    rfl
  · show execSysHalt s = _
    unfold execSysHalt
    rw [levelTrap_machine, if_neg hp]
    rfl
  · show execSysHalt s = _
    unfold execSysHalt
    rw [levelTrap_machine, if_pos hp]
    rfl
  · intro w
    have hw (x : Nat) : w x = BitVec.ofNat 64 (x + coreNumber s) := by
      show BitVec.ofNat 64 _ = _
      rw [coreNumber, Nat.add_assoc]
    refine ⟨fun hg => ?_, fun g k hg hk hl hr => ?_⟩
    · rw [hw, Nat.zero_add, ← sysid_alone hg]
      rfl
    · rw [hw, ← sysid_member hg hk hl hr]
      rfl

/-! ### One element group alone (R184, R185, R401, R402) -/

/-- Forms that work group by group may be issued again. -/
theorem groupwise_reissued (i : Instr) (s : State) : (!groupwise i || (reissue i s).isSome) = true := by
  cases i <;> rfl

theorem reissue_of_groupwise {i : Instr} (h : groupwise i = true) (s : State) : reissue i s ≠ none := by
  have hr := groupwise_reissued i s
  rw [h] at hr
  exact Option.isSome_iff_ne_none.mp hr

/-- The groups that a form has done up to the next boundary at which it may stop. -/
def nextBoundary (t : State) (i : Instr) : Nat :=
  (t.startGroup (pixDest i).1 (pixDest i).2 / t.groupStep i + 1) * t.groupStep i

/-- A state with VL at that boundary, in which the run of the block buffer does not move past the word. -/
def cutShort (t : State) (i : Instr) : State :=
  (t.onVec (fun v => { v with vl := vlWord v.w (16 * nextBoundary t i) })).onBlk (fun b => { b with blk := putFld b.blk 12 (0x3F#6) })

/-- A form went through that ended with no wait and no trap. -/
theorem wentThrough_next {t w : State} (hw : w.core.wait = none) (hs : w.core.sys = t.core.sys) :
    wentThrough t (some (.next w)) = some w := by
  simp [wentThrough, hw, hs]

theorem oneGroup_eq {t w p : State} {x : BitVec 32} {f : Form} (hf : formOf (fieldsOf x) = .ok f) (hg : groupwise f.instr = true)
    (hn : 16 * nextBoundary t f.instr < t.core.vec.n) (ht : t.core.regErr = [])
    (he : exec f.instr t = .next w) (hw : w.core.wait = none) (hs : w.core.sys = t.core.sys) (hr : w.core.regErr = [])
    (he' : exec f.instr (cutShort t f.instr) = .next p) (hw' : p.core.wait = none) (hs' : p.core.sys = t.core.sys) (hr' : p.core.regErr = []) :
    t.oneGroup x = some (p.atGroup t f.instr (nextBoundary t f.instr)) := by
  have hwhole : wentThrough t (reissueForm f.instr t) = some w := by
    rw [reissueForm_clean (reissue_of_groupwise hg t) ht he hr]
    exact wentThrough_next hw hs
  have hshort : wentThrough t (reissueForm f.instr (cutShort t f.instr)) = some p := by
    rw [reissueForm_clean (t := cutShort t f.instr) (reissue_of_groupwise hg _) ht he' hr']
    exact wentThrough_next hw' hs'
  have hcond : (!groupwise f.instr || decide (t.core.vec.n ≤ 16 * nextBoundary t f.instr)) = false := by
    simp [hg, hn]
  unfold State.oneGroup
  rw [hf]
  show (if (!groupwise f.instr || decide (t.core.vec.n ≤ 16 * nextBoundary t f.instr)) = true then none
    else (wentThrough t (reissueForm f.instr t)).bind (fun _ =>
      (wentThrough t (reissueForm f.instr (cutShort t f.instr))).map (fun p => p.atGroup t f.instr (nextBoundary t f.instr)))) = _
  rw [hcond, hwhole, hshort]
  rfl

/-- Outside a wait, XU_GROUP_COMPLETE completes the next group of the form in hand. -/
theorem xuGroupComplete_group {s t v : State} {x : BitVec 32} {f : Form} (h : AtWord s t x f)
    (hwait : (s.focus s.ev.c).core.wait = none) (hm : (s.focus s.ev.c).mulPending = false) (hc : t.wordCause x = none)
    (hg : t.oneGroup x = some v) : execXuGroupComplete s = .next v := by
  simp [execXuGroupComplete, h.mayRun, h.interrupted, h.xuq, hwait, h.hand, hm, h.exitDue, hc, hg]

theorem oneGroup : Claims.oneGroup := by
  intro s t p w x f u i d q g short hrun hcl hvp hblk hint hxu hwait hf hm ht hcause hform hg hn he hw hs hr he' hw' hs' hr'
  have h : AtWord s t x f := atWord_pc hrun hcl hvp hblk hint hxu ht hf hm hform
  have hmu : u.mulPending = false := (reached_mulPending (fetchWord_reached hf)).symm.trans hm
  refine ⟨p.atGroup t i g, xuGroupComplete_group h hwait hmu hcause
    (oneGroup_eq hform hg hn ht he hw hs hr he' hw' hs' hr'), rfl, rfl, rfl, rfl, rfl, rfl, rfl, rfl, ?_, ?_⟩
  · exact pixWord_valid ..
  · show ((pixWord d.1 d.2 g).extractLsb' 0 10).toNat = g % 1024
    rw [pixWord_group, BitVec.toNat_ofNat]

end Sys2Proof.Proofs.System
end

section
/-! PROOFS. Where the form that stands completes as its wait ends (R137, R153, R157, R165, R184, R209, R297, R327, R335, R375),
and the system forms together. -/

namespace Sys2Proof.Proofs.System

set_option Elab.async false

open Sys2Proof.Machine Sys2Proof.Proofs.Control

/-! ### Forms that go on from their waits (R137) -/

/-- The end of a wait at which the form completes. -/
theorem resume_completes {s t o : State} {x : BitVec 32} {f : Form} (h : AtWord s t x f) {w : Wait} (name : String)
    (hw : (s.focus s.ev.c).core.wait = some w) {i : Instr} (hi : f.instr = i) (hre : reissue i t ≠ none)
    (he : exec i t = .next o.next) (ho : o.core.regErr = []) : s.resume w name = .next o.next := by
  subst hi
  exact resume_word h name hw hre he ((State.next_core_regErr o).trans ho) (by simp)

theorem acquire_done {s : State} {scope : Nat} (k : Res) (h : s.core.cmds = []) : s.acquire scope k = k := by
  simp [State.acquire, h]

/-- A barrier lets the form pass where its phase lies 1 to 2^31 ahead (R335). -/
theorem gbPassed_iff (x g : Word) : gbPassed x g = true ↔
    1 ≤ ((x.extractLsb' 32 32).toNat - (g.toNat % 2 ^ 32 : Nat) : Int) % 2 ^ 32
      ∧ ((x.extractLsb' 32 32).toNat - (g.toNat % 2 ^ 32 : Nat) : Int) % 2 ^ 32 ≤ 2 ^ 31 := by
  have hx := (x.extractLsb' 32 32).isLt
  have hy : (g.extractLsb' 0 32).toNat = g.toNat % 2 ^ 32 := by simp
  unfold gbPassed gbPhase fld
  simp only [BitVec.toNat_sub, hy, Bool.and_eq_true, decide_eq_true_eq]
  generalize (x.extractLsb' 32 32).toNat = m at *
  omega

theorem gbWait_completes {t : State} {n : BitVec 4} {b : BitVec 5} (hp : gbPassed (t.gbar n) (t.g b) = true)
    (hc : t.core.cmds = []) : exec (.gbWait n b) t = .next t.next := by
  show execGbWait n b t = _
  rw [execGbWait, if_pos hp, acquire_done _ hc]
  rfl

theorem fenceAcq_completes {t : State} {r : BitVec 3} (hc : t.core.cmds = []) : exec (.fenceAcq r) t = .next t.next := by
  show execFenceAcq r t = _
  rw [execFenceAcq, acquire_done _ hc]
  rfl

theorem fenceRel_completes {t : State} {r : BitVec 3} (hw : writersAt t r.toNat = []) : exec (.fenceRel r) t = .next t.next := by
  show execFenceRel r t = _
  rw [execFenceRel, release_done _ hw]
  rfl

theorem xsWait_completes {t : State} {p : BitVec 4} {b : BitVec 5} (hc : ∀ y ∈ t.core.cmds, y.port ≠ p)
    (hx : xState (t.xstat p) = stDone) : exec (.xsWait p b) t = .next t.next := by
  have hbad : t.portBad p = false := by
    rw [State.portBad, hx]
    rfl
  have hbusy : t.core.busyPort p = false := List.any_eq_false.mpr (by simpa using hc)
  have hrecv : (xState (t.xstat p) != stRecv) = true := by
    rw [hx]
    rfl
  show execXsWait p b t = _
  simp [execXsWait, hbad, hbusy, hrecv, Res.finish]

theorem plWait_completes {t : State} (hc : ∀ y, Cmd.sloe y ∉ t.core.cmds) (hf : t.core.sloe.failed = []) :
    exec .plWait t = .next t.next := by
  have hs : t.core.hasSloe = false := by
    refine List.any_eq_false.mpr (fun y hy => ?_)
    cases y with
    | sloe y => exact absurd hy (hc y)
    | stream y => simp
  show execPlWait t = _
  rw [execPlWait, hs, hf]
  rfl

theorem tlZero_completes {t : State} {c : BitVec 1} (hq : t.core.tile.queue = []) :
    exec (.tlZero c) t = .next (t.onTile (fun y => { y with acc := rset y.acc c 0 })).next := by
  show execTlZero c t = _
  rw [execTlZero, State.behindTiles, hq]
  rfl

theorem ldD_completes {t : State} {d a : BitVec 5} {imm : BitVec 16} {y : Xl}
    (hy : reach t t.core.cmds t.pl .sread (t.g a + sext imm) 8 = .ok y) :
    ∃ o w, exec (.ldD d a imm) t = .next (o.setG d w).next ∧ onlyReached t o := by
  have hld : t.ld .sread 0 (t.g a + sext imm) 8 = _ := load_of_reach 0 hy
  refine ⟨(t.correct y.pa 8).fill y, wordOfBytes (t.readAt y .sread 0 (t.g a + sext imm) 8), ?_, State.read_reached t y y.pa 8⟩
  show execLdD d a imm t = _
  rw [execLdD, scalarLoad, hld]
  rfl

/-! ### cb.acq (R165) -/

/-- Where the high bits of a word are zero, so are those of a part of them. -/
theorem high_bits {x : Word} (h : x.extractLsb' 16 48 = 0#48) : fld x 17 47 = 0#47 ∧ x.getLsbD 16 = false := by
  have hbit (i : Nat) (hi : i < 48) : x.getLsbD (16 + i) = false := by
    have := congrArg (fun y : BitVec 48 => y.getLsbD i) h
    simpa [hi] using this
  constructor
  · apply BitVec.eq_of_getLsbD_eq
    intro i hi
    have := hbit (i + 1) (by omega)
    rw [fld, BitVec.getLsbD_extractLsb', show 17 + i = 16 + (i + 1) by omega, this]
    simp
  · exact hbit 0 (by omega)

/-- A ring that is configured admits n slots within its count. -/
theorem ringTrap_none {t : State} {n : BitVec 3} {x : Word} (h0 : x.extractLsb' 16 48 = 0#48)
    (h1 : 1 ≤ (x.extractLsb' 0 16).toNat) (h2 : (x.extractLsb' 0 16).toNat ≤ cbCount (t.cbCfg n)) : t.ringTrap n x = none := by
  have hn : fld x 0 16 ≠ 0#16 := by
    intro h
    rw [show x.extractLsb' 0 16 = 0#16 from h] at h1
    exact absurd h1 (by decide)
  have hcount : cbCount (t.cbCfg n) ≠ 0 := by omega
  have hle : ¬ cbCount (t.cbCfg n) < (fld x 0 16).toNat := Nat.not_lt.mpr h2
  simp [State.ringTrap, firstTrap, (high_bits h0).1, hn, hcount, hle]

/-- The counters of a ring once a consumer has taken n slots (R163). -/
def takenSlots (r : RingCnt) (n count : Nat) : RingCnt :=
  { r with filled := r.filled - n, heldC := r.heldC + n, tail := (r.tail + n) % count }

theorem cbAcq_completes {t : State} {d : BitVec 5} {r : BitVec 3} {b : BitVec 5} (h0 : (t.g b).extractLsb' 16 48 = 0#48)
    (h1 : 1 ≤ ((t.g b).extractLsb' 0 16).toNat) (h2 : ((t.g b).extractLsb' 0 16).toNat ≤ cbCount (t.cbCfg r))
    (h3 : ((t.g b).extractLsb' 0 16).toNat ≤ (t.ringCnt r).filled) :
    exec (.cbAcq d r b) t = .next ((t.setRing r (takenSlots (t.ringCnt r) ((t.g b).extractLsb' 0 16).toNat (cbCount (t.cbCfg r)))).setG d
      (BitVec.ofNat 64 (cbBase (t.cbCfg r) + cbSlot (t.cbCfg r) * (t.ringCnt r).tail))).next := by
  have hacq : (t.ringCnt r).acquire false (fld (t.g b) 0 16).toNat (cbCount (t.cbCfg r))
      = some (takenSlots (t.ringCnt r) ((t.g b).extractLsb' 0 16).toNat (cbCount (t.cbCfg r))) := if_pos h3
  show execCbAcq d r b t = _
  simp only [execCbAcq, ringTrap_none h0 h1 h2, (high_bits h0).2, hacq]
  rfl

/-- Writing back what a table holds changes nothing. -/
theorem rset_rget_self {α : Type} {k n : Nat} (v : Vector α n) (i : BitVec k) (h : 2 ^ k ≤ n) : rset v i (rget v i h) h = v := by
  simp [rset, rget]

/-- Replacing the counters of a ring leaves its configuration. -/
theorem setRing_eq (t : State) (r : BitVec 3) (x : RingCnt) : t.setRing r x = t.onCore (fun y => { y with
    port := { y.port with cbcfg := rset y.port.cbcfg r (t.cbCfg r), cbstat := rset y.port.cbstat r x.word } }) := by
  simp only [State.onCore, State.cbCfg, rset_rget_self]
  rfl

/-! ### v.ldq (R209) -/

/-- Two states differ in vector registers, VSTAT, PIX and pinned translations alone. -/
def OnlyElements (s u : State) : Prop :=
  u = { s with core := { s.core with
    pins := u.core.pins, vec := { s.core.vec with v := u.core.vec.v, vstat := u.core.vec.vstat, pix := u.core.vec.pix } } }

theorem onlyElements_refl (s : State) : OnlyElements s s := rfl

theorem onlyElements_trans {s t u : State} (h : OnlyElements s t) (h' : OnlyElements t u) : OnlyElements s u := by
  unfold OnlyElements at h h' ⊢
  rw [h] at h'
  exact h'

theorem onlyElements_regErr {s u : State} (h : OnlyElements s u) : u.core.regErr = s.core.regErr := by
  rw [show u.core = _ from congrArg State.core h]

theorem onlyElements_g {s u : State} (h : OnlyElements s u) : u.core.g = s.core.g := by
  rw [show u.core = _ from congrArg State.core h]

theorem onlyElements_mem {s u : State} (h : OnlyElements s u) : u.mem = s.mem := by
  rw [show u.mem = _ from congrArg State.mem h]

/-- The elements of a group, loaded from a queue in turn. -/
theorem onlyElements_foldl {α : Type} (f : State → α → State) (hf : ∀ u e, OnlyElements u (f u e)) (l : List α) (u : State) :
    OnlyElements u (l.foldl f u) := by
  induction l generalizing u with
  | nil => exact onlyElements_refl u
  | cons e r ih => exact onlyElements_trans (hf u e) (ih (f u e))

/-- Groups of which each goes through and leaves the rest of the state, go through together. -/
theorem runGroupsFrom_done {s : State} {cls : BitVec 2} {reg : BitVec 5} {f : State → Nat → Except GErr State}
    (hf : ∀ u j, OnlyElements s u → ∃ v, f u j = .ok v ∧ OnlyElements u v) (l : List Nat) (first : Bool) {u : State}
    (hu : OnlyElements s u) : ∃ w, runGroupsFrom first cls reg f l u = .done w ∧ OnlyElements s w := by
  induction l generalizing first u with
  | nil => exact ⟨u, rfl, hu⟩
  | cons j r ih =>
    have hb : OnlyElements s u.beginGroup := onlyElements_trans hu rfl
    obtain ⟨v, hv, hvu⟩ := hf u.beginGroup j hb
    obtain ⟨w, hw, hws⟩ := ih false (u := v.pinsOf u) (onlyElements_trans (onlyElements_trans hb hvu) rfl)
    refine ⟨w, ?_, hws⟩
    simp only [runGroupsFrom, hv]
    exact hw

/-- What the queue has received, a group of v.ldq reads: nothing stops it. -/
theorem queueStop_none {t u : State} (h : OnlyElements t u) {q n : Nat} (hn : n + t.core.vec.n ≤ xCnt (t.xstat (BitVec.ofNat 4 q)))
    (j : Nat) : u.queueStop q n j = none := by
  have hx : u.xstat (BitVec.ofNat 4 q) = t.xstat (BitVec.ofNat 4 q) := by
    unfold State.xstat
    rw [h]
  have hv : u.core.vec.n = t.core.vec.n := by
    unfold VecState.n
    rw [h]
  have hle : n + min (16 * (j + 1)) u.core.vec.n ≤ xCnt (u.xstat (BitVec.ofNat 4 q)) := by
    rw [hx, hv]
    omega
  unfold State.queueStop
  dsimp only
  rw [if_pos hle]

theorem queueGroup_ok {t u s0 : State} (h : OnlyElements t u) {q n : Nat} (hn : n + t.core.vec.n ≤ xCnt (t.xstat (BitVec.ofNat 4 q)))
    {m : MemFmt} {o : VOp} (ho : o.tag ≠ .e2m1x) (k : BitVec 3) (z : Bool) (j : Nat) :
    ∃ v, queueGroup s0 q n m o k z u j = .ok v ∧ OnlyElements u v := by
  unfold queueGroup
  simp only [queueStop_none h hn, if_neg ho]
  refine ⟨_, rfl, onlyElements_foldl _ (fun u e => ?_) _ u⟩
  split
  · rfl
  · split
    · rfl
    · exact onlyElements_refl u

theorem memTrap_none {t : State} {d : BitVec 5} (hd : Claims.fits t d) (hm : (memFmt t.core.vec (t.vop d).tag).tag ≠ .e2m1x) :
    t.memTrap d none false = none := by
  have ho : t.overCap [t.vop d] = false := by
    simpa [State.overCap] using (show t.core.vec.n ≤ (t.vop d).cap from hd)
  simp [State.memTrap, firstTrap, ho, hm]

/-- A state in which n elements of load-data queue q are consumed. -/
def consumeTo (s : State) (q n : Nat) : State :=
  s.onVec (fun v => { v with vqrd := putFld v.vqrd (16 * (q - 8)) (BitVec.ofNat 16 n) })

@[simp] theorem consumeTo_g (s : State) (q n : Nat) : (consumeTo s q n).core.g = s.core.g := rfl

@[simp] theorem consumeTo_mem (s : State) (q n : Nat) : (consumeTo s q n).mem = s.mem := rfl

@[simp] theorem consumeTo_regErr (s : State) (q n : Nat) : (consumeTo s q n).core.regErr = s.core.regErr := rfl

/-- VQRD of a load-data queue of which n elements have been consumed. -/
theorem consumeTo_vqrd {q : Nat} (h1 : 8 ≤ q) (h2 : q ≤ 11) (s : State) (n : Nat) :
    ((consumeTo s q n).core.vec.vqrd.extractLsb' (16 * (q - 8)) 16).toNat = n % 2 ^ 16 :=
  (congrArg BitVec.toNat (fld_putFld_same s.core.vec.vqrd (16 * (q - 8)) (BitVec.ofNat 16 n) (by omega))).trans
    (BitVec.toNat_ofNat n 16)

theorem vLdq_completes {t : State} {d a : BitVec 5} (k : BitVec 3) (z : Bool) (hd : Claims.fits t d) (ht : (t.vop d).tag ≠ .e2m1x)
    (hm : (memFmt t.core.vec (t.vop d).tag).tag ≠ .e2m1x) (hs : t.core.hasStream (BitVec.ofNat 4 a.toNat) true = true)
    (hfmt : streamFmt (memFmt t.core.vec (t.vop d).tag).tag.code = true)
    (hsz : (memFmt t.core.vec (t.vop d).tag).msz = 2 ^ (xNsz (t.xstat (BitVec.ofNat 4 a.toNat))).toNat)
    (hn : t.core.vec.qrd a.toNat + t.core.vec.n ≤ xCnt (t.xstat (BitVec.ofNat 4 a.toNat))) :
    ∃ w, exec (.vLdq d a k z) t = .next (consumeTo w a.toNat (t.core.vec.qrd a.toNat + t.core.vec.n)).next
      ∧ OnlyElements t w := by
  obtain ⟨w, hw, htw⟩ := runGroupsFrom_done (cls := clsV) (reg := d)
    (fun u j hu => queueGroup_ok (s0 := t) (m := memFmt t.core.vec (t.vop d).tag) hu hn ht k z j)
    (groupList t.core.vec.n (t.startGroup clsV d) 1) true (u := t.clearPix) rfl
  refine ⟨w, ?_, htw⟩
  show execVLdq d a k z t = _
  simp [-BitVec.ofNat_toNat, execVLdq, memTrap_none hd hm, hs, hfmt, hsz, runGroups, hw, consumeTo, Res.check, Res.andThen, Res.finish]

/-! ### task.spawn (R366, R375) -/

/-- With no uncorrectable byte a walk finds none. -/
theorem walk_bad {s : State} (hb : s.dev.badBytes = []) (va : Word) (k : BitVec 4) (fuel level table : Nat) {m : MemFault}
    (h : walk s va k fuel level table = .error m) : m.bad = none := by
  induction fuel generalizing level table with
  | zero =>
    cases h
    rfl
  | succ fuel ih =>
    unfold walk at h
    dsimp only at h
    split at h
    · rename_i c bad he
      unfold eccFault at he
      rw [hb] at he
      split at he
      · cases he
        cases h
        rfl
      · cases he
    · split at h
      · cases h
        rfl
      · split at h
        · cases h
          rfl
        · split at h
          · cases h
          · exact ih _ _ h

theorem translateCtx_bad {s : State} (hb : s.dev.badBytes = []) {ctx : BitVec 8} {kind : AccKind} {va : Word} {m : MemFault}
    (h : translateCtx s ctx kind va = .error m) : m.bad = none := by
  unfold translateCtx at h
  dsimp only at h
  split at h
  · cases h
    rfl
  · split at h
    · split at h
      · cases h
        rfl
      · cases h
    · split at h
      · cases h
        rfl
      · split at h
        · rename_i f hf
          cases h
          exact walk_bad hb _ _ _ _ _ hf
        · split at h
          · cases h
            rfl
          · cases h

/-- A state with the core of another, and like it without uncorrectable bytes. -/
def SameCore (s u : State) : Prop := u.core = s.core ∧ (s.dev.badBytes = [] → u.dev.badBytes = [])

theorem sameCore_refl (s : State) : SameCore s s := ⟨rfl, id⟩

theorem sameCore_trans {s t u : State} (h : SameCore s t) (h' : SameCore t u) : SameCore s u :=
  ⟨h'.1.trans h.1, fun hb => h'.2 (h.2 hb)⟩

theorem correct_sameCore (s : State) (pa n : Nat) : SameCore s (s.correct pa n) := by
  unfold State.correct
  split
  · exact ⟨rfl, id⟩
  · exact sameCore_refl s

theorem correctAll_sameCore (l : List Nat) (s : State) : SameCore s (l.foldl (fun t pa => t.correct pa 8) s) := by
  induction l generalizing s with
  | nil => exact sameCore_refl s
  | cons a r ih => exact sameCore_trans (correct_sameCore s a 8) (ih _)

theorem repairWalk_sameCore (s : State) (ctx : BitVec 8) (va : Nat) : SameCore s (s.repairWalk ctx va) := by
  unfold State.repairWalk
  dsimp only
  split
  · exact sameCore_refl s
  · exact correctAll_sameCore _ s

theorem poke_sameCore (s : State) (pa : Nat) (l : List Byte) : SameCore s (s.poke pa l) := by
  refine ⟨State.overwrite_core s pa l.length, fun hb => ?_⟩
  show (s.overwrite pa l.length).dev.badBytes = []
  unfold State.overwrite
  split
  · exact hb
  · simp [hb]

/-- Where no byte is uncorrectable, a write of the unit repairs at most what its walk reads. -/
theorem unitTouch_sameCore {s : State} (hb : s.dev.badBytes = []) (ctx : BitVec 8) (va : Word) (n : Nat) :
    SameCore s (s.unitTouch ctx .xwrite va n) := by
  have hw : SameCore s (if canonical va then s.repairWalk ctx (va56 va) else s) := by
    split
    · exact repairWalk_sameCore s ctx _
    · exact sameCore_refl s
  unfold State.unitTouch
  dsimp only
  generalize (if canonical va then s.repairWalk ctx (va56 va) else s) = u at hw ⊢
  have hu := hw.2 hb
  split
  · rename_i m hm
    rw [translateCtx_bad hu hm]
    exact hw
  · rw [if_neg (by decide)]
    split
    · exact hw
    · simpa [State.narrowBad, hu, State.unitBad] using hw

theorem unitWrite_sameCore {s : State} (hb : s.dev.badBytes = []) (ctx : BitVec 8) (va : Word) (l : List Byte) :
    SameCore s (s.unitWrite ctx va l) := by
  have ht := unitTouch_sameCore hb ctx va l.length
  unfold State.unitWrite
  dsimp only
  split
  · exact sameCore_trans ht (poke_sameCore ..)
  · exact ht

theorem pushRecord_sameCore {s : State} (hb : s.dev.badBytes = []) (ctx : BitVec 8) (r : Record) :
    SameCore s (s.pushRecord ctx r) := by
  obtain ⟨hc, hd⟩ := unitWrite_sameCore hb ctx ((s.queueRaw ctx r.queue).slot (s.queueRaw ctx r.queue).tail) r.bytes
  exact ⟨hc, hd⟩

theorem pushRecords_sameCore (l : List Record) {s : State} (hb : s.dev.badBytes = []) (ctx : BitVec 8) :
    SameCore s (l.foldl (fun t r => t.pushRecord ctx r) s) := by
  induction l generalizing s with
  | nil => exact sameCore_refl s
  | cons r l ih =>
    have h := pushRecord_sameCore hb ctx r
    exact sameCore_trans h (ih (h.2 hb))

/-- The copy of records that a core keeps is read back. -/
theorem recordsOf_words (l : List Record) : recordsOf (l.flatMap Record.words) = l := by
  induction l with
  | nil => rfl
  | cons r l ih =>
    rw [List.flatMap_cons]
    exact congrArg (r :: ·) ih

theorem queueOf_eq (r : Record) : Claims.queueOf r = r.queue := by
  apply BitVec.eq_of_toNat_eq
  have h1 := (r.ctl.extractLsb' 8 2).isLt
  have h2 := (r.ctl.extractLsb' 10 2).isLt
  unfold Claims.queueOf Record.queue fld
  rw [toNat_append_add, BitVec.toNat_ofNat]
  omega

theorem boundFor_eq (l : List Record) (q : BitVec 4) : boundFor l q = l.countP (fun m => Claims.queueOf m == q) := by
  rw [List.countP_eq_length_filter, boundFor]
  simp only [queueOf_eq]

/-- The low bits of a multiple of 2^n are zero. -/
theorem fld_eq_zero {n m : Nat} {x : BitVec n} (h : x.toNat % 2 ^ m = 0) : fld x 0 m = 0 :=
  BitVec.eq_of_toNat_eq (by simpa [fld] using h)

/-- A record that is not malformed, and not for the host, passes and names a gang size. -/
theorem bad_false {r : Record} (hm : ¬ Claims.malformed r) (hh : r.ctl.getLsbD 16 = false) :
    r.bad = false ∧ r.host = false ∧ 1 ≤ r.size := by
  unfold Claims.malformed at hm
  simp only [not_or, not_and, Classical.not_not, ne_eq] at hm
  obtain ⟨h1, h2, h3, h4, h5, h6⟩ := hm
  obtain ⟨h7, h8⟩ := h6 hh
  have hsize : gangSizeOk r.size = true ∧ 1 ≤ r.size := by
    simp only [List.mem_cons, List.not_mem_nil, or_false] at h7
    unfold Record.size fld
    rcases h7 with h | h | h | h | h <;> rw [h] <;> decide
  refine ⟨?_, hh, hsize.2⟩
  have e1 : fld r.ctl 35 29 = 0 := h1
  have e2 : fld r.ctl 12 4 = 0 := h2
  have e3 : fld r.ctl 5 3 = 0 := h3
  have e4 : r.abt = false := by simpa [Record.abt] using h4
  simp [Record.bad, e1, e2, e3, e4, fld_eq_zero (m := 6) h5, fld_eq_zero (m := 2) h8, hsize.1]

theorem canHold_of_base {s : State} {ctx : BitVec 8} {g base : Nat} (hg : 1 ≤ g) (hd : base % g = 0) (hle : base + g ≤ 256)
    (hp : ∀ j < g, s.inPart (BitVec.ofNat 8 (base + j)) ctx = true) : s.canHold ctx g = true := by
  have hbase : g * (base / g) = base := Nat.mul_div_cancel' (Nat.dvd_of_mod_eq_zero hd)
  have hlt : base / g < 256 / g := by
    rw [Nat.lt_iff_add_one_le, Nat.le_div_iff_mul_le hg, Nat.add_mul, Nat.one_mul, Nat.mul_comm, hbase]
    exact hle
  refine List.any_eq_true.mpr ⟨base, List.mem_map.mpr ⟨base / g, List.mem_range.mpr hlt, hbase⟩, ?_⟩
  exact List.all_eq_true.mpr (fun j hj => hp j (List.mem_range.mp hj))

theorem ldWords_reached {kind : AccKind} {elem : Nat} (n : Nat) {s u : State} {va : Word} {l : List Word}
    (h : s.ldWords kind elem va n = .ok (l, u)) : onlyReached s u := by
  induction n generalizing s va l with
  | zero =>
    cases h
    exact onlyReached_refl _
  | succ n ih =>
    unfold State.ldWords at h
    split at h
    · cases h
    · rename_i w s1 h1
      split at h
      · cases h
      · rename_i r s2 h2
        cases h
        exact onlyReached_trans (load_reached h1) (ih h2)

theorem readRecords_reached {va : Word} {n : Nat} (k : Nat) {s u : State} {l : List Record}
    (h : readRecords va n k s = .ok (l, u)) : onlyReached s u := by
  induction k generalizing s l with
  | zero =>
    cases h
    exact onlyReached_refl _
  | succ k ih =>
    unfold readRecords at h
    dsimp only at h
    split at h
    · cases h
    · rename_i w s1 h1
      split at h
      · cases h
      · rename_i r s2 h2
        cases h
        exact onlyReached_trans (ldWords_reached 4 h1) (ih h2)

/-- The records pass, and their queues are mapped and have room for all of them. -/
structure Pushable (s : State) (ctx : BitVec 8) (l : List Record) : Prop where
  passes : ∀ y ∈ l, y.bad = false ∧ y.host = false
  held : ∀ y ∈ l, s.canHold ctx y.size = true
  mapped : ∀ y ∈ l, (s.queueRaw ctx y.queue).state = .mapped
  room : ∀ y ∈ l, boundFor l y.queue + (s.queueRaw ctx y.queue).count ≤ (s.queueRaw ctx y.queue).cap.toNat

theorem spawnTrap_none {s : State} {ctx : BitVec 8} {l : List Record} (h : Pushable s ctx l) : s.spawnTrap ctx l = none := by
  refine List.findSome?_eq_none_iff.mpr (fun x hx => ?_)
  have hm : x.1 ∈ l := List.fst_mem_of_mem_zipIdx hx
  obtain ⟨hb, hh⟩ := h.passes x.1 hm
  have hroom := h.room x.1 hm
  have hcap : ¬ (s.queueRaw ctx x.1.queue).cap.toNat < boundFor l x.1.queue := by omega
  simp [firstTrap, hb, hh, h.mapped x.1 hm, h.held x.1 hm, hcap]

theorem spawnRoom_true {s : State} {ctx : BitVec 8} {l : List Record} (h : Pushable s ctx l) : s.spawnRoom ctx l = true :=
  List.all_eq_true.mpr (fun y hy => decide_eq_true (h.room y hy))

theorem spawnPush_done {s : State} {ctx : BitVec 8} {l : List Record} (h : Pushable s ctx l) (hl : s.core.spawnLost = false)
    (hc : s.core.cmds = []) :
    s.spawnPush ctx l = .done ((l.foldl (fun t r => t.pushRecord ctx r) s).setSpawned []) := by
  have hw : writersAt s 4 = [] := by rw [writersAt, hc]; rfl
  unfold State.spawnPush
  rw [release_done _ hw, hl, if_pos (spawnRoom_true h)]
  rfl

/-- The push changes the queues, and of the core the copy alone. -/
theorem pushed_core {s : State} {ctx : BitVec 8} (l : List Record) (hb : s.dev.badBytes = []) :
    ((l.foldl (fun t r => t.pushRecord ctx r) s).setSpawned []).core = { s.core with spawned := [], spawnLost := false } :=
  congrArg (fun c : Core => { c with spawned := [], spawnLost := false }) (pushRecords_sameCore l hb ctx).1

/-- The records of a task.spawn that goes through, and the state once they are copied: by it, or at its first attempt. -/
def Copied (t : State) (va : Word) (n : Nat) (l : List Record) (o : State) : Prop :=
  (t.core.spawned = [] ∧ readRecords va n n t = .ok (l, o))
    ∨ (l ≠ [] ∧ t.core.spawned = l.flatMap Record.words ∧ t.core.spawnLost = false ∧ o = t)

theorem copied_regErr {t o : State} {va : Word} {n : Nat} {l : List Record} (h : Copied t va n l o) :
    o.core.regErr = t.core.regErr := by
  obtain ⟨-, h⟩ | ⟨-, -, -, rfl⟩ := h
  · exact reached_regErr (readRecords_reached n h)
  · rfl

theorem taskSpawn_completes {t o : State} {a b : BitVec 5} {l : List Record} (h1 : 1 ≤ (t.g b).toNat) (h2 : (t.g b).toNat ≤ 64)
    (ha : (t.g a).toNat % 32 = 0) (hcopy : Copied t (t.g a) (t.g b).toNat l o) (hc : o.core.cmds = [])
    (hp : Pushable o t.ctxIx l) (hb : o.dev.badBytes = []) :
    ∃ w, exec (.taskSpawn a b) t = .next (State.next w) ∧ w.core = { o.core with spawned := [], spawnLost := false } := by
  have hn : ((t.g b).toNat == 0 || decide (64 < (t.g b).toNat)) = false := by simp; omega
  have hva : (fld (t.g a) 0 5 != 0) = false := bne_eq_false_iff_eq.mpr (fld_eq_zero (m := 5) ha)
  obtain ⟨he, hr⟩ | ⟨hne, hs, hlost, rfl⟩ := hcopy
  · have hp' : Pushable (o.setSpawned l) t.ctxIx l := ⟨hp.passes, hp.held, hp.mapped, hp.room⟩
    refine ⟨_, ?_, pushed_core (s := o.setSpawned l) (ctx := t.ctxIx) l hb⟩
    show execTaskSpawn a b t = _
    simp only [execTaskSpawn, hn, hva, firstTrap, he, hr, spawnTrap_none hp', spawnPush_done (s := o.setSpawned l) hp' rfl hc, Res.check,
      List.isEmpty_nil, Bool.not_true, Bool.false_eq_true, if_false]
    rfl
  · have hne' : (l.flatMap Record.words).isEmpty = false := by
      cases l with
      | nil => exact absurd rfl hne
      | cons r l => rfl
    refine ⟨_, ?_, pushed_core (ctx := o.ctxIx) l hb⟩
    show execTaskSpawn a b o = _
    simp only [execTaskSpawn, hn, hva, firstTrap, hs, hne', recordsOf_words, spawnPush_done hp hlost hc, Res.check,
      Bool.not_false, Bool.false_eq_true, if_false, if_true]
    rfl

/-- The conditions of R366 and R375 on records, as the model checks them. -/
theorem pushable_of {s : State} {ctx : BitVec 8} {l : List Record}
    (h : ∀ y ∈ l, ¬ Claims.malformed y ∧ y.ctl.getLsbD 16 = false
      ∧ (∃ base, base % (y.ctl.extractLsb' 0 5).toNat = 0 ∧ base + (y.ctl.extractLsb' 0 5).toNat ≤ 256
          ∧ ∀ j < (y.ctl.extractLsb' 0 5).toNat, s.inPart (BitVec.ofNat 8 (base + j)) ctx = true)
      ∧ (let q := s.queueRaw ctx (Claims.queueOf y)
         q.state = .mapped ∧ l.countP (fun m => Claims.queueOf m == Claims.queueOf y) + (q.tail - q.head).toNat ≤ q.cap.toNat)) :
    Pushable s ctx l where
  passes y hy := by
    obtain ⟨hm, hh, -, -⟩ := h y hy
    obtain ⟨hb, hhost, -⟩ := bad_false hm hh
    exact ⟨hb, hhost⟩
  held y hy := by
    obtain ⟨hm, hh, ⟨base, hdvd, hle, hin⟩, -⟩ := h y hy
    obtain ⟨-, -, hsize⟩ := bad_false hm hh
    exact canHold_of_base hsize hdvd hle hin
  mapped y hy := by
    obtain ⟨-, -, -, hmap, -⟩ := h y hy
    rwa [queueOf_eq] at hmap
  room y hy := by
    obtain ⟨-, -, -, -, hroom⟩ := h y hy
    rw [boundFor_eq, ← queueOf_eq y]
    exact hroom

/-! ### The claims together -/

theorem waitsComplete : Claims.waitsComplete := by
  intro s t x f d a b imm n p r c k z u at' v hrun hcl hvp hblk hreg hint hxu hf hm hform
  have ht : t.core.regErr = [] := (reached_regErr (fetchWord_reached hf)).trans hreg
  have h : AtWord s t x f := atWord_pc hrun hcl hvp hblk hint hxu ht hf hm hform
  refine ⟨?gb, ?acq, ?rel, ?xs, ?cb, ?pl, ?tl, ?ld, ?spawn, ?ldq⟩
  case gb =>
    rintro ⟨hw, hi⟩ q hq1 hq2 hc
    exact resume_completes h _ hw hi (Option.some_ne_none _) (gbWait_completes ((gbPassed_iff _ _).mpr ⟨hq1, hq2⟩) hc) ht
  case acq =>
    rintro ⟨hw, hi⟩ hc
    exact resume_completes h _ hw hi (Option.some_ne_none _) (fenceAcq_completes hc) ht
  case rel =>
    rintro ⟨hw, hi⟩ hc
    exact resume_completes h _ hw hi (Option.some_ne_none _) (fenceRel_completes hc) ht
  case xs =>
    rintro ⟨hw, hi⟩ hc hx
    exact resume_completes h _ hw hi (Option.some_ne_none _) (xsWait_completes hc hx) ht
  case cb =>
    rintro ⟨hw, hi⟩ cfg ring m h0 h1 h2 h3
    rw [show t.onCore _ = _ from (setRing_eq t r _).symm]
    exact resume_completes h _ hw hi (Option.some_ne_none _) (cbAcq_completes h0 h1 h2 h3) ((State.setG_core_regErr ..).trans ht)
  case pl =>
    rintro ⟨hw, hi⟩ hc hfl
    exact resume_completes h _ hw hi (Option.some_ne_none _) (plWait_completes hc hfl) ht
  case tl =>
    rintro ⟨hw, hi⟩ hq
    exact resume_completes h _ hw hi (Option.some_ne_none _) (tlZero_completes hq) ht
  case ld =>
    rintro ⟨hw, hi⟩ y hy
    obtain ⟨o, w, he, ho⟩ := ldD_completes (d := d) hy
    refine ⟨o, w, ?_, ho⟩
    exact resume_completes h _ hw hi (Option.some_ne_none _) he
      ((State.setG_core_regErr o d w).trans ((reached_regErr ho).trans ht))
  case spawn =>
    rintro ⟨hw, hi⟩ l o h1 h2 ha hcopy hc hl hb
    obtain ⟨w, he, hwc⟩ := taskSpawn_completes h1 h2 ha hcopy hc (pushable_of hl) hb
    refine ⟨w, ?_, hwc⟩
    refine resume_completes h _ hw hi (Option.some_ne_none _) he ?_
    rw [hwc]
    exact (copied_regErr hcopy).trans ht
  case ldq =>
    rintro ⟨hw, hi⟩ m q hd htag hmtag h8 h11 hs hfmt hsz hn
    have hq : BitVec.ofNat 4 a.toNat = q := BitVec.ofNat_toNat 4 a
    have hqa : q.toNat = a.toNat := by
      rw [BitVec.toNat_setWidth]
      omega
    rw [hqa] at hn ⊢
    rw [← hq] at hs hsz hn
    obtain ⟨w, he, htw⟩ := vLdq_completes k z hd htag hmtag hs hfmt hsz hn
    refine ⟨consumeTo w a.toNat (v.qrd a.toNat + v.n), ?_, ?_, ?_, ?_⟩
    · exact (xuGroupComplete_waits h (Option.isSome_iff_exists.mpr ⟨_, hw⟩)).trans
        (resume_completes h _ hw hi (Option.some_ne_none _) he ((consumeTo_regErr ..).trans ((onlyElements_regErr htw).trans ht)))
    · exact consumeTo_vqrd h8 h11 w _
    · exact (consumeTo_g ..).trans (onlyElements_g htw)
    · exact (consumeTo_mem ..).trans (onlyElements_mem htw)

/-- Settles O51: each part is a lemma of its own; a form attempted again at the end of its wait is the form itself. -/
theorem systemForms : Obligations.SystemForms :=
  ⟨otherSystemForms, illegalWords, coreEvents, waitEnds, waitsComplete, oneGroup⟩

end Sys2Proof.Proofs.System
end
